-- ==== Sys2Proof/Word.lean ====
section
/-!
DEFINITION. The word types of the Penrex and the sparse maps its state is made of: little-endian words (R7), parcels of
32 bits (R255), 64-bit scalar registers and handles (Table 1.2, Table 4.3), lanes (Table 1.2).
-/

namespace Sys2Proof

/-- A byte. -/
abbrev Byte := BitVec 8
/-- A parcel, a vector lane, an N32 value. -/
abbrev Word32 := BitVec 32
/-- A scalar register, a handle, a queue entry of cq and xq. -/
abbrev Word64 := BitVec 64
/-- The lanes of a vector register or a 512-byte queue entry; a lane beyond the list's end is zero. -/
abbrev Lanes := List Word32

/-- A sparse map from natural-number keys: strictly rising keys, no entry equal to what an absent key reads as. -/
abbrev SMap (α : Type) := List (Nat × α)

end Sys2Proof
end

