-- ==== Sys2Proof/Config.lean ====
section
/-!
DEFINITION. What an implementation fixes, and the free values: constants without a body stand for values the spec leaves
open, and no proof can see what they are.
-/

namespace Sys2Proof.Config

/-- FRAMELOG2 after package reset: R237 gives the range 14 to 20 and the default 16. -/
def frameLog2 : Nat := 16

/-- FRAMELOG2 less 14, as the package manager's configuration sets it at a boot: R237 gives the range (log 83). -/
opaque frameSetting : Nat → Fin 7

/-- The smallest number of cycles between a revocation broadcast and its cycle T (R108). -/
def revocationLead : Nat := 256

/-- The cycles a host, domain or port request takes to return: no fixed length is stated (R371, R373, R418, log 20). -/
opaque returnDelay : Nat → Nat
/-- Whether another package refuses a request: its tables are its own (R294, R296, log 21). -/
opaque remoteRefuses : Nat → Bool
/-- How many cores stand in a square of a launch on another package, given by the group member's domain number, world and launch number:
that launch's image is not this package's (R299, R362, log 36). -/
opaque remoteSquare : Nat × Nat × Nat → Nat → Nat
/-- The input that the participant of a global rank, on another package, brings to an instance (R365, log 36). -/
opaque remoteInputs : Nat → Nat → List (BitVec 8)
/-- In how many cycles from a participant's COLL a segment abort on another package cancels the instance of a domain group, if one does
(R368, log 36). -/
opaque remoteAborts : Nat → Option Nat
/-- The rows that participants of other packages send in an all-to-all: sender, destination rank, record, row (R366, log 36). -/
opaque remoteSends : Nat → List (Nat × Nat × List (BitVec 8) × List (BitVec 8))
/-- The row returned for a combine's record that no local receiver's records name, by the sender's rank and its row (R367, log 36). -/
opaque returnedRow : Nat → Nat → Nat → List (BitVec 8)
/-- The metered energy of an island's segment run, in units of 16 nJ (R310, log 22). -/
opaque meteredEnergy : Nat → Nat
/-- The first GiB of package memory of world 0's carve-out, which the package manager sets (R101, log 106). -/
opaque managerBase : Fin 384
/-- How many GiB world 0's carve-out may hold beyond its first, up to the end of package memory (R101, log 106). -/
opaque managerSpan : Nat
/-- Output blocks of the package manager's DRBG: keys and key pairs (R285, R293, R314, R317, log 23). -/
opaque drbg : Nat → BitVec 512
/-- Whether the seeding of the DRBG fails at a boot (R314, log 64). -/
opaque drbgFails : Nat → Bool
/-- The package addresses of the DRAM rows in which the training of the HBM finds uncorrectable errors at a boot (R314, log 64). -/
opaque trainErrors : Nat → List Nat
/-- The nonce scalar of an ECDSA signature (R289, R317, log 23). -/
opaque signNonce : Nat → BitVec 256
/-- The physical core the package manager picks, where R30 and R203 leave a choice (log 24). -/
opaque placeCore : Nat → Nat
/-- The fields of a handle that an XLATE writes with VALID = 0 and to which Table 4.5 gives no value: FRAME, which R103 leaves
undefined, and the fields it does not state; by world and virtual address, so that a replay writes them again (R1, R54, log 28). -/
opaque undefinedHandle : Nat → BitVec 64 → BitVec 64
/-- Which of two E2M1X codes with bit 0 clear takes a tie, given the block word: R82 does not say (log 29). -/
opaque blockTie : Nat → Nat → Nat → Bool
/-- The rows that the overflow area of a flow of a world holds: its size is not stated (R169, log 39). -/
opaque overflowRows : Nat → Nat → Nat
/-- ORIGIN of a trap that the package manager raises: R249 and Table 9.10 give it no party (log 43). -/
opaque managerOrigin : Nat
/-- The order in which unordered commits become visible (R216, log 25). -/
opaque commitDelay : Nat → Nat
/-- The offset each Scemel link measures against the time source once a frame (R297, log 26). -/
opaque linkOffset : Nat → Int
/-- What the link's correction makes of DTIME in an edge gap, as an advance in cycles (R16, log 26). -/
opaque dtimeAdvance : Nat → Nat
/-- The fused 256-bit unique device secret (R316, log 23). -/
opaque uds : BitVec 256
/-- SHA-256 of the firmware signing key the fuses accept (R313, log 23). -/
opaque fusedKeyHash : BitVec 256
/-- The fused minimum security version at manufacture (R313, log 23). -/
opaque fusedMinSvn : Nat
/-- The boot ROM identifier, measurement 0x01 (R292, R312, log 23). -/
opaque romId : BitVec 256
/-- The certificates of slot 0 made at manufacture: the vendor root and the devid certificate (R317, log 23). -/
opaque vendorChain : List (BitVec 8)
/-- The body layout of a DER certificate the manual leaves to the published standard (R317, log 27). -/
opaque aliasCertificate : BitVec 256 → List (BitVec 8) → List (BitVec 8)
/-- The octets of the standard interface report, for an MMIO range of so many 4 KiB pages and a DMA-remapping capability or none: the
manual leaves them to the published standard (R284, log 27). -/
opaque standardReport : Nat → Bool → List (BitVec 8)
/-- The bytes that a segment of an image declares for its commit buffer: R215 and R225 test the declaration, and no table of the image gives
it a place (log 70). -/
opaque commitBytes : List (BitVec 8) → Nat → Nat
/-- Whether the last member launch of a domain group has ended, where members on other packages are left: their ends are not announced to
this package (R299, log 69). -/
opaque groupOver : Nat → Bool
/-- CAPACITY of the receive bin of a participant on another package, by its rank in the instance (R300, log 36). -/
opaque remoteCapacity : Nat → Nat → Nat
/-- An SPDM message's octets the manual leaves to the published standard (R289, R291, log 27). -/
opaque spdmFrame : Nat → List (BitVec 8) → List (BitVec 8)

end Sys2Proof.Config
end

