-- ==== Sys2Proof/Syntax.lean ====
section
/-!
DEFINITION. The syntax: one constructor per row of the table of operations and events. The instruction words of the four
sequencers, the matrix, transfer, vector, pattern and channel words carry their fields (Tables 5.2, 7.8, 10.2, 10.5, 10.9,
R263, R267); the device's own steps carry what names the unit they happen at, or what the outside world hands in.
-/

namespace Sys2Proof

/-- The four sequencers of a core (Table 1.2). -/
inductive Seq where
  | c | l | x | s
  deriving DecidableEq, Repr

/-- The units of a core that carry bounded commands (R47, Table 1.5); ROUTE is the bin unit's. -/
inductive UnitId where
  | copy | matrix | route | row | coll
  deriving DecidableEq, Repr

/-- A register field: s0–s31 in C, a0–a15 in L and S, h0–h31 where a handle is named (R337). -/
abbrev Reg := BitVec 5

/-- What the fields common to the short words carry: the idle count of R255, and whether any must-be-zero or unused bit of
the word is set, which issuing the word turns into warn(MBZ) (R258). -/
structure Hdr where
  idle : BitVec 3
  mbz : Bool
  deriving DecidableEq, Repr

/-- A 96-bit transfer word (R267): A, B, C, Q of parcel 0, OFF21 and FN11 of parcel 1, IMM32. -/
structure XferWord where
  idle : BitVec 3
  a : Reg
  b : Reg
  c : Reg
  q : BitVec 5
  off : BitVec 21
  fn : BitVec 11
  imm : Word32
  deriving DecidableEq, Repr

/-- A 96-bit vector word (Table 10.5); `top` is the must-be-zero pair P0 [31:30]. -/
structure VecWord where
  idle : BitVec 3
  dst : BitVec 6
  sa : BitVec 6
  sb : BitVec 6
  sc : BitVec 6
  stra : BitVec 3
  strb : BitVec 3
  strc : BitVec 3
  ty : BitVec 4
  rnd : BitVec 2
  sat : BitVec 1
  mask : BitVec 3
  fn : BitVec 7
  imm : Word32
  top : BitVec 2
  deriving DecidableEq, Repr

/-- A 192-bit matrix word (Table 10.9). Parcels 1, 2 and 3 are kept whole: MRET and MDRAIN lay them out their own way
(Table 19.3). `top0` is P0 [31:29] and `top5` P5 [31:20], both must-be-zero. -/
structure MatWord where
  idle : BitVec 3
  acc : BitVec 3
  asrc : BitVec 2
  asel : BitVec 5
  bsrc : BitVec 2
  bsel : BitVec 5
  top0 : BitVec 3
  p1 : Word32
  p2 : Word32
  p3 : Word32
  stamp : Word32
  bound : BitVec 20
  top5 : BitVec 12
  deriving DecidableEq, Repr

/-- What a debug read names (R118): a package-memory line, a core's scratchpad bytes, or a core's B operand buffer. -/
inductive DebugTarget where
  | line (addr : Nat)
  | scratchpad (core offset : Nat)
  | bBuffer (core offset : Nat)
  deriving DecidableEq, Repr

/-- A request that a port carries in (R142, R294): from world `world` of package `pkg` to device `device` of its domain
table, at byte `offset` of the target carve-out, one 64-byte line; `wdata` is the line a write carries, and `tee` that a host's request
carries the TEE bit on its interface's bound stream (R280). -/
structure RemoteReq where
  pkg : Nat
  world : Nat
  target : Nat
  offset : Nat
  tag : Nat
  wdata : Option (BitVec 512)
  tee : Bool
  deriving DecidableEq, Repr

/-- The instruction words, the device's own steps, and last the requests and events from outside: one constructor per row of the
table. -/
inductive Instr where
  /-- ADD (R338). -/
  | add (h : Hdr) (d a b : Reg)
  /-- SUB (R425). -/
  | sub (h : Hdr) (d a b : Reg)
  /-- MUL (R400). -/
  | mul (h : Hdr) (d a b : Reg)
  /-- MULH (R400). -/
  | mulh (h : Hdr) (d a b : Reg)
  /-- MULHN (R400). -/
  | mulhn (h : Hdr) (d a b : Reg)
  /-- DIV (R378). -/
  | div (h : Hdr) (d a b : Reg)
  /-- DIVN (R378). -/
  | divn (h : Hdr) (d a b : Reg)
  /-- REM (R412). -/
  | rem (h : Hdr) (d a b : Reg)
  /-- REMN (R412). -/
  | remn (h : Hdr) (d a b : Reg)
  /-- AND (R339). -/
  | and (h : Hdr) (d a b : Reg)
  /-- ANDN (R339). -/
  | andn (h : Hdr) (d a b : Reg)
  /-- OR (R407). -/
  | or (h : Hdr) (d a b : Reg)
  /-- XOR (R454). -/
  | xor (h : Hdr) (d a b : Reg)
  /-- SHL (R414). -/
  | shl (h : Hdr) (d a b : Reg)
  /-- SHR (R414). -/
  | shr (h : Hdr) (d a b : Reg)
  /-- SHA (R414). -/
  | sha (h : Hdr) (d a b : Reg)
  /-- ROT (R414). -/
  | rot (h : Hdr) (d a b : Reg)
  /-- MIN (R393). -/
  | min (h : Hdr) (d a b : Reg)
  /-- MINN (R393). -/
  | minn (h : Hdr) (d a b : Reg)
  /-- MAX (R393). -/
  | max (h : Hdr) (d a b : Reg)
  /-- MAXN (R393). -/
  | maxn (h : Hdr) (d a b : Reg)
  /-- CMPEQ (R360). -/
  | cmpeq (h : Hdr) (d a b : Reg)
  /-- CMPNE (R360). -/
  | cmpne (h : Hdr) (d a b : Reg)
  /-- CMPLT (R360). -/
  | cmplt (h : Hdr) (d a b : Reg)
  /-- CMPLTN (R360). -/
  | cmpltn (h : Hdr) (d a b : Reg)
  /-- CMPLE (R360). -/
  | cmple (h : Hdr) (d a b : Reg)
  /-- CMPLEN (R360). -/
  | cmplen (h : Hdr) (d a b : Reg)
  /-- SEL (R421). -/
  | sel (h : Hdr) (d a b : Reg)
  /-- CLZ (R359). -/
  | clz (h : Hdr) (d a : Reg)
  /-- CTZ (R359). -/
  | ctz (h : Hdr) (d a : Reg)
  /-- POPC (R359). -/
  | popc (h : Hdr) (d a : Reg)
  /-- SEXT (R422). -/
  | sext (h : Hdr) (d a : Reg) (w : BitVec 5)
  /-- ZEXT (R422). -/
  | zext (h : Hdr) (d a : Reg) (w : BitVec 5)
  /-- ADDI (R338). -/
  | addi (h : Hdr) (d a : Reg) (imm : BitVec 10)
  /-- ANDI (R339). -/
  | andi (h : Hdr) (d a : Reg) (imm : BitVec 10)
  /-- ORI (R407). -/
  | ori (h : Hdr) (d a : Reg) (imm : BitVec 10)
  /-- XORI (R454). -/
  | xori (h : Hdr) (d a : Reg) (imm : BitVec 10)
  /-- SHLI (R414). -/
  | shli (h : Hdr) (d a : Reg) (n : BitVec 6)
  /-- SHRI (R414). -/
  | shri (h : Hdr) (d a : Reg) (n : BitVec 6)
  /-- SHAI (R414). -/
  | shai (h : Hdr) (d a : Reg) (n : BitVec 6)
  /-- LD (R389). -/
  | ld (h : Hdr) (d a space : BitVec 5) (sz : BitVec 3)
  /-- ST (R389). -/
  | st (h : Hdr) (d a space : BitVec 5) (sz : BitVec 3)
  /-- ATADD (R341). -/
  | atadd (h : Hdr) (d a space : BitVec 5)
  /-- ATMIN (R341). -/
  | atmin (h : Hdr) (d a space : BitVec 5)
  /-- ATMAX (R341). -/
  | atmax (h : Hdr) (d a space : BitVec 5)
  /-- ATAND (R341). -/
  | atand (h : Hdr) (d a space : BitVec 5)
  /-- ATOR (R341). -/
  | ator (h : Hdr) (d a space : BitVec 5)
  /-- ATXCH (R341). -/
  | atxch (h : Hdr) (d a space : BitVec 5)
  /-- ATCAS (R341). -/
  | atcas (h : Hdr) (d a space : BitVec 5)
  /-- B (R343). -/
  | b (h : Hdr) (off : BitVec 15)
  /-- BZ (R343). -/
  | bz (h : Hdr) (a : Reg) (off : BitVec 15)
  /-- BNZ (R343). -/
  | bnz (h : Hdr) (a : Reg) (off : BitVec 15)
  /-- CALL (R357). -/
  | call (h : Hdr) (a : Reg) (off : BitVec 15)
  /-- RET (R413). -/
  | ret (h : Hdr)
  /-- PREP_LABEL (R386). -/
  | prepLabel (h : Hdr) (jt : BitVec 2) (off : BitVec 15)
  /-- PREP_REGISTER (R386). -/
  | prepRegister (h : Hdr) (jt : BitVec 2) (r : Reg)
  /-- JP (R387). -/
  | jp (h : Hdr) (jt : BitVec 2)
  /-- LOOP (R391). -/
  | loop (h : Hdr) (a : Reg) (off : BitVec 15)
  /-- BOPUT (R354). -/
  | boput (h : Hdr) (a : Reg) (q : BitVec 2)
  /-- BOGET (R354). -/
  | boget (h : Hdr) (off : BitVec 15)
  /-- IDLE (R385). -/
  | idle (h : Hdr) (n : BitVec 15)
  /-- REALIGN (R411). -/
  | realign (h : Hdr)
  /-- STAMP (R424). -/
  | stamp (h : Hdr) (d : Reg) (sel : BitVec 2)
  /-- TKPUT (R427). -/
  | tkput (h : Hdr) (q n : BitVec 4)
  /-- TKGET (R427). -/
  | tkget (h : Hdr) (q n : BitVec 4)
  /-- MARK (R212). -/
  | mark (h : Hdr) (n : BitVec 15)
  /-- FENCE (R216). -/
  | fence (h : Hdr) (scope : BitVec 3) (kind : BitVec 2)
  /-- EVPOP (R381). -/
  | evpop (h : Hdr) (d : Reg)
  /-- EVWAIT (R381). -/
  | evwait (h : Hdr)
  /-- SPUT (R423). -/
  | sput (h : Hdr) (a : Reg)
  /-- SGET (R423). -/
  | sget (h : Hdr) (d : Reg)
  /-- BBINIT (R346). -/
  | bbinit (h : Hdr) (a : Reg)
  /-- BBWAIT (R348). -/
  | bbwait (h : Hdr) (a : Reg)
  /-- BBTEST (R348). -/
  | bbtest (h : Hdr) (d a : Reg)
  /-- BBEXP (R346). -/
  | bbexp (h : Hdr) (a : Reg) (imm : Word32)
  /-- BINRST (R158). -/
  | binrst (h : Hdr) (n : BitVec 4)
  /-- BINFILL (R150). -/
  | binfill (h : Hdr) (d : Reg) (n : BitVec 4) (sel : BitVec 3)
  /-- BINPASS (R159). -/
  | binpass (h : Hdr) (n : BitVec 4)
  /-- BINEND (R161). -/
  | binend (h : Hdr) (n : BitVec 4)
  /-- BINDEF (R352). -/
  | bindef (h : Hdr) (n : BitVec 5) (imm : Word32)
  /-- HINV (R383). -/
  | hinv (h : Hdr) (n : Reg)
  /-- HQRY (R384). -/
  | hqry (h : Hdr) (d n : Reg)
  /-- PHEND (R410). -/
  | phend (h : Hdr) (c : BitVec 3)
  /-- SEGEND (R420). -/
  | segend (h : Hdr) (mask : BitVec 8)
  /-- CASK (R358). -/
  | cask (h : Hdr) (d : Reg) (sel : BitVec 1)
  /-- TRAP (R430). -/
  | trap (h : Hdr) (n : BitVec 15)
  /-- CRD (R375). -/
  | crd (h : Hdr) (d : Reg) (cr : BitVec 12)
  /-- CWR (R375). -/
  | cwr (h : Hdr) (d : Reg) (cr : BitVec 12)
  /-- HALT (R382). -/
  | halt (h : Hdr)
  /-- NOP (R404). -/
  | nop (h : Hdr)
  /-- BRK (R356). -/
  | brk (h : Hdr) (n : BitVec 15)
  /-- NSLICE (R403). -/
  | nslice (h : Hdr) (d : Reg) (sel : BitVec 3) (r : Reg)
  /-- LI (R390). -/
  | li (h : Hdr) (d : Reg) (imm : Word32)
  /-- LIH (R390). -/
  | lih (h : Hdr) (d a : Reg) (imm : Word32)
  /-- XLATE (R453). -/
  | xlate (h : Hdr) (d a : Reg) (imm : Word32)
  /-- PHASE (R409). -/
  | phase (h : Hdr) (c : BitVec 5) (a : Reg) (imm : Word32)
  /-- NEST (R401). -/
  | nest (h : Hdr) (a : Reg) (imm : Word32)
  /-- COLL_ALLRED (R365). -/
  | collAllred (h : Hdr) (a : Reg) (rel : BitVec 1) (elem rop : BitVec 2) (stamp : Word32)
  /-- COLL_REDUCE (R365). -/
  | collReduce (h : Hdr) (a : Reg) (rel : BitVec 1) (elem rop : BitVec 2) (stamp : Word32)
  /-- COLL_BCAST (R365). -/
  | collBcast (h : Hdr) (a : Reg) (rel : BitVec 1) (stamp : Word32)
  /-- COLL_GATHER (R365). -/
  | collGather (h : Hdr) (a : Reg) (rel : BitVec 1) (stamp : Word32)
  /-- COLL_A2A (R366). -/
  | collA2a (h : Hdr) (a : Reg) (rel : BitVec 1) (stamp : Word32)
  /-- COLL_COMBINE (R367). -/
  | collCombine (h : Hdr) (a : Reg) (rel : BitVec 1) (stamp : Word32)
  /-- COLL_SYNC (R365). -/
  | collSync (h : Hdr) (a : Reg) (rel : BitVec 1) (stamp : Word32)
  /-- ROWG (R418). -/
  | rowg (h : Hdr) (a : Reg) (imm : Word32)
  /-- ROWS (R418). -/
  | rows (h : Hdr) (a : Reg) (imm : Word32)
  /-- ROWSA (R418). -/
  | rowsa (h : Hdr) (a : Reg) (imm : Word32)
  /-- VLD (R441). -/
  | vld (w : XferWord)
  /-- VST (R451). -/
  | vst (w : XferWord)
  /-- COPY (R371). -/
  | copy (w : XferWord)
  /-- OBLD (R405). -/
  | obld (w : XferWord)
  /-- ROUTE (R415). -/
  | route (w : XferWord)
  /-- MMA (R395). -/
  | mma (w : MatWord)
  /-- MMAP (R396). -/
  | mmap (w : MatWord)
  /-- MRET (R397). -/
  | mret (w : MatWord)
  /-- MDRAIN (R398). -/
  | mdrain (w : MatWord)
  /-- VADD (R434). -/
  | vadd (w : VecWord)
  /-- VSUB (R434). -/
  | vsub (w : VecWord)
  /-- VMUL (R434). -/
  | vmul (w : VecWord)
  /-- VFMA (R434). -/
  | vfma (w : VecWord)
  /-- VFMS (R434). -/
  | vfms (w : VecWord)
  /-- VFNMA (R434). -/
  | vfnma (w : VecWord)
  /-- VMIN (R434). -/
  | vmin (w : VecWord)
  /-- VMAX (R434). -/
  | vmax (w : VecWord)
  /-- VABS (R434). -/
  | vabs (w : VecWord)
  /-- VNEG (R434). -/
  | vneg (w : VecWord)
  /-- VRCP (R96). -/
  | vrcp (w : VecWord)
  /-- VRSQ (R96). -/
  | vrsq (w : VecWord)
  /-- VSQRT (R96). -/
  | vsqrt (w : VecWord)
  /-- VDIV (R96). -/
  | vdiv (w : VecWord)
  /-- VEXP2 (R96). -/
  | vexp2 (w : VecWord)
  /-- VLOG2 (R96). -/
  | vlog2 (w : VecWord)
  /-- VIADD (R439). -/
  | viadd (w : VecWord)
  /-- VISUB (R439). -/
  | visub (w : VecWord)
  /-- VIMUL (R439). -/
  | vimul (w : VecWord)
  /-- VIMULH (R439). -/
  | vimulh (w : VecWord)
  /-- VIMAC (R439). -/
  | vimac (w : VecWord)
  /-- VAND (R435). -/
  | vand (w : VecWord)
  /-- VOR (R435). -/
  | vor (w : VecWord)
  /-- VXOR (R435). -/
  | vxor (w : VecWord)
  /-- VANDN (R435). -/
  | vandn (w : VecWord)
  /-- VSHL (R439). -/
  | vshl (w : VecWord)
  /-- VSHR (R439). -/
  | vshr (w : VecWord)
  /-- VSHA (R439). -/
  | vsha (w : VecWord)
  /-- VIMIN (R439). -/
  | vimin (w : VecWord)
  /-- VIMAX (R439). -/
  | vimax (w : VecWord)
  /-- VCLMUL (R326). -/
  | vclmul (w : VecWord)
  /-- VPOPC (R439). -/
  | vpopc (w : VecWord)
  /-- VCMP (R437). -/
  | vcmp (w : VecWord)
  /-- VSEL (R449). -/
  | vsel (w : VecWord)
  /-- VMSK (R444). -/
  | vmsk (w : VecWord)
  /-- VCVT (R438). -/
  | vcvt (w : VecWord)
  /-- VQNT (R447). -/
  | vqnt (w : VecWord)
  /-- VPACK (R445). -/
  | vpack (w : VecWord)
  /-- VUNPK (R445). -/
  | vunpk (w : VecWord)
  /-- VRED (R448). -/
  | vred (w : VecWord)
  /-- VPERM (R446). -/
  | vperm (w : VecWord)
  /-- VSHUF (R450). -/
  | vshuf (w : VecWord)
  /-- VBCAST (R436). -/
  | vbcast (w : VecWord)
  /-- VSLIDE (R436). -/
  | vslide (w : VecWord)
  /-- VIOTA (R440). -/
  | viota (w : VecWord)
  /-- VMOV (R436). -/
  | vmov (w : VecWord)
  /-- VXS (R436). -/
  | vxs (w : VecWord)
  /-- TRD (R431). -/
  | trd (w : VecWord)
  /-- TWR (R431). -/
  | twr (w : VecWord)
  /-- TZERO (R431). -/
  | tzero (w : VecWord)
  /-- TOPKC (R429). -/
  | topkc (w : VecWord)
  /-- PDIM (R408). -/
  | pdim (g : BitVec 3) (pr pc : BitVec 4) (order : BitVec 1)
  /-- PBAND (R192). -/
  | pband (g : BitVec 3) (w : BitVec 11) (wrap : BitVec 1)
  /-- PDIL (R408). -/
  | pdil (g : BitVec 3) (off : BitVec 11) (step : BitVec 6)
  /-- PBLK (R192). -/
  | pblk (g : BitVec 3) (b : BitVec 11)
  /-- PKRON (R193). -/
  | pkron (g a b : BitVec 3)
  /-- PHASH (R194). -/
  | phash (g : BitVec 3) (n : BitVec 11) (seed : BitVec 6)
  /-- PEMIT (R195). -/
  | pemit (g : BitVec 3) (r : BitVec 10)
  /-- PINV (R195). -/
  | pinv (g : BitVec 3)
  /-- PEND (R408). -/
  | pend (g : BitVec 3)
  /-- DACT (R130). -/
  | dact (delta : BitVec 10) (bank : BitVec 4) (row : BitVec 16)
  /-- DPRE (R134). -/
  | dpre (delta : BitVec 10) (bank : BitVec 4)
  /-- DPRE_ALL (R455). -/
  | dpreAll (delta : BitVec 10)
  /-- DRD (R131). -/
  | drd (delta : BitVec 10) (bank : BitVec 4) (row : BitVec 16) (col : BitVec 4) (core : BitVec 9) (slot : BitVec 3)
  /-- DWR (R377). -/
  | dwr (delta : BitVec 10) (bank : BitVec 4) (row : BitVec 16) (col : BitVec 4) (core : BitVec 9) (slot : BitVec 3)
  /-- DREF (R136). -/
  | dref (delta : BitVec 10)
  /-- DREF_PB (R136). -/
  | drefPb (delta : BitVec 10) (bank : BitVec 4)
  /-- DNOP (R130). -/
  | dnop (delta : BitVec 10)
  /-- DNOP_END (R135). -/
  | dnopEnd (delta : BitVec 10)
  /-- DIND (R141). -/
  | dind (delta : BitVec 10) (slot : BitVec 3)
  /-- DLOOP (R132). -/
  | dloop (lenw : BitVec 11) (rep : BitVec 16)
  /-- REGISTER_RESULT_LANDING (R48). -/
  | registerResultLanding (core : Nat) (q : Seq)
  /-- XLATE_LANDING (R453). -/
  | xlateLanding (core : Nat)
  /-- VECTOR_QUEUE_PUSH (R51). -/
  | vectorQueuePush (core : Nat)
  /-- SLIP_ALLOWANCE_OVERRUN (R44). -/
  | slipAllowanceOverrun (core : Nat) (q : Seq)
  /-- COMMAND_BOUND_OVERRUN (R47). -/
  | commandBoundOverrun (core : Nat) (u : UnitId)
  /-- MATRIX_WORD_START (R177). -/
  | matrixWordStart (core : Nat)
  /-- MATRIX_PIPE_LINE_TAKE (R175). -/
  | matrixPipeLineTake (core : Nat)
  /-- TILE_STEP_COMPLETION (R175). -/
  | tileStepCompletion (core : Nat)
  /-- TILE_DRAIN_END (R52). -/
  | tileDrainEnd (core tile : Nat)
  /-- TILE_WRITE_EFFECT (R179). -/
  | tileWriteEffect (core : Nat)
  /-- MRET_COMPLETION (R180). -/
  | mretCompletion (core : Nat)
  /-- MDRAIN_ENTRY_PUSH (R182). -/
  | mdrainEntryPush (core : Nat)
  /-- TOPKC_ENTRY_PUSH (R429). -/
  | topkcEntryPush (core : Nat)
  /-- COPY_START (R373). -/
  | copyStart (core : Nat)
  /-- COPY_LAND_LINE_TAKE (R372). -/
  | copyLandLineTake (core : Nat)
  /-- COPY_COMPLETION (R374). -/
  | copyCompletion (core : Nat)
  /-- INBOUND_LINE_TAKE (R204). -/
  | inboundLineTake (core : Nat)
  /-- VLD_ENTRY_PUSH (R442). -/
  | vldEntryPush (core : Nat)
  /-- VST_ENTRY_POP (R452). -/
  | vstEntryPop (core : Nat)
  /-- OBLD_COMPLETION (R405). -/
  | obldCompletion (core : Nat)
  /-- BIN_COMMAND_START (R150). -/
  | binCommandStart (core : Nat)
  /-- BIN_COMMAND_COMPLETION (R150). -/
  | binCommandCompletion (core : Nat)
  /-- ROUTE_COMPLETION (R416). -/
  | routeCompletion (core : Nat)
  /-- ROW_COMMAND_START (R165). -/
  | rowCommandStart (die : Nat)
  /-- ROW_WINDOW_START (R167). -/
  | rowWindowStart (die : Nat)
  /-- ROW_COMMAND_COMPLETION (R419). -/
  | rowCommandCompletion (die : Nat)
  /-- COLL_COMPLETION (R368). -/
  | collCompletion (inst : Nat)
  /-- DRD_LINE_LANDING (R130). -/
  | drdLineLanding (chan : Nat)
  /-- DIND_LINE_DELIVERY (R142). -/
  | dindLineDelivery (chan : Nat)
  /-- REFRESH_COMPLETE (R134). -/
  | refreshComplete (chan bank : Nat)
  /-- REFRESH_DEADLINE_MISSED (R137). -/
  | refreshDeadlineMissed (chan bank : Nat)
  /-- IDLE_CHANNEL_REFRESH (R138). -/
  | idleChannelRefresh (chan : Nat)
  /-- IDLE_REMOTE_WINDOW (R138). -/
  | idleRemoteWindow (chan : Nat)
  /-- LEAD_IN_REFRESH (R139). -/
  | leadInRefresh (chan : Nat)
  /-- FRAME_START (R241). -/
  | frameStart
  /-- EDGE_GAP (R239). -/
  | edgeGap
  /-- SEGMENT_ENTRY (R38). -/
  | segmentEntry (launch : Nat)
  /-- SEGMENT_END (R232). -/
  | segmentEnd (launch : Nat)
  /-- COMMIT_ACKNOWLEDGE (R215). -/
  | commitAcknowledge (launch : Nat)
  /-- FRAME_OVERRUN (R234). -/
  | frameOverrun (launch : Nat)
  /-- CORE_STOP (R248). -/
  | coreStop (launch core : Nat)
  /-- TRAP_SEGMENT_END (R248). -/
  | trapSegmentEnd (launch : Nat)
  /-- REVOCATION_EFFECT (R109). -/
  | revocationEffect (core : Nat) (pid : BitVec 12)
  /-- LAUNCH_RECORD_FETCH (R224). -/
  | launchRecordFetch (world : Nat)
  /-- KEY_IMPORT_RESULT (R287). -/
  | keyImportResult (world : Nat)
  /-- REPLICA_TABLE_SWITCH (R302). -/
  | replicaTableSwitch (world : Nat)
  /-- RING_SWAP (R169). -/
  | ringSwap (world flow : Nat)
  /-- PACKAGE_RESET_RELEASE (R314). -/
  | packageResetRelease
  /-- RECOVERY_VERIFY_DONE (R315). -/
  | recoveryVerifyDone
  /-- RESERVED_OPCODE (R260). -/
  | reservedOpcode (w : Word32)
  /-- FETCH_FAULT (R256). -/
  | fetchFault (missing : Nat)
  /-- COPY_LQ_ENTRY_PUSH (R373). -/
  | copyLqEntryPush (core : Nat)
  /-- OUTGOING_SLOT_LINE_APPEND (R372). -/
  | outgoingSlotLineAppend (core : Nat)
  /-- COLL_INSTANCE_CANCEL (R368). -/
  | collInstanceCancel (inst core : Nat)
  /-- REVOCATION_BROADCAST (R108). -/
  | revocationBroadcast (world : Nat) (pid : BitVec 12) (t : Nat)
  /-- LQ_CREATE (R222). -/
  | lqCreate (world : Nat) (qlog2 : BitVec 4)
  /-- LQ_DESTROY (R224). -/
  | lqDestroy (world : Nat)
  /-- DOORBELL (R222). -/
  | doorbell (world : Nat) (tail : BitVec 12)
  /-- RECORD_WINDOW_WRITE (R222). -/
  | recordWindowWrite (world offset : Nat) (bytes : List Byte)
  /-- KEY_IMPORT_GO (R286). -/
  | keyImportGo (world : Nat)
  /-- REPLICA_SWITCH_ARM (R302). -/
  | replicaSwitchArm (world : Nat) (time : Word64)
  /-- REGISTER_WRITE (R278). -/
  | registerWrite (world offset : Nat) (bytes : List Byte) (tee : Bool)
  /-- LOCK_INTERFACE_REQUEST (R281). -/
  | lockInterfaceRequest (world : Nat)
  /-- START_INTERFACE_REQUEST (R281). -/
  | startInterfaceRequest (world : Nat)
  /-- STOP_INTERFACE_REQUEST (R282). -/
  | stopInterfaceRequest (world : Nat)
  /-- GET_DEVICE_INTERFACE_REPORT (R284). -/
  | getDeviceInterfaceReport (world : Nat) (secure : Bool)
  /-- IDE_INTEGRITY_FAILURE (R280). -/
  | ideIntegrityFailure (stream : Nat)
  /-- FROZEN_CONFIG_CHANGE (R281). -/
  | frozenConfigChange (world : Nat)
  /-- GET_CERTIFICATE (R291). -/
  | getCertificate (slot : BitVec 3)
  /-- CHALLENGE (R291). -/
  | challenge (slot : BitVec 3) (nonce : BitVec 256)
  /-- KEY_EXCHANGE (R289). -/
  | keyExchange (slot : BitVec 3) (peerX peerY : BitVec 256)
  /-- SET_CERTIFICATE (R290). -/
  | setCertificate (slot : BitVec 3) (secure : Bool) (bytes : List Byte)
  /-- GET_MEASUREMENTS (R292). -/
  | getMeasurements (index : BitVec 8)
  /-- VF_ENABLE (R277). -/
  | vfEnable (world cbase csize : Nat) (units : List Nat)
  /-- VF_RESET (R254). -/
  | vfReset (world : Nat)
  /-- DEBUG_READ (R118). -/
  | debugRead (world : Nat) (t : DebugTarget)
  /-- REMOTE_REQUEST (R294). -/
  | remoteRequest (r : RemoteReq)
  /-- SCEMEL_FLIT_RECEIVE (R293). -/
  | scemelFlitReceive (port : Nat) (ok : Bool) (lines : List RemoteReq)
  /-- GROUP_ENROLMENT (R299). -/
  | groupEnrolment (group count pkg world : Nat)
  /-- PACKET_ARRIVAL (R305). -/
  | packetArrival (world flow : Nat) (msg : Word64) (payload : List Byte)
  /-- RECOVERY_LOAD (R315). -/
  | recoveryLoad
  /-- THERMAL_THROTTLE (R311). -/
  | thermalThrottle (temp : Nat)
  /-- THERMAL_SHUTDOWN (R311). -/
  | thermalShutdown (temp : Nat)
  /-- SUPPLY_OUT_OF_RANGE (R311). -/
  | supplyOutOfRange (millivolts : Nat)
  /-- LINK_BRING_UP (R293). -/
  | linkBringUp (pkg : Nat) (source : Bool)
  /-- KEY_SLOT_ASSIGNMENT (R288). -/
  | keySlotAssignment (slot world : Nat)
  /-- IDE_STREAM_SETUP (R280). -/
  | ideStreamSetup (stream world : Nat)
  deriving DecidableEq, Repr

end Sys2Proof
end

