-- ==== Sys2Proof/Machine/State.lean ====
section
/-!
DEFINITION. The state of a VLD-5120-M package: cores with their sequencers, queues, stores and units (Tables 1.2 to 1.5), the
uncore (Table 1.6), worlds, launches, frames, casks, keys and the host interface; and the state after package reset. Plain
data only. Numbers of cycles, offsets, counts and indices are natural numbers; register contents are bit vectors.
-/

namespace Sys2Proof.Machine

open Sys2Proof

/-! ### Outcomes -/

/-- The reasons the machine stops: none. Every cause of Table 9.11 is a trap, which is a next state, and the clock always goes on. -/
inductive Fault where
  deriving DecidableEq, Repr

/-- The reasons a step is refused. -/
inductive Refusal where
  /-- An instruction without a meaning; raised by its arm of `exec`. Safe. -/
  | notModelled (mnemonic : String)
  deriving DecidableEq, Repr

/-! ### Registers of a core -/

/-- An s or a register: its value and its static bit (R17, R55). -/
structure SReg where
  val : Word64
  static : Bool
  deriving DecidableEq, Repr

/-- A defined bin's descriptor and state (Tables 6.1 and 6.2). -/
structure Bin where
  word : Word64
  fill : Nat
  drop : Nat
  defer : Nat
  pass : Nat
  active : Bool
  cur : Nat
  tags : SMap (BitVec 8)
  deriving DecidableEq, Repr

/-- A sub-pattern register g0–g7 (R191, R456); `pat` lists each row's columns in generation order. -/
structure GReg where
  dims : Option (Nat × Nat)
  order : Nat
  step : Nat
  off : Nat
  pat : Option (List (List Nat))
  deriving DecidableEq, Repr

/-- What a pattern program has built so far (R195, R408). -/
structure PatRun where
  emitted : Option (Nat × Nat)
  rows : List (List Nat)
  dims : Nat × Nat
  inv : Option (List (List (Nat × Nat)))
  ended : Bool
  cause : Option Nat
  deriving DecidableEq, Repr

/-- The trellis context (R191): pattern memory, program table, g registers, current program, PT and POS. -/
structure Trellis where
  mem : SMap Word32
  table : List (Nat × Nat)
  g : SMap GReg
  cur : Option Nat
  pt : Bool
  pos : Nat
  run : PatRun
  deriving DecidableEq, Repr

/-- A core's registers and register-like unit state: what a replay restores and a frame edge seals (Table 9.8, R23, R24, R151, R191, R270,
R362); `events` is the event queue, each record with its completion cycle and engine; `collTabs` the replica table under which each
all-to-all, by group, square and META_IN, resolved its rows (R302). `hva` is the virtual address each handle's XLATE was given (R106). -/
structure Regs where
  s : SMap SReg
  la : SMap SReg
  sa : SMap SReg
  jtc : SMap Word32
  jtl : SMap Word32
  jts : SMap Word32
  v : SMap Lanes
  m : SMap (BitVec 128)
  h : SMap Word64
  hva : SMap Nat
  warn : Word64
  livev : Word32
  csn : SMap Word32
  bins : SMap Bin
  trellis : Trellis
  collSeq : List ((Nat × Nat) × Nat)
  collTabs : List ((Nat × Nat × Nat) × SMap (List Nat))
  events : List (Nat × Nat × Word64)
  deriving DecidableEq, Repr

/-! ### Streams, landings and queues -/

/-- An active loop level (R391). -/
structure LoopLevel where
  first : Nat
  last : Nat
  left : Nat
  deriving DecidableEq, Repr

/-- Where a result lands. -/
inductive Dest where
  | reg (q : Seq) (r : Nat)
  | jt (q : Seq) (r : Nat)
  | v (r : Nat)
  | m (r : Nat)
  | h (r : Nat)
  | cr (n : Nat)
  | nest
  | none
  deriving DecidableEq, Repr

/-- What a stream's stall waits for (R44, Table 2.1): the entry of a queue at a position, counted in pops; room for a queue's entry at a
position, counted in claims (queues 0 lq, 1 sq, 2 cq, 3 xq, 4 to 6 the branch-outcome queues of L, X, S); a token counter; a tile; a byte
barrier; an event record; the partner's MARK of a count; the commands of a phase class; a result that has not come back. -/
inductive Await where
  | nothing
  | pop (queue pos : Nat)
  | push (queue pos : Nat)
  | token (k : Nat)
  | tile (t : Nat)
  | barrier (addr : Nat)
  | event
  | mark (n : Nat)
  | phase (k : Nat)
  | result (d : Dest)
  deriving DecidableEq, Repr

/-- One sequencer's issue state: `pc` in parcels, `base` the cycle of R37 to which the word's idle count is added, `hold` a cycle before
which no issue is tried (a stall's retry or a planned wait), the stall counts of R43, R44 and R48 (`stallRun` counts the single stall that
`stallAt` saw last, in which `stallLate` says whether a result was awaited and `awaits` what was), whether the stream has issued SEGEND or
HALT, and whether `base` is a cycle fixed by a tick, which stalls do not move (R45). -/
structure Stream where
  pc : Nat
  base : Nat
  hold : Nat
  stalls : Nat
  stallRun : Nat
  stallAt : Nat
  stallLate : Bool
  slip : Nat
  issues : Nat
  ended : Bool
  fixed : Bool
  loops : List LoopLevel
  awaits : Await
  deriving DecidableEq, Repr

/-- The nest unit (R401): bounds, extents, multipliers and permutation of the current descriptor. -/
structure Nest where
  lo : Nat
  hi : Nat
  total : Nat
  perm : List Nat
  ext : List Nat
  tile : List Nat
  deriving DecidableEq, Repr

/-- A result's value. -/
inductive LandVal where
  | word (w : Word64) (static : Bool)
  | lanes (l : Lanes) (active : BitVec 128)
  | bits (b : BitVec 128) (active : BitVec 128)
  | nest (n : Nest)
  deriving DecidableEq, Repr

/-- A result in flight (R48): the stream cycle in which it lands; for a die LD or atomic, the inbound request whose
value it still waits for and the real cycle in which that value arrives (R204); and the real cycle of its word's issue (R250). -/
structure Landing where
  q : Seq
  dest : Dest
  due : Nat
  val : LandVal
  awaits : Option Nat
  real : Nat
  made : Nat
  deriving DecidableEq, Repr

/-- A handle in flight: it lands in a real cycle (R453); `outside` is the 0x23 outcome of Table 4.5. -/
structure XlateLanding where
  h : Nat
  due : Nat
  val : Word64
  outside : Bool
  va : Word64
  deriving DecidableEq, Repr

/-- A place of lq, sq, cq or xq in queue order: filled, or claimed by a push not yet made (Table 2.1, R182). -/
structure Place (α : Type) where
  val : Option α
  cyc : Nat
  tag : Nat
  deriving DecidableEq, Repr

/-- A queue of Table 1.3: its places, the counts of the trap record, and the pops made in the cycle `popCyc`, whose slots are
free from the next cycle only (R42). -/
structure Queue (α : Type) where
  places : List (Place α)
  pushes : Nat
  pops : Nat
  popCyc : Nat
  popN : Nat
  deriving DecidableEq, Repr

/-- A token counter (R19, R42): puts of cycle `putCyc` cannot be taken in it, takes of `takeCyc` free nothing in it. -/
structure Token where
  count : Nat
  puts : Nat
  takes : Nat
  putCyc : Nat
  putN : Nat
  takeCyc : Nat
  takeN : Nat
  deriving DecidableEq, Repr

/-- A push to sq or xq that a vector word has reserved (R51). -/
structure PendingPush where
  tag : Nat
  toXq : Bool
  due : Nat
  lanes : Lanes
  word : Word64
  deriving DecidableEq, Repr

/-! ### Scratchpad accesses -/

/-- The parties of a core, in the order of R249, and the device's own (R199). -/
inductive Party where
  | seq (q : Seq)
  | copy
  | matrix
  | bin
  | row
  | coll
  | feed
  | store
  | channel
  | barrier
  | port
  deriving DecidableEq, Repr

/-- A write to a scratchpad that is not yet visible to every observer (R202): its cycle, the writer's place (a physical core;
512 + d for a unit of die d outside its cores; above 515 for a unit on no compute die), the logical index of the issuing core, the
party and the command; and, once the command has completed, the cycle of that completion and the cores to whose parties it released the
write (R210). -/
structure SpadWrite where
  cyc : Nat
  writer : Nat
  lidx : Nat
  party : Party
  addr : Nat
  bytes : List Byte
  cmd : Nat
  relAt : Nat
  relTo : List Nat
  deriving DecidableEq, Repr

/-- What a barrier update does (R346). -/
inductive BarOp where
  | init
  | expect (n : Nat)
  | arrive (n : Nat) (fail : Bool)
  deriving DecidableEq, Repr

/-- A barrier update of the running cycle, with its place in the order of R347, the warnings it sets where it is made, and C's
stream before it, to which a BBEXP that overflows returns it (R248). -/
structure BarUpd where
  rank : Nat
  addr : Nat
  op : BarOp
  q : Seq
  warns : List Nat
  was : Option Stream
  deriving DecidableEq, Repr

/-- What an inbound line does at the target's scratchpad (R204). -/
inductive InKind where
  | load (size : Nat) (signed : Bool)
  | store
  | atomic (fn : Nat) (operand : Word64) (swap : Word64)
  | copyWrite
  | copyRead (len off : Nat)
  deriving DecidableEq, Repr

/-- A line waiting at a core's inbound port. -/
structure InReq where
  id : Nat
  cyc : Nat
  fromCore : Nat
  fromIdx : Nat
  party : Party
  kind : InKind
  addr : Nat
  bytes : List Byte
  cmd : Nat
  deriving DecidableEq, Repr

/-- One entry of a phase set (Table 2.10). -/
structure PhRange where
  base : Nat
  len : Nat
  read : Bool
  write : Bool
  deriving DecidableEq, Repr

/-- A class's phase (R409, R410): the set that holds from cycle `since`, and the set before it. -/
structure PhaseSet where
  now : Option (List PhRange)
  since : Nat
  before : Option (List PhRange)
  deriving DecidableEq, Repr

/-! ### Lines and slots -/

/-- A 64-byte line with its side-band bits (R111): stored data, MAC and owner tag. -/
structure Line where
  data : BitVec 512
  mac : BitVec 56
  ot : BitVec 8
  deriving DecidableEq, Repr

/-- A line in a landing or outgoing slot (R143), with its physical address and the cycle it was appended. -/
structure SlotLine where
  addr : Nat
  line : Line
  cyc : Nat
  deriving DecidableEq, Repr

/-! ### Units of a core -/

/-- Where a command's barrier lies: a physical core and an offset in its scratchpad. -/
structure BarRef where
  core : Nat
  addr : Nat
  deriving DecidableEq, Repr

/-- What an engine's command has to post in its completion cycle (R23, R210, R380): that cycle, the engine's number,
the status of its event record, none for a command that appends none, its party, and the arrival at its barrier. -/
structure Post where
  due : Nat
  engine : Nat
  status : Option Nat
  party : Party
  barrier : Option BarRef
  count : Nat
  fail : Bool
  deriving DecidableEq, Repr

/-- A COPY held by the copy engine (R369–R374): what its word asked for; then its start, the first cycle `d0` in which bytes
move, the 64-byte units moved so far, the cycle of the latest move and the units moved in it, the gathered source or partial
lq entry, the output still waiting for room, the inbound lines not yet taken and by how much any was late, the corrected
lines, the status, the completion cycle once every unit has moved; and, where the source is the package's own number, its package
address and the lines its remote bins have delivered (R295); `tail` the bytes come for a line of the destination that is not whole, `ahead`
the bytes read beyond the last unit to the end of its 8-byte word (R219), `gotAt` the cycle in which the last gathered byte came, and
`opened` whether a `.gcm` has been opened since. -/
structure CopyCmd where
  id : Nat
  q : Seq
  issued : Nat
  bound : Nat
  far : Nat
  toLocal : Bool
  count : Nat
  loc : Nat
  farAddr : Nat
  farCore : Nat
  handle : Word64
  slot : Nat
  key : Option Nat
  zfill : Bool
  topk : Option Nat
  tr : Nat
  barrier : Option BarRef
  start : Option Nat
  d0 : Nat
  units : Nat
  lastMove : Nat
  movedNow : Nat
  data : List Byte
  out : List Byte
  pending : Nat
  late : Nat
  fixed : Nat
  status : Nat
  finish : Option Nat
  own : Option Nat
  got : List (Nat × Option (BitVec 512))
  tail : List Byte
  ahead : List Byte
  gotAt : Nat
  opened : Bool
  deriving DecidableEq, Repr

/-- A matrix word held by the matrix engine (R177, R394–R398): `op` 1 MMA, 2 MMAP, 3 MRET, 4 MDRAIN; the handles of its operand
and scale; NB; the line addresses it needs, the lines taken with their plaintext, the latest take, the first address that was
not needed; the buffers captured at its start; the rows an MDRAIN has still to push. -/
structure MatCmd where
  id : Nat
  op : Nat
  issued : Nat
  bound : Nat
  w : MatWord
  hOp : Word64
  hSc : Word64
  nb : Nat
  start : Option Nat
  need : List Nat
  taken : List (Nat × BitVec 512)
  lastTake : Nat
  bad : Option Nat
  a : List Byte
  b : List Byte
  sclA : List Byte
  sclB : List Byte
  rows : List Lanes
  deriving DecidableEq, Repr

/-- A TWR or TZERO waiting for the cycle of R179: `row = none` zeroes the tile. -/
structure TileWrite where
  id : Nat
  tile : Nat
  row : Option Nat
  lanes : Lanes
  active : BitVec 128
  earliest : Nat
  deriving DecidableEq, Repr

/-- A VLD or OBLD at L's feed port (R405, R442): `next` the entries pushed or the reads made so far, `pos` the earliest cycle of
the next one, `data` what an OBLD has read. -/
structure FeedCmd where
  id : Nat
  isLoad : Bool
  issued : Nat
  n : Nat
  base : Nat
  stride : Nat
  buf : Nat
  scale : Bool
  barrier : Option BarRef
  next : Nat
  pos : Nat
  data : List Byte
  deriving DecidableEq, Repr

/-- A VST at the store port (R451, R452). -/
structure StoreCmd where
  id : Nat
  issued : Nat
  n : Nat
  base : Nat
  stride : Nat
  zfill : Bool
  topk : Option Nat
  next : Nat
  pos : Nat
  deriving DecidableEq, Repr

/-- A bin-unit command (R150): `op` 0 BINDEF, 1 BINRST, 2 BINPASS, 3 BINEND, 4 ROUTE, 5 the place of an
all-to-all's receive bin in the unit's order (R366). -/
structure BinCmd where
  id : Nat
  op : Nat
  issued : Nat
  q : Seq
  bin : Nat
  word : Word64
  n : Nat
  carry : Bool
  bound : Nat
  barrier : Option BarRef
  start : Option Nat
  finish : Nat
  wait : Nat
  sel : Option Lanes
  rows : List Lanes
  deriving DecidableEq, Repr

/-- A TOPKC's entries still to be pushed (R429). -/
structure TopkCmd where
  tag : Nat
  next : Nat
  entries : List Lanes
  deriving DecidableEq, Repr

/-- A write held for the segment's end (R215): to host or domain memory, with the number of its command, which rises in issue
order and is compared with those of the releases (`fences` of the core: number and scope, R216); `space` 1 is host
memory, 2 a carve-out of this package through a domain handle, 3 another package's memory; `add` marks an FP32 accumulate of
ROWSA. -/
structure Held where
  cmd : Nat
  space : Nat
  addr : Nat
  bytes : List Byte
  add : Bool
  deriving DecidableEq, Repr

/-- An entry of a core's translation cache (R104): the virtual base and size code, and the handle's fields. -/
structure Trans where
  va : Nat
  size : Nat
  pid : BitVec 12
  frame : BitVec 36
  conf : Bool
  sealed_ : Bool
  w : Bool
  deriving DecidableEq, Repr

/-- The eight landing and eight outgoing slots of a core (R143). -/
structure Slots where
  land : SMap (List SlotLine)
  out : SMap (List SlotLine)
  landPop : SMap (Nat × Nat)
  outPop : SMap (Nat × Nat)
  deriving DecidableEq, Repr

/-- A core (R17–R25); `takers` are the S commands that pop sq, and `lqOrder` the L commands that push lq with their entries left, in issue
order (R443); `obNext` are the operand buffers an OBLD has completed in the running cycle (R406); `binPrev` the descriptors before the bin
unit's completion of the running cycle, which BINFILL reads in it (R150); `storeFree`, `copyFree` and `matFree` are the first cycles in
which those units may take up their next command; `snapWarn`, `snapCsn` and `snapSlip` are WARN, the completion sequences and SLIP as they
stood at the start of the running cycle, which is what CRD returns (R375); `posts` are the posts of completed commands not yet made, and
`evPop` is the cycle of the latest EVPOP that took a record. -/
structure Core where
  regs : Regs
  entry : Regs
  c : Stream
  l : Stream
  x : Stream
  st : Stream
  flight : List Landing
  xlate : List XlateLanding
  lq : Queue Lanes
  sq : Queue Lanes
  cq : Queue Word64
  xq : Queue Word64
  boqL : Queue Bool
  boqX : Queue Bool
  boqS : Queue Bool
  pushes : List PendingPush
  tokens : SMap Token
  markL : List (Nat × Nat)
  markS : List (Nat × Nat)
  spad : List Host.Cell
  recent : List SpadWrite
  ctl : List Host.Cell
  ctlTag : SMap Bool
  bars : List BarUpd
  inbound : List InReq
  inTaken : Nat
  ob : SMap (List Host.Cell)
  obScale : SMap (List Host.Cell)
  bBuf : List Host.Cell
  tiles : SMap (SMap Word32)
  committed : SMap (SMap Word32)
  retired : SMap (SMap Word32)
  retireFresh : SMap Bool
  drain : SMap Nat
  phases : SMap PhaseSet
  lastScalar : Nat
  copyQ : List CopyCmd
  matQ : List MatCmd
  tileQ : List TileWrite
  feedQ : List FeedCmd
  feedFree : Nat
  storeQ : List StoreCmd
  storeDone : Nat
  takers : List Nat
  lqOrder : List (Nat × Nat)
  obNext : List (Nat × Bool × List Byte)
  storeFree : Nat
  copyFree : Nat
  matFree : Nat
  binQ : List BinCmd
  binFree : Nat
  binPrev : Option (SMap Bin)
  topkQ : List TopkCmd
  nest : Nest
  held : List Held
  fences : List (Nat × Nat)
  tcache : List Trans
  revoked : List (BitVec 12 × Nat)
  slots : Slots
  istore : List (Seq × Nat × List Word32)
  hazTable : List (Seq × Nat)
  brks : Nat
  snapWarn : Word64
  snapCsn : SMap Word32
  snapSlip : Word64
  posts : List Post
  evPop : Nat
  live : Nat
  launch : Option Nat
  lidx : Nat
  world : Nat
  stopAt : Option Nat
  deriving DecidableEq, Repr

/-! ### Channels, row engines, collectives -/

/-- A bank's state (Table 5.6): `refreshing` until the cycle given. -/
inductive BankState where
  | closed
  | opened (row : Nat)
  | refreshing (until_ : Nat)
  deriving DecidableEq, Repr

/-- A DRAM command a channel has issued, for the gaps of Table 5.5: 0 DACT, 1 DPRE, 2 DRD, 3 DWR, 4 DREF.pb, 5 DREF. -/
structure DramCmd where
  kind : Nat
  bank : Nat
  cyc : Nat
  deriving DecidableEq, Repr

/-- Who a bin entry serves (R142, R295): a row-engine command's line; a port's request; or an access by the package's own number to a
line of `world`'s carve-out: a COPY's or a ROWG's read, a read of the INBUF that a core brings to a COLL instance, or a committed write of a
launch, whose bytes lie from `off` on, before the line if negative. -/
inductive Requester where
  | rowLine (die cmd row line : Nat)
  | port (r : RemoteReq)
  | copyRead (world core cmd : Nat)
  | rowRead (world die cmd : Nat)
  | collRead (world inst core : Nat)
  | commit (world launch : Nat) (off : Int) (bytes : List Byte) (add : Bool)
  deriving DecidableEq, Repr

/-- An entry of an indirect or remote bin (R141, R142, R165): the line address, whether it writes, the cycle from which a window may
take it, whom it serves, and the line it carries. -/
structure BinEntry where
  addr : Nat
  write : Bool
  since : Nat
  who : Requester
  line : Option (BitVec 512)
  deriving DecidableEq, Repr

/-- A channel program running on a channel (R126): entry cycle, next word and its issue cycle, and the DLOOP's state (first
word, length, repetitions left); `mem0` is the command-memory index of its entry word, `word0` that word's index in the image's
channel-program region. -/
structure ChanRun where
  launch : Nat
  entry : Nat
  mem0 : Nat
  word0 : Nat
  pc : Nat
  next : Nat
  loop : Option (Nat × Nat × Nat)
  deriving DecidableEq, Repr

/-- A DRD on its way to a landing slot (R130). -/
structure ChanFlight where
  due : Nat
  core : Nat
  slot : Nat
  line : SlotLine
  launch : Nat
  word : Nat
  issued : Nat
  deriving DecidableEq, Repr

/-- A window in progress (R141): its start, its entry, the line its DRD has read, and whether all it does is done. -/
structure Window where
  start : Nat
  entry : BinEntry
  line : Option SlotLine
  done : Bool
  deriving DecidableEq, Repr

/-- A channel sequencer (R124–R145): its command memory, its banks, the commands of Table 5.5 within the last 320 cycles, the
program it runs, lines in flight, writes not yet made, windows, the two bins, the entry whose lead-in has begun (R139), and the programs
that the command memory holds: launch, entry word in the image, index of that word (R125). -/
structure Channel where
  mem : SMap Word64
  banks : SMap BankState
  lastRef : SMap Nat
  recent : List DramCmd
  run : Option ChanRun
  flight : List ChanFlight
  writes : List (Nat × Nat × Line)
  windows : List Window
  bin0 : SMap (List BinEntry)
  bin1 : List BinEntry
  leadIn : Option Nat
  progs : List (Nat × Nat × Nat)
  deriving DecidableEq, Repr

/-- A row-engine command (R162–R167, R417–R419): `op` 0 ROWG, 1 ROWS, 2 ROWSA. `list` is the index list read at its start, `row`
the next row of a scratchpad table, `entries` the sorted entries the engine still holds, each with its channel, `done` the lines
served, `sums` the sums of ROWSA waiting for their write or the lines that have come to a ROWG, `times` the cycles in which those reach
the local rows (R219), `waits` and `got` the lines that a ROWG by the package's own number waits for and has got (R295); `late` the cycles
that corrected lines add to it (R112), `closed` that its last window has ended and its unserved entries are discarded (R166). -/
structure RowCmd where
  id : Nat
  op : Nat
  core : Nat
  lidx : Nat
  issued : Nat
  bound : Nat
  n : Nat
  rb : Nat
  idx : Nat
  loc : Nat
  table : Nat
  handle : Option Word64
  stride : Nat
  trows : Nat
  win0 : Nat
  wlen : Nat
  nw : Nat
  cap : Nat
  fillAt : Option Nat
  barrier : Option BarRef
  start : Option Nat
  finish : Nat
  list : List Nat
  row : Nat
  entries : List (Nat × BinEntry)
  fills : List Nat
  done : List (Nat × Nat)
  sums : List (Nat × BitVec 512)
  times : SMap Nat
  lines : Nat
  fail : Bool
  waits : Nat
  got : List (Nat × Option (BitVec 512))
  late : Nat
  closed : Bool
  deriving DecidableEq, Repr

/-- A replica table (R302): for each expert, its replicas' global ranks. -/
abbrev Replicas := SMap (List Nat)

/-- One participant's COLL (R361–R368): what its word asked for, its square rank, the bin command that stands for it (R366), the replica
table that resolves its rows (R302), and the lines of an INBUF under the package's own number that it waits for and has got (R295). -/
structure CollPart where
  core : Nat
  launch : Nat
  rank : Nat
  issued : Nat
  bound : Nat
  desc : List Word64
  hIn : Word64
  hOut : Word64
  binId : Nat
  table : Replicas
  waits : Nat
  got : List (Nat × Option (BitVec 512))
  deriving DecidableEq, Repr

/-- A collective instance (R362): its key (`launch` is none across a domain group), kind, element type and operation, its
participants so far, the completion cycle once the last has issued, and the cycle in which an abort on another package cancels it
(R368). -/
structure Coll where
  id : Nat
  dgroup : Nat
  square : Nat
  launch : Option Nat
  seqNo : Nat
  kind : Nat
  elem : Nat
  rop : Nat
  parts : List CollPart
  finish : Option Nat
  cancelled : Bool
  aborts : Option Nat
  deriving DecidableEq, Repr

/-! ### Launches, segments, worlds -/

/-- A segment-table entry (Table 9.5). -/
structure Segment where
  cost : Nat
  slipa : Nat
  entries : List Nat
  chans : List (Nat × Nat)
  energy : List (Nat × Nat × Nat)
  deriving DecidableEq, Repr

/-- A trap raised in a running segment (R248, R249), with what the trap record's header holds (Table 9.10). -/
structure Trap where
  cause : Nat
  cyc : Nat
  lidx : Nat
  party : Nat
  chan : Bool
  core : Option Nat
  first : Nat
  faddr : Nat
  detail : List Nat
  user : Nat
  deriving DecidableEq, Repr

/-- What raises a trap says of it: the cause and the fields of the record's header (R11, Table 9.10). -/
structure Raise where
  cause : Nat
  first : Nat
  faddr : Nat
  detail : List Nat
  user : Nat
  deriving DecidableEq, Repr

/-- Where a stream goes after a word that issued in cycle p: on, with the next word's idle count added to the cycle given
(R37, R39, R45); to a target with so many bubbles (R59), closing loop levels or not (R392); nowhere (R420); or the word has raised
after an effect that its rule lets stand (R248, R409). -/
inductive Flow where
  | on (base : Nat) (fixed : Bool)
  | jump (target bubbles : Nat) (closes : Bool)
  | stop
  | trapped
  deriving DecidableEq, Repr

/-- A running segment: its index, entry cycle, DTIME at entry, the frame's G, the trap that ends it, the other causes of the
stop window, each stopped core's section of the trap record (R250), the energy debited (R242), the replica table current at the
entry (R302), and each key slot of its world at the entry: EMPTY and the last counter (R329). -/
structure SegRun where
  seg : Nat
  entry : Nat
  dentry : Nat
  gap : Nat
  trap : Option Trap
  others : List Trap
  sections : SMap (List Byte)
  debits : List (Nat × Nat)
  table : Replicas
  keys0 : List (Nat × Bool × Nat)
  deriving DecidableEq, Repr

/-- Where a launch stands: its record fetched; admitted and not yet mapped; its next segment placed at a cycle; that segment
running; the ended segment's commits not all acknowledged, `last` that no segment follows; waiting for its next placement; ended
with a STATUS. -/
inductive LaunchPhase where
  | fetched
  | admitted
  | placed (entry : Nat)
  | running
  | committing (last : Bool)
  | waiting
  | ended (status : Nat)
  deriving DecidableEq, Repr

/-- A sealed image of a core of a launch between frames (Table 9.8). -/
structure Sealed where
  regs : Regs
  spad : List Host.Cell
  ctl : List Host.Cell
  ctlTag : SMap Bool
  committed : SMap (SMap Word32)
  bBuf : List Host.Cell
  live : Nat
  revoked : List (BitVec 12 × Nat)
  deriving DecidableEq, Repr

/-- A launch (R222–R254): its record and image; `order` its place among the launches of its world, `passed` the frames it was passed
over (R240); `row` its consecutive and `replays` its total replays; `installs` the translations installed for a logical index
after a miss (R106); `images` its cores' sealed state by logical index; `done` the segments ended; `endCyc` the cycle its last
segment ended; `commits` the writes of an ended segment not yet visible, each with its cycle (R215). -/
structure Launch where
  world : Nat
  record : List Byte
  phase : LaunchPhase
  order : Nat
  prio : Nat
  passed : Nat
  image : List Byte
  segs : List Segment
  tick : Nat
  lcount : Nat
  lwords : List Word64
  squares : SMap (List Nat)
  haz : Bool
  wset : List Nat
  cores : List Nat
  seg : Nat
  run : Option SegRun
  replays : Nat
  row : Nat
  halt : Bool
  installs : List (Nat × Trans)
  images : SMap Sealed
  done : Nat
  admitCyc : Nat
  endFrame : Nat
  dgroup : Nat × Nat
  endCyc : Nat
  commits : List (Nat × Held)
  deriving DecidableEq, Repr

/-- TDISP interface states (Table 11.2). -/
inductive Tdisp where
  | unlocked
  | locked
  | run
  | error
  deriving DecidableEq, Repr

/-- A flow of the Ultra Ethernet ports and its ingress ring (R168–R170, R304–R306): `swapped` one more than the cycle of its last
swap, `spill` the rows in its overflow area, `held` the packets that came in the last 192 cycles before a swap, `trapOwed` a trap that
found no segment running at its ring cycle; `nextSeq` and `early` are the transport's under ROD: the message sequence it delivers next,
and the packets that came before their turn. -/
structure NetFlow where
  entry : List Byte
  valid : Bool
  core : Nat
  filling : Nat
  fill : Nat
  cycles : Nat
  lastSeq : Option Nat
  lost : Nat
  deferred : Nat
  tagFail : Nat
  spill : List (List Byte)
  trapPending : Bool
  trapOwed : Bool
  swapped : Nat
  held : List (Word64 × List Byte)
  nextSeq : Option Nat
  early : List (Word64 × List Byte)
  deriving DecidableEq, Repr

/-- A key slot (R189, R288, R329): the world it is assigned to, its key with the length in bytes, EMPTY, the last accepted
counter, the key that takes effect at the next edge gap, and the acceptances since the key was set or the frame began: launch, cycle,
counter. -/
structure KeySlot where
  world : Option Nat
  key : Option (Nat × BitVec 256)
  empty : Bool
  last : Nat
  pending : Option (Nat × BitVec 256)
  log : List (Nat × Nat × Nat)
  deriving DecidableEq, Repr

/-- A world (R29, R101, R121, R222, R278, R281); `units` are the frame-table bytes that become the world's at the next edge gap (R238,
R277), `rung` the cycle of its latest doorbell (R221), `gone` the translations revoked so far (R108, R123), `idle` the scratchpads sealed
for it of cores that no launch holds, by core (R245). -/
structure World where
  enabled : Bool
  units : List Nat
  cbase : Nat
  csize : Nat
  table : List Trans
  gone : List Trans
  idle : SMap (List Host.Cell)
  lineKey : BitVec 512
  macKey : BitVec 256
  sealKey : Option (BitVec 512)
  sealPending : Option (BitVec 512)
  bindDigest : BitVec 256
  imageLog : BitVec 256
  privKey : BitVec 256
  tdisp : Tdisp
  stream : Option Nat
  lqEn : Bool
  qlog2 : Nat
  tail : Nat
  rung : Nat
  head : Nat
  ign : Bool
  dropped : Bool
  fetch : Option Nat
  ring : List Host.Cell
  keyWindow : List Host.Cell
  keyBusy : Option Nat
  keyCode : Nat
  rtSwitch : Word64
  rtLate : Bool
  rtArmed : Bool
  nextReplica : List Host.Cell
  curReplica : Replicas
  domainNext : List Host.Cell
  domain : List Host.Cell
  flowWindow : List Host.Cell
  flows : SMap NetFlow
  faultLog : List (List Nat)
  faultOver : Nat
  powerLog : List (List Nat)
  errorLog : List (List Nat)
  deriving DecidableEq, Repr

/-- A responder's or interface's answer, a completion or trap record's MSI-X vector, a port's reply (R229, R279, R283). -/
structure Reply where
  kind : Nat
  world : Nat
  cyc : Nat
  bytes : List Byte
  deriving DecidableEq, Repr

/-- The boot step of Table 12.5, and recovery (R315): `accepted` that an image has been taken over and RCV_STAT shows code 6, until the
reset in the cycle given. -/
inductive Boot where
  | off
  | step (n : Nat)
  | running
  | recovery (busy : Bool) (code : Nat)
  | accepted (reset : Nat)
  deriving DecidableEq, Repr

/-- Whose word a step runs: a core's sequencer or a channel. -/
structure Turn where
  core : Nat
  q : Seq
  chan : Nat
  deriving DecidableEq, Repr

/-- The package; `rewrites` are the unit bytes of the frame table still to be rewritten: the byte, the world, and the entries left (R238);
`owed` the energy of segments placed for the coming frame, by island, debited after its refill (R242); `reached` that a sensor has been at
the throttle threshold since the frame's start (R311); `linkKeys` the
link key of each Scemel port (R293); `badRows` the package addresses of DRAM rows that the training found bad (R314). -/
structure State where
  cyc : Nat
  dtime : Nat
  turn : Turn
  ids : Nat
  free : Nat
  boot : Boot
  frameLog2 : Nat
  cores : SMap Core
  chans : SMap Channel
  rows : SMap (List RowCmd)
  colls : List Coll
  launches : SMap Launch
  worlds : SMap World
  keys : SMap KeySlot
  casks : SMap Int
  owed : List (Nat × Nat)
  throttle : Nat
  hottest : Nat
  cool : Bool
  reached : Bool
  pkg : List Host.Cell
  side : SMap (Option (BitVec 56 × BitVec 8))
  fixes : List (Nat × Line)
  frameTable : SMap Byte
  rewrites : List (Nat × Nat × List Nat)
  badRows : List Nat
  host : List Host.Cell
  domainMem : List Host.Cell
  inbox : List (Nat × Instr)
  outbox : List Reply
  domain : Option Nat
  linkKeys : SMap (BitVec 256)
  source : Bool
  locked : Bool
  groups : List (Nat × Nat × List (Nat × Nat × Nat))
  devMacKey : BitVec 256
  flash : List Host.Cell
  rcvWindow : List Host.Cell
  minSvn : Nat
  meas : List (BitVec 256)
  devid : BitVec 256
  alias_ : BitVec 256
  certs : SMap (List Byte)
  session : Option (BitVec 256)
  ports : List BinEntry
  pfLog : List (List Nat)
  off : Bool
  frameDone : Nat
  gapDone : Nat
  deriving DecidableEq, Repr

/-! ### Reset values -/

/-- An s or a register at launch start: zero and static (Table 1.2). -/
def SReg.zero : SReg := ⟨0, true⟩

/-- A g register that has had no PDIM since the context was cleared (R456). -/
def GReg.zero : GReg := ⟨none, 0, 1, 0, none⟩

/-- No pattern program under way. -/
def PatRun.zero : PatRun := ⟨none, [], (0, 0), none, false, none⟩

/-- A cleared trellis (R456). -/
def Trellis.zero : Trellis := ⟨[], [], [], none, false, 0, PatRun.zero⟩

/-- Registers at launch start (Table 1.2, R23, R146, R246, R270). -/
def Regs.zero : Regs := ⟨[], [], [], [], [], [], [], [], [], [], 0, 0, [], [], Trellis.zero, [], [], []⟩

/-- A stream that runs nothing. -/
def Stream.zero : Stream := ⟨0, 0, 0, 0, 0, 0, false, 0, 0, true, false, [], .nothing⟩

/-- An empty queue (R19). -/
def Queue.zero {α : Type} : Queue α := ⟨[], 0, 0, 0, 0⟩

/-- A token counter at segment entry (R427). -/
def Token.zero : Token := ⟨0, 0, 0, 0, 0, 0, 0⟩

/-- The nest unit at segment entry (R401). -/
def Nest.zero : Nest := ⟨0, 0, 0, [], [], []⟩

/-- Empty slots (R143). -/
def Slots.zero : Slots := ⟨[], [], [], []⟩

/-- A core to which no launch has come since its storage was zeroed (R122, R308). -/
def Core.zero : Core where
  regs := Regs.zero
  entry := Regs.zero
  c := Stream.zero
  l := Stream.zero
  x := Stream.zero
  st := Stream.zero
  flight := []
  xlate := []
  lq := Queue.zero
  sq := Queue.zero
  cq := Queue.zero
  xq := Queue.zero
  boqL := Queue.zero
  boqX := Queue.zero
  boqS := Queue.zero
  pushes := []
  tokens := []
  markL := []
  markS := []
  spad := []
  recent := []
  ctl := []
  ctlTag := []
  bars := []
  inbound := []
  inTaken := 0
  ob := []
  obScale := []
  bBuf := []
  tiles := []
  committed := []
  retired := []
  retireFresh := []
  drain := []
  phases := []
  lastScalar := 0
  copyQ := []
  matQ := []
  tileQ := []
  feedQ := []
  feedFree := 0
  storeQ := []
  storeDone := 0
  takers := []
  lqOrder := []
  obNext := []
  storeFree := 0
  copyFree := 0
  matFree := 0
  binQ := []
  binFree := 0
  binPrev := none
  topkQ := []
  nest := Nest.zero
  held := []
  fences := []
  tcache := []
  revoked := []
  slots := Slots.zero
  istore := []
  hazTable := []
  brks := 0
  snapWarn := 0
  snapCsn := []
  snapSlip := 0
  posts := []
  evPop := 0
  live := 0
  launch := none
  lidx := 0
  world := 0
  stopAt := none

/-- A channel with every bank Closed and no program (R139); LASTREF is given no reset value (log 3). -/
def Channel.zero : Channel := ⟨[], [], [], [], none, [], [], [], [], [], none, []⟩

/-- A world before its VF is enabled (R277, Tables 9.1, 11.2, 11.5, 11.8). -/
def World.zero : World where
  enabled := false
  units := []
  cbase := 0
  csize := 0
  table := []
  gone := []
  idle := []
  lineKey := 0
  macKey := 0
  sealKey := none
  sealPending := none
  bindDigest := 0
  imageLog := 0
  privKey := 0
  tdisp := .unlocked
  stream := none
  lqEn := false
  qlog2 := 0
  tail := 0
  rung := 0
  head := 0
  ign := false
  dropped := false
  fetch := none
  ring := []
  keyWindow := []
  keyBusy := none
  keyCode := 0
  rtSwitch := 0
  rtLate := false
  rtArmed := false
  nextReplica := []
  curReplica := []
  domainNext := []
  domain := []
  flowWindow := []
  flows := []
  faultLog := []
  faultOver := 0
  powerLog := []
  errorLog := []

/-- A key slot assigned to no world (R288). -/
def KeySlot.zero : KeySlot := ⟨none, none, true, 0, none, []⟩

/-- A launch's fields before its record is read. -/
def Launch.zero : Launch where
  world := 0
  record := []
  phase := .fetched
  order := 0
  prio := 0
  passed := 0
  image := []
  segs := []
  tick := 10
  lcount := 0
  lwords := []
  squares := []
  haz := false
  wset := []
  cores := []
  seg := 0
  run := none
  replays := 0
  row := 0
  halt := false
  installs := []
  images := []
  done := 0
  admitCyc := 0
  endFrame := 0
  dgroup := (0, 0)
  endCyc := 0
  commits := []

/-- The package at the release of package reset (R14, R314): CYC is zero, nothing runs, and the boot has not begun. -/
def State.reset : State where
  cyc := 0
  dtime := 0
  turn := ⟨0, .c, 0⟩
  ids := 1
  free := 0
  boot := .off
  frameLog2 := Config.frameLog2
  cores := []
  chans := []
  rows := []
  colls := []
  launches := []
  worlds := []
  keys := []
  casks := []
  owed := []
  throttle := 0
  hottest := 0
  cool := false
  reached := false
  pkg := []
  side := []
  fixes := []
  frameTable := []
  rewrites := []
  badRows := []
  host := []
  domainMem := []
  inbox := []
  outbox := []
  domain := none
  linkKeys := []
  source := false
  locked := true
  groups := []
  devMacKey := 0
  flash := []
  rcvWindow := []
  minSvn := 0
  meas := []
  devid := 0
  alias_ := 0
  certs := []
  session := none
  ports := []
  pfLog := []
  off := false
  frameDone := 0
  gapDone := 0

end Sys2Proof.Machine
end

