-- ==== Sys2Proof/Machine/Mem.lean ====
section
/-!
DEFINITION. Reading and writing the sparse maps and memories of the state, and the byte order of R7: one definition each, so
that the canonical form and the order of bytes are decided once.
-/

namespace Sys2Proof.Machine

open Sys2Proof

/-! ### Sparse maps -/

/-- What a map reads at a key: `d` where the key is not listed. -/
def smGet {α : Type} (d : α) : SMap α → Nat → α
  | [], _ => d
  | (j, v) :: rest, k => if j = k then v else smGet d rest k

/-- A map with the value at one key replaced; an entry that reads as an unlisted key is left out. -/
def smSet {α : Type} [DecidableEq α] (d : α) (m : SMap α) (k : Nat) (v : α) : SMap α :=
  m.filter (fun e => decide (e.1 < k)) ++ (if v = d then [] else [(k, v)]) ++ m.filter (fun e => decide (k < e.1))

/-- Keys strictly rising. -/
def keysRise {α : Type} : List (Nat × α) → Bool
  | [] => true
  | [_] => true
  | (j, _) :: (k, v) :: rest => decide (j < k) && keysRise ((k, v) :: rest)

/-- The canonical form of a map: rising keys and no entry equal to what an unlisted key reads as. -/
def smWf {α : Type} [DecidableEq α] (d : α) (m : SMap α) : Bool := keysRise m && m.all (fun e => decide (e.2 ≠ d))

/-! ### Memories -/

/-- What an unlisted address of a memory reads as: zero (R57, R122, R123, log 2). -/
def Memory.blank : Byte := 0

/-- The canonical form of a memory (a list of addresses and bytes). -/
def Memory.wf (m : List Host.Cell) : Bool := smWf Memory.blank m

/-- The byte at an address. -/
def memGet (m : List Host.Cell) (a : Nat) : Byte := smGet Memory.blank m a

/-- The cells that hold the bytes from address a on, blanks left out. -/
def cellsOf : Nat → List Byte → List Host.Cell
  | _, [] => []
  | a, b :: bs => if b = Memory.blank then cellsOf (a + 1) bs else (a, b) :: cellsOf (a + 1) bs

/-- A memory with the bytes from address a on replaced. -/
def memWrite (m : List Host.Cell) (a : Nat) (bs : List Byte) : List Host.Cell :=
  m.filter (fun e => decide (e.1 < a)) ++ cellsOf a bs ++ m.filter (fun e => decide (a + bs.length ≤ e.1))

/-- The n bytes from address a on, lowest address first. -/
def memRead (m : List Host.Cell) (a n : Nat) : List Byte :=
  let near := m.filter (fun e => decide (a ≤ e.1) && decide (e.1 < a + n))
  (List.range n).map fun i => memGet near (a + i)

/-- The bytes of a memory that hold n bytes from a on set to zero. -/
def memZero (m : List Host.Cell) (a n : Nat) : List Host.Cell :=
  m.filter (fun e => decide (e.1 < a)) ++ m.filter (fun e => decide (a + n ≤ e.1))

/-! ### Byte order (R7) -/

/-- The value of bytes, the lowest first. -/
def leNat : List Byte → Nat
  | [] => 0
  | b :: bs => b.toNat + 256 * leNat bs

/-- The n low bytes of a value, the lowest first. -/
def leBytes : Nat → Nat → List Byte
  | 0, _ => []
  | n + 1, v => BitVec.ofNat 8 v :: leBytes n (v / 256)

/-- The value of bytes, the highest first (the published formats of R188, R286, R305). -/
def beNat (bs : List Byte) : Nat := leNat bs.reverse

/-- The n low bytes of a value, the highest first. -/
def beBytes (n v : Nat) : List Byte := (leBytes n v).reverse

/-- The n bytes of a byte string from index i on; bytes past its end are zero. -/
def sliceBytes (bs : List Byte) (i n : Nat) : List Byte :=
  let t := (bs.drop i).take n
  t ++ List.replicate (n - t.length) 0

/-- The field of n bytes at byte i, little-endian. -/
def leField (bs : List Byte) (i n : Nat) : Nat := leNat (sliceBytes bs i n)

/-- The 64-bit word at a memory address. -/
def memWord (m : List Host.Cell) (a : Nat) : Word64 := BitVec.ofNat 64 (leNat (memRead m a 8))

/-- A byte string cut into pieces of n bytes. -/
def chunkBytes (n : Nat) : Nat → List Byte → List (List Byte)
  | 0, _ => []
  | k + 1, bs => sliceBytes bs 0 n :: chunkBytes n k (bs.drop n)

/-- Lanes from bytes, four to a lane (R442). -/
def lanesOfBytes : List Byte → Lanes
  | b0 :: b1 :: b2 :: b3 :: rest => BitVec.ofNat 32 (leNat [b0, b1, b2, b3]) :: lanesOfBytes rest
  | [] => []
  | bs => [BitVec.ofNat 32 (leNat bs)]

/-- Lane i; a lane beyond the list is zero. -/
def laneAt (l : Lanes) (i : Nat) : Word32 := l.getD i 0

/-- The 512 bytes of 128 lanes (R452). -/
def bytesOfLanes (l : Lanes) : List Byte := (List.range 128).flatMap fun i => leBytes 4 (laneAt l i).toNat

/-- 128 lanes given by a function of the lane number. -/
def tabulate (f : Nat → Word32) : Lanes := (List.range 128).map f

/-- A list with the element at an index replaced. -/
def setAt {α : Type} : List α → Nat → α → List α
  | [], _, _ => []
  | _ :: xs, 0, y => y :: xs
  | x :: xs, n + 1, y => x :: setAt xs n y

/-- ceil(a / b) (R8). -/
def ceilDiv (a b : Nat) : Nat := (a + b - 1) / b

/-- The signed value of an n-bit number. -/
def signed (n v : Nat) : Int := if 2 ^ (n - 1) ≤ v % 2 ^ n then (v % 2 ^ n : Int) - 2 ^ n else (v % 2 ^ n : Int)

/-- An integer's low n bits (R10). -/
def lowBits (n : Nat) (v : Int) : Nat := (v % (2 ^ n : Int)).toNat

/-- Bit i of a natural number. -/
def bitOf (v i : Nat) : Bool := v.testBit i

/-- Bits [hi:lo] of a number (R7). -/
def bitsOf (v hi lo : Nat) : Nat := (v >>> lo) % 2 ^ (hi + 1 - lo)

end Sys2Proof.Machine
end

