-- ==== Sys2Proof/Machine/Flags.lean ====
section
/-!
DEFINITION. The machine's flags: the sticky bits of WARN (Table 10.11), the one operation that sets one (R12), the fields of
SLIP (Table 2.2) and the control register values of Table 10.10 that are computed.
-/

namespace Sys2Proof.Machine

open Sys2Proof

/-- Bit numbers of WARN (Table 10.11). -/
def warnMbz : Nat := 0
/-- MOD. -/
def warnMod : Nat := 1
/-- NTYPE. -/
def warnNtype : Nat := 2
/-- STR. -/
def warnStr : Nat := 3
/-- MFMT. -/
def warnMfmt : Nat := 4
/-- DEC. -/
def warnDec : Nat := 5
/-- DTR. -/
def warnDtr : Nat := 6
/-- DIVZ. -/
def warnDivz : Nat := 7
/-- IOVF. -/
def warnIovf : Nat := 8
/-- NANZ. -/
def warnNanz : Nat := 9
/-- BRULE. -/
def warnBrule : Nat := 10
/-- BCNT. -/
def warnBcnt : Nat := 11
/-- BPATH. -/
def warnBpath : Nat := 12
/-- RIDX. -/
def warnRidx : Nat := 13
/-- CRRO. -/
def warnCrro : Nat := 14
/-- CRU. -/
def warnCru : Nat := 15
/-- EVQ. -/
def warnEvq : Nat := 16
/-- LIVE. -/
def warnLive : Nat := 17
/-- SEGQ. -/
def warnSegq : Nat := 18
/-- ORD. -/
def warnOrd : Nat := 19

/-- WARN with one more bit set (R12). -/
def warnWord (w : Word64) (bit : Nat) : Word64 := w ||| BitVec.ofNat 64 (2 ^ bit)

/-- A core with a warning set (R12, R270). -/
def warn (c : Core) (bit : Nat) : Core := { c with regs := { c.regs with warn := warnWord c.regs.warn bit } }

/-- A core with a warning set where a condition holds. -/
def warnIf (b : Bool) (bit : Nat) (c : Core) : Core := if b then warn c bit else c

/-- A core with every warning of a list set. -/
def warnAll (bits : List Nat) (c : Core) : Core := bits.foldl warn c

/-- What a CWR to WARN keeps of the written value: bits above 19 are reserved (Table 10.11). -/
def warnWritable (w : Word64) : Word64 := w &&& BitVec.ofNat 64 (2 ^ 20 - 1)

/-- SLIP from the four fields (Table 2.2). -/
def slipWord (c l x s : Nat) : Word64 := BitVec.ofNat 64 (c + 2 ^ 16 * l + 2 ^ 32 * x + 2 ^ 48 * s)

/-- A SLIP field after one more stall cycle (Table 2.2: saturates). -/
def slipNext (n : Nat) : Nat := if n < 0xFFFF then n + 1 else 0xFFFF

end Sys2Proof.Machine
end

