-- ==== Sys2Proof/Machine/Ops.lean ====
section
/-!
DEFINITION. The named operations the meanings are built from: reading and writing the parts of the state, results in flight,
queues and tokens, scratchpads and their visibility, phases, byte barriers, event records; taking a trap, one operation for
every cause; and the issue of a word, one operation for every word.
-/

namespace Sys2Proof.Machine

open Sys2Proof

/-! ### Parts of the state -/

/-- The outcomes of a step of this machine. -/
abbrev Out := Host.Outcome State Fault Refusal

/-- A physical core. -/
def getCore (s : State) (p : Nat) : Core := smGet Core.zero s.cores p

/-- The state with a core replaced. -/
def setCore (s : State) (p : Nat) (c : Core) : State := { s with cores := smSet Core.zero s.cores p c }

/-- The state with a core changed. -/
def updCore (s : State) (p : Nat) (f : Core → Core) : State := setCore s p (f (getCore s p))

/-- A channel. -/
def getChan (s : State) (n : Nat) : Channel := smGet Channel.zero s.chans n

/-- The state with a channel replaced. -/
def setChan (s : State) (n : Nat) (c : Channel) : State := { s with chans := smSet Channel.zero s.chans n c }

/-- A launch. -/
def getLaunch (s : State) (n : Nat) : Launch := smGet Launch.zero s.launches n

/-- The state with a launch replaced. -/
def setLaunch (s : State) (n : Nat) (l : Launch) : State := { s with launches := smSet Launch.zero s.launches n l }

/-- A world. -/
def getWorld (s : State) (n : Nat) : World := smGet World.zero s.worlds n

/-- The state with a world replaced. -/
def setWorld (s : State) (n : Nat) (w : World) : State := { s with worlds := smSet World.zero s.worlds n w }

/-- The state with a world changed. -/
def updWorld (s : State) (n : Nat) (f : World → World) : State := setWorld s n (f (getWorld s n))

/-- A key slot. -/
def getKey (s : State) (n : Nat) : KeySlot := smGet KeySlot.zero s.keys n

/-- The state with a key slot replaced. -/
def setKey (s : State) (n : Nat) (k : KeySlot) : State := { s with keys := smSet KeySlot.zero s.keys n k }

/-- A die's row-engine queue, the running command first. -/
def getRows (s : State) (d : Nat) : List RowCmd := smGet [] s.rows d

/-- The state with a die's row-engine queue replaced. -/
def setRows (s : State) (d : Nat) (r : List RowCmd) : State := { s with rows := smSet [] s.rows d r }

/-- A fresh number for a command, an inbound request or an instance. -/
def freshId (s : State) : Nat × State := (s.ids, { s with ids := s.ids + 1 })

/-- The number of the next free value (log 20 to 27). -/
def freshFree (s : State) : Nat × State := (s.free, { s with free := s.free + 1 })

/-- A sequencer's stream. -/
def streamOf (c : Core) : Seq → Stream
  | .c => c.c
  | .l => c.l
  | .x => c.x
  | .s => c.st

/-- A core with a sequencer's stream replaced. -/
def setStream (c : Core) (q : Seq) (st : Stream) : Core :=
  match q with
  | .c => { c with c := st }
  | .l => { c with l := st }
  | .x => { c with x := st }
  | .s => { c with st := st }

/-- The launch that a core runs, if a segment of it is running there. -/
def runningOn (s : State) (p : Nat) : Option (Nat × Launch × SegRun) :=
  match (getCore s p).launch with
  | none => none
  | some n =>
    match (getLaunch s n).run with
    | none => none
    | some r => some (n, getLaunch s n, r)

/-- Whether a core has not stopped before a cycle: one that a party of its own traps in the cycle stops after it (R248). -/
def notStopped (c : Core) (cyc : Nat) : Bool :=
  match c.stopAt with
  | none => true
  | some t => decide (cyc < t)

/-- The entry cycle E of the segment a core runs (R38). -/
def entryOf (s : State) (p : Nat) : Nat :=
  match runningOn s p with
  | some (_, _, r) => r.entry
  | none => 0

/-- LCOUNT of the launch a core runs (R30). -/
def lcountOf (s : State) (p : Nat) : Nat :=
  match runningOn s p with
  | some (_, l, _) => l.lcount
  | none => 0

/-- The physical core of a logical index of the launch a core runs (R30). -/
def physOf (s : State) (p i : Nat) : Nat :=
  match runningOn s p with
  | some (_, l, _) => l.cores.getD i 0
  | none => 0

/-- The die of a place: cores by R13, 512 + d a unit of die d, above 515 no compute die. -/
def dieOf (p : Nat) : Nat := if p < 512 then p / 128 else p - 512

/-- The visibility delay between two places and parties (Table 8.2); a barrier update is seen by every party (R208). -/
def delta (w : Nat) (wp : Party) (o : Nat) (op : Party) : Nat :=
  if wp = .barrier then 0
  else if w = o then (if wp = op then 0 else 8)
  else if dieOf w = dieOf o then 64
  else 192

/-! ### Registers -/

/-- What a sequencer reads of register r: s in C, a in L and S; register 0 is the constant zero, static (R17). -/
def readReg (c : Core) (q : Seq) (r : Nat) : SReg :=
  if r = 0 then SReg.zero
  else
    match q with
    | .c => smGet SReg.zero c.regs.s r
    | .l => smGet SReg.zero c.regs.la r
    | .s => smGet SReg.zero c.regs.sa r
    | .x => SReg.zero

/-- A core with register r of a sequencer written; register 0 ignores it (R17). -/
def writeReg (c : Core) (q : Seq) (r : Nat) (v : SReg) : Core :=
  if r = 0 then c
  else
    match q with
    | .c => { c with regs := { c.regs with s := smSet SReg.zero c.regs.s r v } }
    | .l => { c with regs := { c.regs with la := smSet SReg.zero c.regs.la r v } }
    | .s => { c with regs := { c.regs with sa := smSet SReg.zero c.regs.sa r v } }
    | .x => c

/-- Jump-target register j of a sequencer (R60). -/
def readJt (c : Core) (q : Seq) (j : Nat) : Word32 :=
  match q with
  | .c => smGet 0 c.regs.jtc j
  | .l => smGet 0 c.regs.jtl j
  | .s => smGet 0 c.regs.jts j
  | .x => 0

/-- A core with a jump-target register written. -/
def writeJt (c : Core) (q : Seq) (j : Nat) (v : Word32) : Core :=
  match q with
  | .c => { c with regs := { c.regs with jtc := smSet 0 c.regs.jtc j v } }
  | .l => { c with regs := { c.regs with jtl := smSet 0 c.regs.jtl j v } }
  | .s => { c with regs := { c.regs with jts := smSet 0 c.regs.jts j v } }
  | .x => c

/-- Mask register m: m0 reads all ones (R17). -/
def readMask (c : Core) (m : Nat) : BitVec 128 := if m = 0 then BitVec.allOnes 128 else smGet 0 c.regs.m m

/-- A core with a mask register written; m0 ignores it (R17, R444). -/
def writeMask (c : Core) (m : Nat) (b : BitVec 128) : Core :=
  if m = 0 then c else { c with regs := { c.regs with m := smSet 0 c.regs.m m b } }

/-- Vector register v. -/
def readVec (c : Core) (v : Nat) : Lanes := smGet [] c.regs.v v

/-- A vector register with no lane beyond 127, and nothing listed when every lane is zero, so that equal registers are equal
data. -/
def packLanes (l : Lanes) : Lanes := if (l.take 128).all (fun w => decide (w = 0)) then [] else l.take 128

/-- A core with a vector register written. -/
def writeVec (c : Core) (v : Nat) (l : Lanes) : Core :=
  { c with regs := { c.regs with v := smSet [] c.regs.v v (packLanes l) } }

/-- Whether a PID is revoked on a core: a revocation in force is listed with the cycle 0 (R109). -/
def revokedOn (c : Core) (pid : BitVec 12) : Bool := c.revoked.any fun e => e.1 = pid && e.2 = 0

/-- A handle as a core sees it: a revoked PID makes a valid handle invalid with CAUSE 10 (R109). -/
def seenHandle (c : Core) (w : Word64) : Word64 :=
  if w.getLsbD 0 && revokedOn c (w.extractLsb' 52 12) then
    (w &&& ~~~ (0x000000000000C001#64)) ||| 0x0000000000008000#64
  else w

/-- Handle register h as a use sees it. -/
def readHandle (c : Core) (h : Nat) : Word64 := seenHandle c (smGet 0 c.regs.h h)

/-- The stream cycle of a sequencer at a real cycle (R48). -/
def streamCycle (c : Core) (q : Seq) (cyc : Nat) : Nat := cyc - (streamOf c q).stalls

/-- A core with a result of latency n put in flight by a word of sequencer q issuing in a cycle (R48). -/
def fly (c : Core) (q : Seq) (cyc : Nat) (d : Dest) (n : Nat) (v : LandVal) : Core :=
  { c with flight := c.flight ++ [⟨q, d, streamCycle c q cyc + n, v, none, 0, cyc⟩] }

/-- The state with a scalar result of the turn's sequencer put in flight. -/
def flyReg (s : State) (d : Reg) (n : Nat) (w : Word64) (static : Bool) : State :=
  updCore s s.turn.core fun c => fly c s.turn.q s.cyc (.reg s.turn.q d.toNat) n (.word w static)

/-- The state with a warning set on the turn's core. -/
def warnHere (s : State) (bit : Nat) : State := updCore s s.turn.core fun c => warn c bit

/-- The state with a warning set on the turn's core where a condition holds. -/
def warnHereIf (b : Bool) (bit : Nat) (s : State) : State := if b then warnHere s bit else s

/-- Lanes where a mask bit is set from the one, elsewhere from the other (R265). -/
def mergeLanes (active : BitVec 128) (new old : Lanes) : Lanes :=
  tabulate fun i => if active.getLsbD i then laneAt new i else laneAt old i

/-- A core with a landed result written to its destination (R48, R265, R269, R444). -/
def landInto (c : Core) (d : Dest) (v : LandVal) : Core :=
  match d, v with
  | .reg q r, .word w st => writeReg c q r ⟨w, st⟩
  | .jt q j, .word w _ => writeJt c q j (w.setWidth 32)
  | .v r, .lanes l a => writeVec c r (mergeLanes a l (readVec c r))
  | .m r, .bits b a => writeMask c r ((b &&& a) ||| (readMask c r &&& ~~~ a))
  | .cr 0x022, .word w _ => { c with regs := { c.regs with warn := warnWritable w }, snapWarn := warnWritable w }
  | .cr 0x025, .word w _ => { c with regs := { c.regs with livev := w.setWidth 32 } }
  | .nest, .nest n => { c with nest := n }
  | _, _ => c

/-! ### Queues and tokens (R19, R42) -/

/-- Pops made in the running cycle, whose slots are free from the next. -/
def poppedNow {α : Type} (q : Queue α) (cyc : Nat) : Nat := if q.popCyc = cyc then q.popN else 0

/-- Whether n more entries may be claimed or pushed in the cycle. -/
def roomFor {α : Type} (q : Queue α) (depth n cyc : Nat) : Bool :=
  decide (q.places.length + poppedNow q cyc + n ≤ depth)

/-- The entry that may be popped in the cycle: filled in an earlier one. -/
def headOf {α : Type} (q : Queue α) (cyc : Nat) : Option α :=
  match q.places with
  | p :: _ => if p.cyc < cyc then p.val else none
  | [] => none

/-- The queue after a pop in the cycle. -/
def popQ {α : Type} (q : Queue α) (cyc : Nat) : Queue α :=
  { q with places := q.places.drop 1, pops := q.pops + 1, popCyc := cyc, popN := poppedNow q cyc + 1 }

/-- The queue after a push in the cycle. -/
def pushQ {α : Type} (q : Queue α) (v : α) (cyc : Nat) : Queue α :=
  { q with places := q.places ++ [⟨some v, cyc, 0⟩], pushes := q.pushes + 1 }

/-- The queue with n places claimed in queue order under a number (R51, R182). -/
def claimQ {α : Type} (q : Queue α) (tag n : Nat) : Queue α :=
  { q with places := q.places ++ List.replicate n ⟨none, 0, tag⟩ }

/-- The places with the first unfilled claim of a number filled. -/
def fillPlaces {α : Type} (tag : Nat) (v : α) (cyc : Nat) : List (Place α) → List (Place α)
  | [] => []
  | p :: ps => if p.val.isNone && p.tag = tag then ⟨some v, cyc, tag⟩ :: ps else p :: fillPlaces tag v cyc ps

/-- The queue with the first unfilled claim of a number filled in the cycle. -/
def fillQ {α : Type} (q : Queue α) (tag : Nat) (v : α) (cyc : Nat) : Queue α :=
  { q with places := fillPlaces tag v cyc q.places, pushes := q.pushes + 1 }

/-- The position of the first unfilled claim of a number. -/
def claimPos {α : Type} (tag : Nat) : List (Place α) → Option Nat
  | [] => none
  | p :: ps => if p.val.isNone && p.tag = tag then some 0 else (claimPos tag ps).map (· + 1)

/-- Whether a claim's entry has a free slot of a queue of the depth in the cycle (R182). -/
def claimReady {α : Type} (q : Queue α) (tag depth cyc : Nat) : Bool :=
  match claimPos tag q.places with
  | some i => decide (i + poppedNow q cyc < depth)
  | none => false

/-- A token counter. -/
def getToken (c : Core) (k : Nat) : Token := smGet Token.zero c.tokens k

/-- The tokens that may be taken in the cycle. -/
def tokensReady (t : Token) (cyc : Nat) : Nat := t.count - (if t.putCyc = cyc then t.putN else 0)

/-- Whether n tokens may be put in the cycle: the counter never exceeds 15 (R427). -/
def tokensRoom (t : Token) (n cyc : Nat) : Bool := decide (t.count + (if t.takeCyc = cyc then t.takeN else 0) + n ≤ 15)

/-- The counter after a put. -/
def putToken (t : Token) (n cyc : Nat) : Token :=
  { t with count := t.count + n, puts := t.puts + n, putCyc := cyc, putN := (if t.putCyc = cyc then t.putN else 0) + n }

/-- The counter after a take. -/
def takeToken (t : Token) (n cyc : Nat) : Token :=
  { t with count := t.count - n, takes := t.takes + n, takeCyc := cyc,
           takeN := (if t.takeCyc = cyc then t.takeN else 0) + n }

/-! ### Scratchpad (R199 to R206) -/

/-- Writes in coherence order: by cycle, then logical index, then as made (R206). -/
def insertWrite (w : SpadWrite) : List SpadWrite → List SpadWrite
  | [] => [w]
  | x :: xs => if w.cyc < x.cyc ∨ (w.cyc = x.cyc ∧ w.lidx < x.lidx) then w :: x :: xs else x :: insertWrite w xs

/-- A core's scratchpad with a write performed in a cycle by a party at a place. -/
def spadWrite (c : Core) (w : SpadWrite) : Core :=
  if w.bytes = [] then c else { c with recent := insertWrite w c.recent }

/-- The byte that a list of writes in coherence order leaves at an address, over what stood there. -/
def overlayByte (a : Nat) (b : Byte) (ws : List SpadWrite) : Byte :=
  ws.foldl (fun acc w => if w.addr ≤ a ∧ a < w.addr + w.bytes.length then w.bytes.getD (a - w.addr) acc else acc) b

/-- The cycle from which an observer at a place sees a write: Δ after it was performed (R202), and no later than the completion that
released it to the observer's core (R210, log 84). -/
def visFrom (w : SpadWrite) (o : Nat) (op : Party) : Nat :=
  let t := w.cyc + delta w.writer w.party o op
  if w.relTo.contains o then min t w.relAt else t

/-- The writes that an observer at a place sees in a cycle (R202, R205). -/
def seenBy (c : Core) (o : Nat) (op : Party) (cyc : Nat) : List SpadWrite :=
  c.recent.filter fun w => decide (visFrom w o op ≤ cyc)

/-- The n bytes that an observer at a place reads from a core's scratchpad in a cycle (R205). -/
def spadRead (c : Core) (o : Nat) (op : Party) (cyc a n : Nat) : List Byte :=
  let near := (seenBy c o op cyc).filter fun w => decide (w.addr < a + n) && decide (a < w.addr + w.bytes.length)
  let base := memRead c.spad a n
  (List.range n).map fun i => overlayByte (a + i) (base.getD i 0) near

/-- The n bytes at the location itself that some of the writes leave, in coherence order. -/
def spadOver (c : Core) (keep : SpadWrite → Bool) (a n : Nat) : List Byte :=
  let near := c.recent.filter fun w => keep w && decide (w.addr < a + n) && decide (a < w.addr + w.bytes.length)
  let base := memRead c.spad a n
  (List.range n).map fun i => overlayByte (a + i) (base.getD i 0) near

/-- The n bytes at the location itself in a cycle: every write so far, in coherence order (R205, R207). -/
def spadNow (c : Core) (cyc a n : Nat) : List Byte := spadOver c (fun w => decide (w.cyc ≤ cyc)) a n

/-- The n bytes at the location itself just before a write of a cycle by a logical index in coherence order (R205, R206). -/
def spadBefore (c : Core) (cyc lidx a n : Nat) : List Byte :=
  spadOver c (fun w => decide (w.cyc < cyc) || (decide (w.cyc = cyc) && decide (w.lidx ≤ lidx))) a n

/-- The settled memory after the writes that every observer sees by a cycle, and the writes left. -/
def settle (cyc : Nat) : List Host.Cell → List SpadWrite → List Host.Cell × List SpadWrite
  | m, [] => (m, [])
  | m, w :: ws => if w.cyc + 192 ≤ cyc then settle cyc (memWrite m w.addr w.bytes) ws else (m, w :: ws)

/-- A core whose old writes are settled. -/
def settleCore (cyc : Nat) (c : Core) : Core :=
  { c with spad := (settle cyc c.spad c.recent).1, recent := (settle cyc c.spad c.recent).2 }

/-- The scratchpad with every write made by a cycle performed. -/
def settleAll (c : Core) (cyc : Nat) : List Host.Cell :=
  (c.recent.filter fun w => decide (w.cyc ≤ cyc)).foldl (fun m w => memWrite m w.addr w.bytes) c.spad

/-- The state with bytes written to a core's scratchpad by a party at a place in a cycle. -/
def writeSpad (s : State) (target : Nat) (place lidx : Nat) (p : Party) (cyc a : Nat) (bs : List Byte) (cmd : Nat) :
    State :=
  updCore s target fun c => spadWrite c ⟨cyc, place, lidx, p, a, bs, cmd, 0, []⟩

/-- A write that a completion in a cycle releases to some cores, where it belongs to the command that completes (R210). -/
def releaseWrite (party : Party) (cmd cyc : Nat) (cores : List Nat) (w : SpadWrite) : SpadWrite :=
  if w.party = party ∧ w.cmd = cmd then { w with relAt := cyc, relTo := w.relTo ++ cores } else w

/-- A core with the writes in its scratchpad of a command that completes released (R210). -/
def releaseCore (party : Party) (cmd cyc : Nat) (cores : List Nat) (c : Core) : Core :=
  { c with recent := c.recent.map (releaseWrite party cmd cyc cores) }

/-- The state with every scratchpad write of a command that completes in the running cycle released to some cores (R210). -/
def releaseAll (s : State) (party : Party) (cmd : Nat) (cores : List Nat) : State :=
  { s with cores := s.cores.map fun e => (e.1, releaseCore party cmd s.cyc cores e.2) }

/-! ### Phases (R71 to R75) -/

/-- The set that holds for a class in a cycle (R409, R410). -/
def phaseAt (c : Core) (k cyc : Nat) : Option (List PhRange) :=
  let p := smGet ⟨none, 0, none⟩ c.phases k
  if p.since ≤ cyc then p.now else p.before

/-- Whether an access of class k lies within one range that carries the rights (R74); zero bytes always pass. -/
def phaseOk (c : Core) (k cyc : Nat) (rd wr : Bool) (a n : Nat) : Bool :=
  if n = 0 then true
  else
    match phaseAt c k cyc with
    | none => false
    | some rs =>
      rs.any fun r => decide (r.base ≤ a) && decide (a + n ≤ r.base + r.len) && (!rd || r.read) && (!wr || r.write)

/-! ### Control memory (R57) -/

/-- The static bit of a control-memory word; the image load leaves every word static. -/
def ctlStatic (c : Core) (a : Nat) : Bool := smGet true c.ctlTag (a / 8)

/-- The n words of control memory from a byte offset on. -/
def ctlWords (c : Core) (a n : Nat) : List Word64 := (List.range n).map fun i => memWord c.ctl (a + 8 * i)

/-- Whether all n words from a byte offset on are static. -/
def ctlAllStatic (c : Core) (a n : Nat) : Bool := (List.range n).all fun i => ctlStatic c (a + 8 * i)

/-! ### Byte barriers (Table 18.4, R346) -/

/-- The signed PEND field. -/
def barPend (w : Nat) : Int := signed 28 w

/-- A barrier word with PEND and the flags replaced. -/
def barMake (w : Nat) (phase : Nat) (fail ovr done armed : Bool) (pend : Int) : Nat :=
  (w >>> 48) <<< 48 + (phase % 2 ^ 16) <<< 32 + (if fail then 2 ^ 31 else 0) + (if ovr then 2 ^ 30 else 0) +
    (if done then 2 ^ 29 else 0) + (if armed then 2 ^ 28 else 0) + lowBits 28 pend

/-- Settle (R346). -/
def barSettle (w : Nat) : Nat :=
  let phase := bitsOf w 47 32
  if bitOf w 28 && decide (barPend w ≤ 0) then
    barMake w (phase + 1) (bitOf w 31) (bitOf w 30 || decide (barPend w < 0)) true false (barPend w)
  else w

/-- A barrier update (R346): the new word, or none where BBEXP overflows and raises 0x70. -/
def barStep (w : Nat) : BarOp → Option Nat
  | .init => some 0
  | .expect n =>
    if barPend w + n > 2 ^ 27 - 1 then none
    else some (barSettle (barMake w (bitsOf w 47 32) (bitOf w 31) (bitOf w 30) false true (barPend w + n)))
  | .arrive n f =>
    let under := decide (barPend w - n < -(2 ^ 27))
    some (barSettle (barMake w (bitsOf w 47 32) (bitOf w 31 || f) (bitOf w 30 || under) (bitOf w 29) (bitOf w 28)
      (if under then -(2 ^ 27) else barPend w - n)))

/-- A core with a barrier update of the running cycle recorded; they are applied in the order of R347. -/
def addBar (c : Core) (u : BarUpd) : Core := { c with bars := c.bars ++ [u] }

/-- The rank of an own unit's arrival in the order of R347. -/
def arrivalRank : Party → Nat
  | .copy => 2
  | .matrix => 3
  | .bin => 4
  | .row => 5
  | .coll => 6
  | _ => 7

/-- The state with an arrival of n bytes made at a barrier by a unit of core p (R346, R347). -/
def postArrival (s : State) (p : Nat) (party : Party) (b : Option BarRef) (n : Nat) (fail : Bool) : State :=
  match b with
  | none => s
  | some r =>
    let rank := if r.core = p then arrivalRank party else 8 + (getCore s p).lidx
    updCore s r.core fun c => addBar c ⟨rank, r.addr / 8 * 8, .arrive n fail, .c, [], none⟩

/-! ### Event records and completion sequences (R23, R24, R380) -/

/-- The completion sequence number of an engine: 0 copy, 1 matrix, 2 route, 3 row engine, 4 collective. -/
def getCsn (c : Core) (e : Nat) : Word32 := smGet 0 c.regs.csn e

/-- A core with an engine's completion counted. -/
def bumpCsn (c : Core) (e : Nat) : Core :=
  { c with regs := { c.regs with csn := smSet 0 c.regs.csn e (getCsn c e + 1) } }

/-- An event record (Table 19.1). -/
def eventWord (status engine : Nat) (csn : Word32) : Word64 :=
  BitVec.ofNat 64 (status * 2 ^ 48 + csn.toNat * 2 ^ 16 + engine * 2 ^ 8 + 1)

/-- A core with a record appended in a cycle, or discarded with warn(EVQ) where 32 are held (R24); the place of a record popped in the
cycle is free from the next (R42, log 84). -/
def appendEvent (c : Core) (cyc engine : Nat) (w : Word64) : Core :=
  if c.regs.events.length + (if c.evPop = cyc then 1 else 0) < 32 then
    { c with regs := { c.regs with events := c.regs.events ++ [(cyc, engine, w)] } }
  else warn c warnEvq

/-- Posts in the order of R24: by completion cycle, then copy, matrix, route, row engine, collective. -/
def insertPost (x : Post) : List Post → List Post
  | [] => [x]
  | y :: ys => if x.due < y.due ∨ (x.due = y.due ∧ x.engine < y.engine) then x :: y :: ys else y :: insertPost x ys

/-- The cores to whose parties a command's completion releases its writes: the issuing one, whose EVPOP may take the record, and the one
that holds the barrier (R210). -/
def releasedTo (p : Nat) (b : Option BarRef) : List Nat :=
  match b with
  | some r => if r.core = p then [p] else [p, r.core]
  | none => [p]

/-- A core with a command's post of a cycle, in the order of R24. -/
def post (c : Core) (cyc engine : Nat) (status : Option Nat) (party : Party) (b : Option BarRef) (n : Nat) (fail : Bool) : Core :=
  { c with posts := insertPost ⟨cyc, engine, status, party, b, n, fail⟩ c.posts }

/-- THE COMPLETION OF A COMMAND of an engine of core p in the running cycle (R23, R24, R157, R210, R374, R380, R416, R418): its writes are
released to every party of the issuing core and of the core that holds its barrier; in the same cycle it is counted, its record is
appended and its barrier gets its arrival of n bytes. DEDUCED: what R202 would show later is seen from this cycle (log 84). -/
def completeCommand (s : State) (p : Nat) (party : Party) (cmd engine status : Nat) (b : Option BarRef) (n : Nat) (fail : Bool) :
    State :=
  updCore (releaseAll s party cmd (releasedTo p b)) p fun c => post c s.cyc engine (some status) party b n fail

/-- A core with a command of an engine that only counts (R23, R380). -/
def countCommand (c : Core) (cyc engine : Nat) (party : Party) : Core := post c cyc engine none party none 0 false

/-- A core with a completion of an engine counted and its record appended, if it has one (R23, R24). -/
def postRecord (c : Core) (cyc : Nat) (x : Post) : Core :=
  let c1 := bumpCsn c x.engine
  match x.status with
  | some st => appendEvent c1 cyc x.engine (eventWord st x.engine (getCsn c1 x.engine))
  | none => c1

/-- A completion at the end of its cycle: its count, its record, then its arrival (R157, R210, R347, R416). -/
def makePost (p : Nat) (s : State) (x : Post) : State :=
  postArrival (updCore s p fun c => postRecord c s.cyc x) p x.party x.barrier x.count x.fail

/-- The state with the posts of core p that are due made, in the order of R24. -/
def flushPosts (s : State) (p : Nat) : State :=
  let due := (getCore s p).posts.filter fun x => decide (x.due ≤ s.cyc)
  due.foldl (makePost p) (updCore s p fun c => { c with posts := c.posts.filter fun x => decide (s.cyc < x.due) })

/-! ### Traps (R248, R249) -/

/-- A cause with nothing else to say. -/
def Raise.of (cause : Nat) : Raise := ⟨cause, 0, 0, [], 0⟩

/-- A cause with the addresses of an access. -/
def Raise.at_ (cause first faddr : Nat) : Raise := ⟨cause, first, faddr, [], 0⟩

/-- The party numbers of R249. -/
def partyNo : Party → Nat
  | .seq .c => 0
  | .seq .l => 1
  | .seq .x => 2
  | .seq .s => 3
  | .copy => 4
  | .matrix => 5
  | .bin => 6
  | .row => 7
  | .coll => 8
  | _ => 1

/-- The order of R249: cycle; core traps before channel traps, the package manager's last (log 43); logical index or channel;
party. -/
def trapBefore (x y : Trap) : Bool :=
  if x.cyc ≠ y.cyc then decide (x.cyc < y.cyc)
  else if x.chan ≠ y.chan then !x.chan
  else if x.lidx ≠ y.lidx then decide (x.lidx < y.lidx)
  else decide (x.party < y.party)

/-- A run with a trap among its causes: the one that comes first in the order of R249 fixes t, the others stand beside it. -/
def addTrap (run : SegRun) (t : Trap) : SegRun :=
  match run.trap with
  | none => { run with trap := some t }
  | some u =>
    if trapBefore t u then { run with trap := some t, others := run.others ++ [u] } else { run with others := run.others ++ [t] }

/-- TAKING A TRAP: in cycle t a party raises a cause in a running segment of a launch. The trap that comes first in the order of R249 fixes
t; the others of the stop window are kept beside it (R249). The raising core stops (R248); CORE_STOP stops the others and TRAP_SEGMENT_END
ends the segment. -/
def takeTrap (s : State) (launch : Nat) (core : Option Nat) (lidx party : Nat) (chan : Bool) (r : Raise) : State :=
  let l := getLaunch s launch
  match l.run with
  | none => s
  | some run =>
    let t : Trap := ⟨r.cause, s.cyc, lidx, party, chan, core, r.first, r.faddr, r.detail, r.user⟩
    let s' := setLaunch s launch { l with run := some (addTrap run t) }
    match core with
    | none => s'
    | some p => updCore s' p fun c => { c with stopAt := some (match c.stopAt with | some x => min x (s.cyc + 1) | none => s.cyc + 1) }

/-- A trap raised by a party of a core. -/
def raiseOn (s : State) (p : Nat) (party : Party) (r : Raise) : State :=
  match (getCore s p).launch with
  | none => s
  | some n => takeTrap s n (some p) (getCore s p).lidx (partyNo party) false r

/-- A trap raised by a channel sequencer (R145): it runs on none of the launch's cores. -/
def raiseChan (s : State) (ch : Nat) (r : Raise) : State :=
  match (getChan s ch).run with
  | none => s
  | some run => takeTrap s run.launch none ch 9 true r

/-- A trap raised at the turn's word by its sequencer: the word performs nothing and is not tried again. -/
def raiseHere (s : State) (r : Raise) : State :=
  let s1 := updCore s s.turn.core fun c =>
    setStream c s.turn.q { streamOf c s.turn.q with hold := s.cyc + 1 }
  raiseOn s1 s.turn.core (.seq s.turn.q) r

/-! ### Issue (R37 to R48, R257, R391) -/

/-- What a word says of its issue: its length in parcels, the sequencers that accept it, whether a selecting field is reserved,
the warnings its fallbacks set, the registers it reads and writes with their latencies (for the hazard detector), its
stall condition with what it waits for, its stamp, and its effect. -/
structure WordPlan where
  len : Nat
  accepts : List Seq
  bad : Bool
  warns : List Nat
  reads : List Dest
  writes : List (Dest × Nat)
  stall : State → Option Await
  stamp : State → Option (Nat × Nat)
  act : State → Except Raise (State × Flow)

/-- A word that never stalls and carries no stamp. -/
def WordPlan.plain (len : Nat) (accepts : List Seq) (mbz bad : Bool) (reads : List Dest) (writes : List (Dest × Nat))
    (act : State → Except Raise (State × Flow)) : WordPlan :=
  ⟨len, accepts, bad, if mbz then [warnMbz] else [], reads, writes, fun _ => none, fun _ => none, act⟩

/-- A stall condition and what it waits for. -/
def waitIf (b : Bool) (a : Await) : Option Await := if b then some a else none

/-- The entry that a pop of a queue waits for. -/
def popOf {α : Type} (k : Nat) (q : Queue α) : Await := .pop k q.pops

/-- The place that a push to a queue waits for. -/
def pushOf {α : Type} (k : Nat) (q : Queue α) : Await := .push k (q.pops + q.places.length)

/-- The cycles of the single stall that a stream's stall cycle belongs to (R44): it goes on from the cycle before where that stalled for
the same kind of reason, a result awaited (`late`) or a word that may not issue. -/
def stallCount (st : Stream) (cyc : Nat) (late : Bool) : Nat :=
  if st.stallAt + 1 = cyc && st.stallLate == late then st.stallRun + 1 else 1

/-- One stall cycle of the turn's stream (R41, R43, R48). -/
def stallStream (st : Stream) (cyc : Nat) (a : Await) : Stream :=
  { st with hold := cyc + 1, stalls := st.stalls + 1, stallRun := stallCount st cyc false, stallAt := cyc, stallLate := false,
            awaits := a, slip := slipNext st.slip }

/-- The state after a stall cycle of the turn's stream. -/
def stallHere (s : State) (a : Await) : State :=
  updCore s s.turn.core fun c => setStream c s.turn.q (stallStream (streamOf c s.turn.q) s.cyc a)

/-- Whether the stamp (base, STAMP32) is absent, due, ahead by d cycles or past, against the low 32 bits of a count (R40). -/
inductive StampState where
  | due
  | ahead (d : Nat)
  | past
  deriving DecidableEq, Repr

/-- The stamp rule of R40: `abs` is the absolute stamp, `now` the count it is compared with. -/
def stampState (abs now : Nat) : StampState :=
  let d := (abs + 2 ^ 32 - now % 2 ^ 32) % 2 ^ 32
  if d = 0 then .due else if d < 2 ^ 31 then .ahead d else .past

/-- Whether a destination is a constant register, whose writes are discarded (R17). -/
def Dest.const : Dest → Bool
  | .reg _ r => r = 0
  | .m r => r = 0
  | .none => true
  | _ => false

/-- Whether a register's write is in flight on a core (R67); for a handle, the window of R53. -/
def inFlight (c : Core) (d : Dest) : Bool :=
  match d with
  | .h r => c.xlate.any fun x => x.h = r
  | _ => !d.const && c.flight.any fun f => f.dest = d

/-- Whether a result of latency n would land beside another on the same register (R67). -/
def landsTogether (c : Core) (q : Seq) (cyc : Nat) (d : Dest) (n : Nat) : Bool :=
  !d.const && c.flight.any fun f => f.dest = d && f.due = streamCycle c q cyc + n

/-- Whether the word at the turn's position is marked `.old` in the image's hazard table (R68). -/
def markedOld (c : Core) (q : Seq) : Bool := c.hazTable.contains (q, (streamOf c q).pc)

/-- The first two cases of the hazard detector (R67), with DBGCTL.HAZ = 1. -/
def hazard (s : State) (reads : List Dest) (writes : List (Dest × Nat)) : Bool :=
  match runningOn s s.turn.core with
  | none => false
  | some (_, l, _) =>
    let c := getCore s s.turn.core
    l.haz && ((!markedOld c s.turn.q && reads.any (inFlight c)) ||
      writes.any fun w => landsTogether c s.turn.q s.cyc w.1 w.2)

/-- The end check of LOOP at the word at pc (R391): the levels left and the loop's first word where it repeats. -/
def loopEnd (pc : Nat) : List LoopLevel → List LoopLevel × Option Nat
  | [] => ([], none)
  | v :: vs =>
    if v.last ≠ pc then (v :: vs, none)
    else if v.left > 1 then ({ v with left := v.left - 1 } :: vs, some v.first)
    else loopEnd pc vs

/-- Whether a loop's body holds a target. -/
def LoopLevel.holds (v : LoopLevel) (target : Nat) : Bool := decide (v.first ≤ target) && decide (target ≤ v.last)

/-- The loop levels left open by a taken branch to a target (R392): all where the innermost body holds it; otherwise those enclosing
levels whose bodies do. -/
def closeLevels (target : Nat) : List LoopLevel → List LoopLevel
  | [] => []
  | v :: vs => if v.holds target then v :: vs else vs.filter fun u => u.holds target

/-- The turn's stream after its word, len parcels long, issued in the cycle. -/
def flowStream (st : Stream) (len cyc : Nat) (f : Flow) : Stream :=
  let st1 := { st with stallRun := 0, issues := st.issues + 1 }
  match f with
  | .on b fx =>
    match loopEnd st.pc st.loops with
    | (vs, some first) => { st1 with pc := first, base := b, fixed := fx, loops := vs }
    | (vs, none) => { st1 with pc := st.pc + len, base := b, fixed := fx, loops := vs }
  | .jump t n closes =>
    { st1 with pc := t, base := cyc + 1 + n, fixed := false,
               loops := if closes then closeLevels t st.loops else st.loops }
  | .stop => { st1 with ended := true }
  | .trapped => st

/-- The state after the turn's word has issued: its warnings set, its stream moved on. -/
def issued (len : Nat) (warns : List Nat) (s : State) (f : Flow) : State :=
  updCore s s.turn.core fun c =>
    setStream (warnAll warns c) s.turn.q (flowStream (streamOf c s.turn.q) len s.cyc f)

/-- A word that goes on to the next in the cycle after its issue (R37). -/
def goOn (s : State) : State × Flow := (s, .on (s.cyc + 1) false)

/-- THE ISSUE OF A WORD: acceptance (0x02), selecting fields (0x01), stall conditions, the stamp, the hazard detector, then the
word's own checks and effect (R257, R40, R41, R67). A word that raises performs nothing and sets no warning. -/
def issueWord (p : WordPlan) (s : State) : Out :=
  if !p.accepts.contains s.turn.q then .next (raiseHere s (Raise.of 0x02))
  else if p.bad then .next (raiseHere s (Raise.of 0x01))
  else
    match p.stall s with
    | some a => .next (stallHere s a)
    | none =>
      match (p.stamp s).map (fun a => stampState a.1 a.2) with
      | some .past => .next (raiseHere s (Raise.of 0x10))
      | some (.ahead d) =>
        .next (updCore s s.turn.core fun c =>
          setStream c s.turn.q { streamOf c s.turn.q with hold := s.cyc + d })
      | _ =>
        if hazard s p.reads p.writes then .next (raiseHere s (Raise.of 0x12))
        else
          match p.act s with
          | .error r => .next (raiseHere s r)
          | .ok (s', f) => .next (issued p.len p.warns s' f)

/-- A core's SLIP (Table 2.2). -/
def coreSlip (c : Core) : Word64 := slipWord c.c.slip c.l.slip c.x.slip c.st.slip

/-- The state with the turn's SLIP field reset to zero (R40, R43, R45). -/
def resetSlip (s : State) : State :=
  updCore s s.turn.core fun c => setStream c s.turn.q { streamOf c s.turn.q with slip := 0 }

/-- An answer handed to the outside. -/
def reply (s : State) (kind world : Nat) (bs : List Byte) : State :=
  { s with outbox := s.outbox ++ [⟨kind, world, s.cyc, bs⟩] }

end Sys2Proof.Machine
end

