-- ==== Sys2Proof/Machine/Alu.lean ====
section
/-!
DEFINITION. The scalar arithmetic of C, L and S: the ALU, unary and immediate families, LI and LIH (R338, R339, R359, R360,
R378, R390, R393, R400, R407, R412, R414, R421, R422, R425, R454, Table 3.4).
-/

namespace Sys2Proof.Machine

open Sys2Proof

/-- The sequencers of the scalar families (Table 10.3). -/
def cls : List Seq := [.c, .l, .s]

/-- Whether a register field names no register of the sequencer: 16 to 31 in L and S (R337). -/
def regBad (q : Seq) (rs : List Reg) : Bool := (q = .l || q = .s) && rs.any fun r => decide (16 ≤ r.toNat)

/-- What the turn's sequencer reads of a register. -/
def regHere (s : State) (r : Reg) : SReg := readReg (getCore s s.turn.core) s.turn.q r.toNat

/-- The destination a register field names for the turn's sequencer. -/
def destHere (s : State) (r : Reg) : Dest := .reg s.turn.q r.toNat

/-- A word of two source registers and one result of latency n, static when both sources are (R55). -/
def binaryPlan (h : Hdr) (d a b : Reg) (n : Nat) (f : Word64 → Word64 → Word64) (s : State) : WordPlan :=
  WordPlan.plain 1 cls h.mbz (regBad s.turn.q [d, a, b]) [destHere s a, destHere s b] [(destHere s d, n)] fun s =>
    .ok (goOn (flyReg s d n (f (regHere s a).val (regHere s b).val) ((regHere s a).static && (regHere s b).static)))

/-- A word of one source register and one result of latency 1. -/
def unaryPlan (h : Hdr) (d a : Reg) (f : Word64 → Word64) (s : State) : WordPlan :=
  WordPlan.plain 1 cls h.mbz (regBad s.turn.q [d, a]) [destHere s a] [(destHere s d, 1)] fun s =>
    .ok (goOn (flyReg s d 1 (f (regHere s a).val) (regHere s a).static))

/-- The signed value of a 64-bit word. -/
def sgn (a : Word64) : Int := a.toInt

/-- 1 where a condition holds (R360). -/
def flag (b : Bool) : Word64 := if b then 1 else 0

/-- The quotient truncated toward zero, 0 for a zero divisor (R378). -/
def divWord (a b : Word64) : Word64 := if b = 0 then 0 else BitVec.ofInt 64 ((sgn a).tdiv (sgn b))

/-- The natural quotient (R378). -/
def divnWord (a b : Word64) : Word64 := if b = 0 then 0 else BitVec.ofNat 64 (a.toNat / b.toNat)

/-- The remainder with the dividend's sign, the dividend for a zero divisor (R412). -/
def remWord (a b : Word64) : Word64 := if b = 0 then a else BitVec.ofInt 64 ((sgn a).tmod (sgn b))

/-- The natural remainder (R412). -/
def remnWord (a b : Word64) : Word64 := if b = 0 then a else BitVec.ofNat 64 (a.toNat % b.toNat)

/-- The high half of the signed product (R400). -/
def mulhWord (a b : Word64) : Word64 := BitVec.ofInt 64 ((sgn a * sgn b) / 2 ^ 64)

/-- The high half of the natural product (R400). -/
def mulhnWord (a b : Word64) : Word64 := BitVec.ofNat 64 (a.toNat * b.toNat / 2 ^ 64)

/-- The shift amount of the register forms (R414). -/
def amount (b : Word64) : Nat := b.toNat % 64

/-- Leading zero bits of the low n bits (R359). -/
def clzFrom (a : Nat) : Nat → Nat
  | 0 => 0
  | n + 1 => if a.testBit n then 0 else 1 + clzFrom a n

/-- Trailing zero bits, of n bits from bit i on (R359). -/
def ctzFrom (a : Nat) (i : Nat) : Nat → Nat
  | 0 => 0
  | n + 1 => if a.testBit i then 0 else 1 + ctzFrom a (i + 1) n

/-- The one bits among the low n bits (R359, R439). -/
def onesIn (a : Nat) : Nat → Nat
  | 0 => 0
  | n + 1 => (if a.testBit n then 1 else 0) + onesIn a n

/-- ADD (R338). -/
def execAdd (h : Hdr) (d a b : Reg) (s : State) : Out := issueWord (binaryPlan h d a b 1 (· + ·) s) s
/-- SUB (R425). -/
def execSub (h : Hdr) (d a b : Reg) (s : State) : Out := issueWord (binaryPlan h d a b 1 (· - ·) s) s
/-- MUL (R400). -/
def execMul (h : Hdr) (d a b : Reg) (s : State) : Out := issueWord (binaryPlan h d a b 3 (· * ·) s) s
/-- MULH (R400). -/
def execMulh (h : Hdr) (d a b : Reg) (s : State) : Out := issueWord (binaryPlan h d a b 3 mulhWord s) s
/-- MULHN (R400). -/
def execMulhn (h : Hdr) (d a b : Reg) (s : State) : Out := issueWord (binaryPlan h d a b 3 mulhnWord s) s

/-- A division: as a binary word, with warn(DIVZ) at issue for a zero divisor (R378, R412). -/
def divPlan (h : Hdr) (d a b : Reg) (f : Word64 → Word64 → Word64) (s : State) : WordPlan :=
  let p := binaryPlan h d a b 24 f s
  { p with act := fun s => p.act (warnHereIf (decide ((regHere s b).val = 0)) warnDivz s) }

/-- DIV (R378). -/
def execDiv (h : Hdr) (d a b : Reg) (s : State) : Out := issueWord (divPlan h d a b divWord s) s
/-- DIVN (R378). -/
def execDivn (h : Hdr) (d a b : Reg) (s : State) : Out := issueWord (divPlan h d a b divnWord s) s
/-- REM (R412). -/
def execRem (h : Hdr) (d a b : Reg) (s : State) : Out := issueWord (divPlan h d a b remWord s) s
/-- REMN (R412). -/
def execRemn (h : Hdr) (d a b : Reg) (s : State) : Out := issueWord (divPlan h d a b remnWord s) s
/-- AND (R339). -/
def execAnd (h : Hdr) (d a b : Reg) (s : State) : Out := issueWord (binaryPlan h d a b 1 (· &&& ·) s) s
/-- ANDN (R339). -/
def execAndn (h : Hdr) (d a b : Reg) (s : State) : Out := issueWord (binaryPlan h d a b 1 (fun x y => x &&& ~~~ y) s) s
/-- OR (R407). -/
def execOr (h : Hdr) (d a b : Reg) (s : State) : Out := issueWord (binaryPlan h d a b 1 (· ||| ·) s) s
/-- XOR (R454). -/
def execXor (h : Hdr) (d a b : Reg) (s : State) : Out := issueWord (binaryPlan h d a b 1 (· ^^^ ·) s) s
/-- SHL (R414). -/
def execShl (h : Hdr) (d a b : Reg) (s : State) : Out := issueWord (binaryPlan h d a b 1 (fun x y => x <<< amount y) s) s
/-- SHR (R414). -/
def execShr (h : Hdr) (d a b : Reg) (s : State) : Out := issueWord (binaryPlan h d a b 1 (fun x y => x >>> amount y) s) s
/-- SHA (R414). -/
def execSha (h : Hdr) (d a b : Reg) (s : State) : Out :=
  issueWord (binaryPlan h d a b 1 (fun x y => x.sshiftRight (amount y)) s) s
/-- ROT (R414). -/
def execRot (h : Hdr) (d a b : Reg) (s : State) : Out :=
  issueWord (binaryPlan h d a b 1 (fun x y => x <<< amount y ||| x >>> (64 - amount y)) s) s
/-- MIN (R393). -/
def execMin (h : Hdr) (d a b : Reg) (s : State) : Out :=
  issueWord (binaryPlan h d a b 1 (fun x y => if sgn x < sgn y then x else y) s) s
/-- MINN (R393). -/
def execMinn (h : Hdr) (d a b : Reg) (s : State) : Out :=
  issueWord (binaryPlan h d a b 1 (fun x y => if x.toNat < y.toNat then x else y) s) s
/-- MAX (R393). -/
def execMax (h : Hdr) (d a b : Reg) (s : State) : Out :=
  issueWord (binaryPlan h d a b 1 (fun x y => if sgn x > sgn y then x else y) s) s
/-- MAXN (R393). -/
def execMaxn (h : Hdr) (d a b : Reg) (s : State) : Out :=
  issueWord (binaryPlan h d a b 1 (fun x y => if x.toNat > y.toNat then x else y) s) s
/-- CMPEQ (R360). -/
def execCmpeq (h : Hdr) (d a b : Reg) (s : State) : Out :=
  issueWord (binaryPlan h d a b 1 (fun x y => flag (decide (x = y))) s) s
/-- CMPNE (R360). -/
def execCmpne (h : Hdr) (d a b : Reg) (s : State) : Out :=
  issueWord (binaryPlan h d a b 1 (fun x y => flag (decide (x ≠ y))) s) s
/-- CMPLT (R360). -/
def execCmplt (h : Hdr) (d a b : Reg) (s : State) : Out :=
  issueWord (binaryPlan h d a b 1 (fun x y => flag (decide (sgn x < sgn y))) s) s
/-- CMPLTN (R360). -/
def execCmpltn (h : Hdr) (d a b : Reg) (s : State) : Out :=
  issueWord (binaryPlan h d a b 1 (fun x y => flag (decide (x.toNat < y.toNat))) s) s
/-- CMPLE (R360). -/
def execCmple (h : Hdr) (d a b : Reg) (s : State) : Out :=
  issueWord (binaryPlan h d a b 1 (fun x y => flag (decide (sgn x ≤ sgn y))) s) s
/-- CMPLEN (R360). -/
def execCmplen (h : Hdr) (d a b : Reg) (s : State) : Out :=
  issueWord (binaryPlan h d a b 1 (fun x y => flag (decide (x.toNat ≤ y.toNat))) s) s

/-- SEL (R421): reads D too, and is static when all three inputs are (R55). -/
def execSel (h : Hdr) (d a b : Reg) (s : State) : Out :=
  issueWord (WordPlan.plain 1 cls h.mbz (regBad s.turn.q [d, a, b]) [destHere s d, destHere s a, destHere s b]
    [(destHere s d, 1)] fun s =>
      .ok (goOn (flyReg s d 1 (if (regHere s d).val ≠ 0 then (regHere s a).val else (regHere s b).val)
        ((regHere s d).static && (regHere s a).static && (regHere s b).static)))) s

/-- CLZ (R359). -/
def execClz (h : Hdr) (d a : Reg) (s : State) : Out :=
  issueWord (unaryPlan h d a (fun x => BitVec.ofNat 64 (clzFrom x.toNat 64)) s) s
/-- CTZ (R359). -/
def execCtz (h : Hdr) (d a : Reg) (s : State) : Out :=
  issueWord (unaryPlan h d a (fun x => BitVec.ofNat 64 (ctzFrom x.toNat 0 64)) s) s
/-- POPC (R359). -/
def execPopc (h : Hdr) (d a : Reg) (s : State) : Out :=
  issueWord (unaryPlan h d a (fun x => BitVec.ofNat 64 (onesIn x.toNat 64)) s) s

/-- The source width of SEXT and ZEXT: 8, 16 or 32 (R422). -/
def extWidth (w : BitVec 5) : Nat := 8 * 2 ^ w.toNat

/-- A width word: width codes above 2 are reserved (Table 10.4). -/
def widthPlan (h : Hdr) (d a : Reg) (w : BitVec 5) (f : Word64 → Word64) (s : State) : WordPlan :=
  { unaryPlan h d a f s with bad := regBad s.turn.q [d, a] || decide (2 < w.toNat) }

/-- SEXT (R422). -/
def execSext (h : Hdr) (d a : Reg) (w : BitVec 5) (s : State) : Out :=
  issueWord (widthPlan h d a w (fun x => BitVec.ofInt 64 (signed (extWidth w) x.toNat)) s) s
/-- ZEXT (R422). -/
def execZext (h : Hdr) (d a : Reg) (w : BitVec 5) (s : State) : Out :=
  issueWord (widthPlan h d a w (fun x => BitVec.ofNat 64 (x.toNat % 2 ^ extWidth w)) s) s

/-- IMM10 sign-extended (R338). -/
def imm10 (i : BitVec 10) : Word64 := i.signExtend 64

/-- ADDI (R338). -/
def execAddi (h : Hdr) (d a : Reg) (i : BitVec 10) (s : State) : Out := issueWord (unaryPlan h d a (· + imm10 i) s) s
/-- ANDI (R339). -/
def execAndi (h : Hdr) (d a : Reg) (i : BitVec 10) (s : State) : Out := issueWord (unaryPlan h d a (· &&& imm10 i) s) s
/-- ORI (R407). -/
def execOri (h : Hdr) (d a : Reg) (i : BitVec 10) (s : State) : Out := issueWord (unaryPlan h d a (· ||| imm10 i) s) s
/-- XORI (R454). -/
def execXori (h : Hdr) (d a : Reg) (i : BitVec 10) (s : State) : Out := issueWord (unaryPlan h d a (· ^^^ imm10 i) s) s
/-- SHLI (R414). -/
def execShli (h : Hdr) (d a : Reg) (n : BitVec 6) (s : State) : Out := issueWord (unaryPlan h d a (· <<< n.toNat) s) s
/-- SHRI (R414). -/
def execShri (h : Hdr) (d a : Reg) (n : BitVec 6) (s : State) : Out := issueWord (unaryPlan h d a (· >>> n.toNat) s) s
/-- SHAI (R414). -/
def execShai (h : Hdr) (d a : Reg) (n : BitVec 6) (s : State) : Out :=
  issueWord (unaryPlan h d a (fun x => x.sshiftRight n.toNat) s) s

/-- LI (R390): always static. -/
def execLi (h : Hdr) (d : Reg) (i : Word32) (s : State) : Out :=
  issueWord (WordPlan.plain 2 [.c] h.mbz false [] [(destHere s d, 1)] fun s =>
    .ok (goOn (flyReg s d 1 (i.signExtend 64) true))) s

/-- LIH (R390). -/
def execLih (h : Hdr) (d a : Reg) (i : Word32) (s : State) : Out :=
  issueWord (WordPlan.plain 2 [.c] h.mbz false [destHere s a] [(destHere s d, 1)] fun s =>
    .ok (goOn (flyReg s d 1 (i ++ (regHere s a).val.setWidth 32) (regHere s a).static))) s

end Sys2Proof.Machine
end

