-- ==== Sys2Proof/WellFormed.lean ====
section
/-!
DEFINITION. Well-formed instruction words: those whose selecting fields hold no reserved value and whose must-be-zero bits are
zero, so that an encoding has room for them (R257 step 4, R258, R128).
-/

namespace Sys2Proof

/-- No must-be-zero bit is set (R258). -/
def Hdr.wf (h : Hdr) : Bool := !h.mbz

/-- SPACE is 29, 30 or 31 (R259). -/
def spaceOk (sp : BitVec 5) : Bool := decide (29 ≤ sp.toNat)

/-- Whether a term is an encodable instruction word with no reserved selector; a device step has no encoding. -/
def Instr.wf : Instr → Bool
  | .add h _ _ _ | .sub h _ _ _ | .mul h _ _ _ | .mulh h _ _ _ | .mulhn h _ _ _ | .div h _ _ _ | .divn h _ _ _
  | .rem h _ _ _ | .remn h _ _ _ | .and h _ _ _ | .andn h _ _ _ | .or h _ _ _ | .xor h _ _ _ | .shl h _ _ _
  | .shr h _ _ _ | .sha h _ _ _ | .rot h _ _ _ | .min h _ _ _ | .minn h _ _ _ | .max h _ _ _ | .maxn h _ _ _
  | .cmpeq h _ _ _ | .cmpne h _ _ _ | .cmplt h _ _ _ | .cmpltn h _ _ _ | .cmple h _ _ _ | .cmplen h _ _ _
  | .sel h _ _ _ => h.wf
  | .clz h _ _ | .ctz h _ _ | .popc h _ _ => h.wf
  | .sext h _ _ w | .zext h _ _ w => h.wf && decide (w.toNat ≤ 2)
  | .addi h _ _ _ | .andi h _ _ _ | .ori h _ _ _ | .xori h _ _ _ => h.wf
  | .shli h _ _ _ | .shri h _ _ _ | .shai h _ _ _ => h.wf
  | .ld h _ _ sp sz | .st h _ _ sp sz => h.wf && spaceOk sp && decide (sz.toNat ≠ 7)
  | .atadd h _ _ sp | .atmin h _ _ sp | .atmax h _ _ sp | .atand h _ _ sp | .ator h _ _ sp | .atxch h _ _ sp =>
    h.wf && spaceOk sp
  | .atcas h d _ sp => h.wf && spaceOk sp && decide (d.toNat ≠ 31)
  | .b h _ | .bz h _ _ | .bnz h _ _ | .call h _ _ | .ret h | .prepLabel h _ _ | .prepRegister h _ _ | .jp h _ => h.wf
  | .loop h _ off => h.wf && decide (0 < off.toNat) && decide (off.toNat < 16384)
  | .boput h _ q => h.wf && decide (q.toNat ≠ 3)
  | .boget h _ | .idle h _ | .realign h | .stamp h _ _ | .mark h _ => h.wf
  | .tkput h q n | .tkget h q n => h.wf && decide (q.toNat < 12) && decide (n.toNat ≠ 0)
  | .fence h _ _ | .evpop h _ | .evwait h | .sput h _ | .sget h _ | .bbinit h _ | .bbwait h _ | .bbtest h _ _ => h.wf
  | .bbexp h _ imm => h.wf && decide (imm.toNat < 2 ^ 27)
  | .binrst h _ | .binpass h _ | .binend h _ => h.wf
  | .binfill h _ _ fs => h.wf && decide (fs.toNat < 4)
  | .bindef h n _ => h.wf && decide (n.toNat < 16)
  | .hinv h _ | .hqry h _ _ => h.wf
  | .phend h c => h.wf && decide (c.toNat ≠ 7)
  | .segend h _ | .cask h _ _ | .trap h _ | .crd h _ _ | .cwr h _ _ | .halt h | .nop h | .brk h _ => h.wf
  | .nslice h _ fs r => h.wf && (decide (4 ≤ fs.toNat) || decide (r.toNat = 0))
  | .li h _ _ | .lih h _ _ _ | .xlate h _ _ _ => h.wf
  | .phase h c _ _ => h.wf && decide (c.toNat < 7)
  | .nest h _ _ => h.wf
  | .collAllred h _ _ e r _ | .collReduce h _ _ e r _ => h.wf && decide (e.toNat < 2) && decide (r.toNat < 3)
  | .collBcast h _ _ _ | .collGather h _ _ _ | .collA2a h _ _ _ | .collCombine h _ _ _ | .collSync h _ _ _ => h.wf
  | .rowg h _ _ | .rows h _ _ | .rowsa h _ _ => h.wf
  | .vld w | .vst w => decide (w.q.toNat = 0)
  | .copy w => decide ((w.fn.extractLsb' 7 3).toNat < 6)
  | .obld w => decide (w.q.toNat < 4)
  | .route w => decide (w.q.toNat < 16)
  | .mma w | .mmap w =>
    decide (w.top0 = 0) && decide (w.top5 = 0) && decide (w.asrc.toNat < 2) && decide (w.bsrc.toNat < 2)
  | .mret w | .mdrain w => decide (w.top0 = 0) && decide (w.top5 = 0) && decide (w.asrc = 0) && decide (w.bsrc = 0)
  | .vadd w | .vsub w | .vmul w | .vfma w | .vfms w | .vfnma w | .vmin w | .vmax w | .vabs w | .vneg w | .vrcp w
  | .vrsq w | .vsqrt w | .vdiv w | .vexp2 w | .vlog2 w | .viadd w | .visub w | .vimul w | .vimulh w | .vimac w
  | .vand w | .vor w | .vxor w | .vandn w | .vshl w | .vshr w | .vsha w | .vimin w | .vimax w | .vclmul w | .vpopc w
  | .vcmp w | .vsel w | .vmsk w | .vcvt w | .vqnt w | .vpack w | .vunpk w | .vred w | .vperm w | .vshuf w | .vbcast w
  | .vslide w | .viota w | .vmov w | .vxs w | .trd w | .twr w | .tzero w | .topkc w =>
    decide (w.top = 0) && decide (w.ty.toNat ≠ 15)
  | .pdim _ pr pc _ => decide (pr.toNat < 12) && decide (pc.toNat < 12)
  | .pband _ w _ => decide (0 < w.toNat)
  | .pdil _ _ sp => decide (0 < sp.toNat)
  | .pblk _ _ | .pkron _ _ _ => true
  | .phash _ n _ => decide (0 < n.toNat)
  | .pemit _ r => decide (0 < r.toNat) && decide (r.toNat ≤ 512)
  | .pinv _ => true
  | .pend g => decide (g = 0)
  | .dact d _ r => decide (d ≠ 0) && decide (r.toNat < 49152)
  | .dpre d _ | .dpreAll d | .dref d | .drefPb d _ | .dnop d | .dnopEnd d => decide (d ≠ 0)
  | .drd d _ r _ _ _ | .dwr d _ r _ _ _ => decide (d ≠ 0) && decide (r.toNat < 49152)
  | .dind d s => decide (d ≠ 0) && decide (s.toNat < 2)
  | .dloop w r => decide (w ≠ 0) && decide (r ≠ 0)
  | _ => false

end Sys2Proof
end

