-- ==== Sys2Proof/Decode.lean ====
section
/-!
DEFINITION. Decoding instruction, pattern and channel words from their parcels (Tables 5.2, 7.8, 10.1 to 10.9, R255 to R268),
total and rejecting by name; and after it the encoder, written from the same tables.
-/

namespace Sys2Proof

/-- Why bits are no instruction. -/
inductive DecodeError where
  /-- A parcel of the word is missing (R256). -/
  | short
  /-- OP is 0 or not assigned in the word's class (R255, R260, R263, R266, R268). -/
  | opcode
  /-- A function code is reserved (Table 10.4, Table 18.9). -/
  | function
  /-- A channel or pattern word breaks its layout (R128, R196). -/
  | layout
  deriving DecidableEq, Repr

/-- The n bits of w from bit lo up. -/
def fld {m : Nat} (w : BitVec m) (lo n : Nat) : BitVec n := w.extractLsb' lo n

/-- LEN of parcel 0 (R255). -/
def lenOf (w : Word32) : Nat := (fld w 0 2).toNat

/-- OP of parcel 0 (R255). -/
def opOf (w : Word32) : Nat := (fld w 5 7).toNat

/-- IDLE of parcel 0 (R255). -/
def idleOf (w : Word32) : BitVec 3 := fld w 2 3

/-- The parcels of a word whose parcel 0 is w (Table 10.1). -/
def parcelsOf (w : Word32) : Nat :=
  match lenOf w with
  | 0 => 1
  | 1 => 2
  | 2 => 3
  | _ => 6

/-- The common fields, with the word's must-be-zero bits tested (R258). -/
def hdrOf {n : Nat} (w : Word32) (mbz : BitVec n) : Hdr := ⟨idleOf w, decide (mbz ≠ 0)⟩

/-- The ALU family (Table 10.4). -/
def decodeAlu (w : Word32) : Except DecodeError Instr :=
  let h : Hdr := ⟨idleOf w, false⟩
  let d := fld w 12 5
  let a := fld w 17 5
  let b := fld w 22 5
  match (fld w 27 5).toNat with
  | 0 => .ok (.add h d a b)
  | 1 => .ok (.sub h d a b)
  | 2 => .ok (.mul h d a b)
  | 3 => .ok (.mulh h d a b)
  | 4 => .ok (.mulhn h d a b)
  | 5 => .ok (.div h d a b)
  | 6 => .ok (.divn h d a b)
  | 7 => .ok (.rem h d a b)
  | 8 => .ok (.remn h d a b)
  | 9 => .ok (.and h d a b)
  | 10 => .ok (.andn h d a b)
  | 11 => .ok (.or h d a b)
  | 12 => .ok (.xor h d a b)
  | 13 => .ok (.shl h d a b)
  | 14 => .ok (.shr h d a b)
  | 15 => .ok (.sha h d a b)
  | 16 => .ok (.rot h d a b)
  | 17 => .ok (.min h d a b)
  | 18 => .ok (.minn h d a b)
  | 19 => .ok (.max h d a b)
  | 20 => .ok (.maxn h d a b)
  | 21 => .ok (.cmpeq h d a b)
  | 22 => .ok (.cmpne h d a b)
  | 23 => .ok (.cmplt h d a b)
  | 24 => .ok (.cmpltn h d a b)
  | 25 => .ok (.cmple h d a b)
  | 26 => .ok (.cmplen h d a b)
  | 27 => .ok (.sel h d a b)
  | _ => .error .function

/-- The unary family (Table 10.4); SEXT and ZEXT keep B as their width code. -/
def decodeUnary (w : Word32) : Except DecodeError Instr :=
  let d := fld w 12 5
  let a := fld w 17 5
  let b := fld w 22 5
  match (fld w 27 5).toNat with
  | 0 => .ok (.clz (hdrOf w b) d a)
  | 1 => .ok (.ctz (hdrOf w b) d a)
  | 2 => .ok (.popc (hdrOf w b) d a)
  | 3 => .ok (.sext ⟨idleOf w, false⟩ d a b)
  | 4 => .ok (.zext ⟨idleOf w, false⟩ d a b)
  | _ => .error .function

/-- The atomics (Table 18.2). -/
def decodeAtomic (w : Word32) : Except DecodeError Instr :=
  let h := hdrOf w (fld w 30 2)
  let d := fld w 12 5
  let a := fld w 17 5
  let sp := fld w 22 5
  match (fld w 27 3).toNat with
  | 0 => .ok (.atadd h d a sp)
  | 1 => .ok (.atmin h d a sp)
  | 2 => .ok (.atmax h d a sp)
  | 3 => .ok (.atand h d a sp)
  | 4 => .ok (.ator h d a sp)
  | 5 => .ok (.atxch h d a sp)
  | 6 => .ok (.atcas h d a sp)
  | _ => .error .function

/-- The 32-bit class (Tables 10.2 and 10.3). -/
def decode32 (w : Word32) : Except DecodeError Instr :=
  let h0 : Hdr := ⟨idleOf w, false⟩
  let d := fld w 12 5
  let a := fld w 17 5
  let sp := fld w 22 5
  let imm10 := fld w 22 10
  let off := fld w 17 15
  match opOf w with
  | 0x01 => decodeAlu w
  | 0x02 => decodeUnary w
  | 0x03 => .ok (.addi h0 d a imm10)
  | 0x04 => .ok (.andi h0 d a imm10)
  | 0x05 => .ok (.ori h0 d a imm10)
  | 0x06 => .ok (.xori h0 d a imm10)
  | 0x07 => .ok (.shli (hdrOf w (fld w 28 4)) d a (fld w 22 6))
  | 0x08 => .ok (.shri (hdrOf w (fld w 28 4)) d a (fld w 22 6))
  | 0x09 => .ok (.shai (hdrOf w (fld w 28 4)) d a (fld w 22 6))
  | 0x0B => .ok (.ld (hdrOf w (fld w 30 2)) d a sp (fld w 27 3))
  | 0x0C => .ok (.st (hdrOf w (fld w 30 2)) d a sp (fld w 27 3))
  | 0x0D => decodeAtomic w
  | 0x10 => .ok (.b (hdrOf w d) off)
  | 0x11 => .ok (.bz h0 d off)
  | 0x12 => .ok (.bnz h0 d off)
  | 0x13 => .ok (.call h0 d off)
  | 0x14 => .ok (.ret (hdrOf w (fld w 12 20)))
  | 0x15 =>
    if fld w 16 1 = 0 then .ok (.prepLabel (hdrOf w (fld w 14 2)) (fld w 12 2) off)
    else .ok (.prepRegister (hdrOf w (fld w 22 10 ++ fld w 14 2)) (fld w 12 2) a)
  | 0x16 => .ok (.jp (hdrOf w (fld w 19 13 ++ d)) (fld w 17 2))
  | 0x17 => .ok (.loop h0 d off)
  | 0x18 => .ok (.boput (hdrOf w (fld w 24 8 ++ d)) a (fld w 22 2))
  | 0x19 => .ok (.boget (hdrOf w d) off)
  | 0x20 => .ok (.idle (hdrOf w d) off)
  | 0x21 => .ok (.realign (hdrOf w (fld w 12 20)))
  | 0x22 => .ok (.stamp (hdrOf w (fld w 19 13)) d (fld w 17 2))
  | 0x23 => .ok (.tkput (hdrOf w (fld w 25 7 ++ d)) (fld w 17 4) (fld w 21 4))
  | 0x24 => .ok (.tkget (hdrOf w (fld w 25 7 ++ d)) (fld w 17 4) (fld w 21 4))
  | 0x25 => .ok (.mark (hdrOf w d) off)
  | 0x26 => .ok (.fence (hdrOf w (fld w 22 10 ++ d)) (fld w 19 3) (fld w 17 2))
  | 0x27 => .ok (.evpop (hdrOf w off) d)
  | 0x28 => .ok (.evwait (hdrOf w (fld w 12 20)))
  | 0x29 => .ok (.sput (hdrOf w (fld w 22 10 ++ d)) a)
  | 0x2A => .ok (.sget (hdrOf w off) d)
  | 0x2B => .ok (.bbinit (hdrOf w (fld w 22 10 ++ d)) a)
  | 0x2C => .ok (.bbwait (hdrOf w (fld w 22 10 ++ d)) a)
  | 0x2D => .ok (.bbtest (hdrOf w (fld w 22 10)) d a)
  | 0x2E => .ok (.binrst (hdrOf w (fld w 21 11 ++ d)) (fld w 17 4))
  | 0x2F => .ok (.binfill (hdrOf w (fld w 24 8)) d (fld w 17 4) (fld w 21 3))
  | 0x30 => .ok (.binpass (hdrOf w (fld w 21 11 ++ d)) (fld w 17 4))
  | 0x31 => .ok (.binend (hdrOf w (fld w 21 11 ++ d)) (fld w 17 4))
  | 0x32 => .ok (.hinv (hdrOf w (fld w 22 10 ++ d)) a)
  | 0x33 => .ok (.hqry (hdrOf w (fld w 22 10)) d a)
  | 0x34 => .ok (.phend (hdrOf w (fld w 20 12 ++ d)) (fld w 17 3))
  | 0x35 => .ok (.segend (hdrOf w (fld w 25 7 ++ d)) (fld w 17 8))
  | 0x36 => .ok (.cask (hdrOf w (fld w 18 14)) d (fld w 17 1))
  | 0x37 => .ok (.trap (hdrOf w d) off)
  | 0x38 => .ok (.crd (hdrOf w (fld w 29 3)) d (fld w 17 12))
  | 0x39 => .ok (.cwr (hdrOf w (fld w 29 3)) d (fld w 17 12))
  | 0x3A => .ok (.halt (hdrOf w (fld w 12 20)))
  | 0x3B => .ok (.nop (hdrOf w (fld w 12 20)))
  | 0x3C => .ok (.brk (hdrOf w d) off)
  | 0x3D => .ok (.nslice (hdrOf w (fld w 25 7)) d (fld w 17 3) (fld w 20 5))
  | _ => .error .opcode

/-- COLL by KIND (Table 18.9): ELEM and ROP are must-be-zero outside kinds 0 and 1. -/
def decodeColl (w imm : Word32) : Except DecodeError Instr :=
  let d := fld w 12 5
  let a := fld w 17 5
  let rel := fld w 30 1
  let h01 := hdrOf w (fld w 31 1 ++ d)
  let h := hdrOf w (fld w 31 1 ++ fld w 26 4 ++ d)
  match (fld w 22 4).toNat with
  | 0 => .ok (.collAllred h01 a rel (fld w 26 2) (fld w 28 2) imm)
  | 1 => .ok (.collReduce h01 a rel (fld w 26 2) (fld w 28 2) imm)
  | 2 => .ok (.collBcast h a rel imm)
  | 3 => .ok (.collGather h a rel imm)
  | 4 => .ok (.collA2a h a rel imm)
  | 5 => .ok (.collCombine h a rel imm)
  | 6 => .ok (.collSync h a rel imm)
  | _ => .error .function

/-- The 64-bit class (R263). -/
def decode64 (w imm : Word32) : Except DecodeError Instr :=
  let d := fld w 12 5
  let a := fld w 17 5
  let fn := fld w 22 10
  match opOf w with
  | 0x01 => .ok (.li (hdrOf w (fn ++ a)) d imm)
  | 0x02 => .ok (.lih (hdrOf w fn) d a imm)
  | 0x03 => .ok (.xlate (hdrOf w fn) d a imm)
  | 0x04 => .ok (.bindef (hdrOf w (fn ++ a)) d imm)
  | 0x05 => .ok (.phase (hdrOf w fn) d a imm)
  | 0x06 => .ok (.nest (hdrOf w (fn ++ d)) a imm)
  | 0x07 => decodeColl w imm
  | 0x08 => .ok (.rowg (hdrOf w (fn ++ d)) a imm)
  | 0x09 => .ok (.rows (hdrOf w (fn ++ d)) a imm)
  | 0x0A => .ok (.rowsa (hdrOf w (fn ++ d)) a imm)
  | 0x0B => .ok (.bbexp (hdrOf w (fn ++ d)) a imm)
  | _ => .error .opcode

/-- The fields of a vector word (Table 10.5). -/
def vecOf (p0 p1 p2 : Word32) : VecWord where
  idle := idleOf p0
  dst := fld p0 12 6
  sa := fld p0 18 6
  sb := fld p0 24 6
  sc := fld p1 0 6
  stra := fld p1 6 3
  strb := fld p1 9 3
  strc := fld p1 12 3
  ty := fld p1 15 4
  rnd := fld p1 19 2
  sat := fld p1 21 1
  mask := fld p1 22 3
  fn := fld p1 25 7
  imm := p2
  top := fld p0 30 2

/-- The fields of a transfer word (R267). -/
def xferOf (p0 p1 p2 : Word32) : XferWord where
  idle := idleOf p0
  a := fld p0 12 5
  b := fld p0 17 5
  c := fld p0 22 5
  q := fld p0 27 5
  off := fld p1 0 21
  fn := fld p1 21 11
  imm := p2

/-- The 96-bit class (Tables 10.7 and 10.8). -/
def decode96 (p0 p1 p2 : Word32) : Except DecodeError Instr :=
  let v := vecOf p0 p1 p2
  let t := xferOf p0 p1 p2
  match opOf p0 with
  | 0x01 => .ok (.vadd v)
  | 0x02 => .ok (.vsub v)
  | 0x03 => .ok (.vmul v)
  | 0x04 => .ok (.vfma v)
  | 0x05 => .ok (.vfms v)
  | 0x06 => .ok (.vfnma v)
  | 0x07 => .ok (.vmin v)
  | 0x08 => .ok (.vmax v)
  | 0x09 => .ok (.vabs v)
  | 0x0A => .ok (.vneg v)
  | 0x0B => .ok (.vrcp v)
  | 0x0C => .ok (.vrsq v)
  | 0x0D => .ok (.vsqrt v)
  | 0x0E => .ok (.vdiv v)
  | 0x0F => .ok (.vexp2 v)
  | 0x10 => .ok (.vlog2 v)
  | 0x11 => .ok (.viadd v)
  | 0x12 => .ok (.visub v)
  | 0x13 => .ok (.vimul v)
  | 0x14 => .ok (.vimulh v)
  | 0x15 => .ok (.vimac v)
  | 0x16 => .ok (.vand v)
  | 0x17 => .ok (.vor v)
  | 0x18 => .ok (.vxor v)
  | 0x19 => .ok (.vandn v)
  | 0x1A => .ok (.vshl v)
  | 0x1B => .ok (.vshr v)
  | 0x1C => .ok (.vsha v)
  | 0x1D => .ok (.vimin v)
  | 0x1E => .ok (.vimax v)
  | 0x1F => .ok (.vclmul v)
  | 0x20 => .ok (.vpopc v)
  | 0x21 => .ok (.vcmp v)
  | 0x22 => .ok (.vsel v)
  | 0x23 => .ok (.vmsk v)
  | 0x24 => .ok (.vcvt v)
  | 0x25 => .ok (.vqnt v)
  | 0x26 => .ok (.vpack v)
  | 0x27 => .ok (.vunpk v)
  | 0x28 => .ok (.vred v)
  | 0x29 => .ok (.vperm v)
  | 0x2A => .ok (.vshuf v)
  | 0x2B => .ok (.vbcast v)
  | 0x2C => .ok (.vslide v)
  | 0x2D => .ok (.viota v)
  | 0x2E => .ok (.vmov v)
  | 0x2F => .ok (.vxs v)
  | 0x30 => .ok (.trd v)
  | 0x31 => .ok (.twr v)
  | 0x32 => .ok (.tzero v)
  | 0x33 => .ok (.topkc v)
  | 0x40 => .ok (.vld t)
  | 0x41 => .ok (.vst t)
  | 0x42 => .ok (.copy t)
  | 0x43 => .ok (.obld t)
  | 0x44 => .ok (.route t)
  | _ => .error .opcode

/-- The fields of a matrix word (Table 10.9). -/
def matOf (p0 p1 p2 p3 p4 p5 : Word32) : MatWord where
  idle := idleOf p0
  acc := fld p0 12 3
  asrc := fld p0 15 2
  asel := fld p0 17 5
  bsrc := fld p0 22 2
  bsel := fld p0 24 5
  top0 := fld p0 29 3
  p1 := p1
  p2 := p2
  p3 := p3
  stamp := p4
  bound := fld p5 0 20
  top5 := fld p5 20 12

/-- The 192-bit class (R268). -/
def decode192 (p0 p1 p2 p3 p4 p5 : Word32) : Except DecodeError Instr :=
  let m := matOf p0 p1 p2 p3 p4 p5
  match opOf p0 with
  | 0x01 => .ok (.mma m)
  | 0x02 => .ok (.mmap m)
  | 0x03 => .ok (.mret m)
  | 0x04 => .ok (.mdrain m)
  | _ => .error .opcode

/-- The instruction word whose parcels begin the list, by its length class (Table 10.1). -/
def decode (ps : List Word32) : Except DecodeError Instr :=
  match ps with
  | [] => .error .short
  | p0 :: rest =>
    match lenOf p0, rest with
    | 0, _ => decode32 p0
    | 1, p1 :: _ => decode64 p0 p1
    | 2, p1 :: p2 :: _ => decode96 p0 p1 p2
    | 3, p1 :: p2 :: p3 :: p4 :: p5 :: _ => decode192 p0 p1 p2 p3 p4 p5
    | _, _ => .error .short

/-- A pattern word (Table 7.8): OP, IDLE and must-be-zero bits outside their layout are refused (R196). -/
def decodePattern (w : Word32) : Except DecodeError Instr :=
  let g := fld w 12 3
  if fld w 0 5 ≠ 0 then .error .layout
  else
    match opOf w with
    | 0x01 => if fld w 24 8 = 0 then .ok (.pdim g (fld w 15 4) (fld w 19 4) (fld w 23 1)) else .error .layout
    | 0x02 => if fld w 27 5 = 0 then .ok (.pband g (fld w 15 11) (fld w 26 1)) else .error .layout
    | 0x03 => .ok (.pdil g (fld w 15 11) (fld w 26 6))
    | 0x04 => if fld w 26 6 = 0 then .ok (.pblk g (fld w 15 11)) else .error .layout
    | 0x05 => if fld w 21 11 = 0 then .ok (.pkron g (fld w 15 3) (fld w 18 3)) else .error .layout
    | 0x06 => .ok (.phash g (fld w 15 11) (fld w 26 6))
    | 0x07 => if fld w 25 7 = 0 then .ok (.pemit g (fld w 15 10)) else .error .layout
    | 0x08 => if fld w 15 17 = 0 then .ok (.pinv g) else .error .layout
    | 0x09 => if fld w 15 17 = 0 then .ok (.pend g) else .error .layout
    | _ => .error .opcode

/-- A channel word (Tables 5.2, 5.3 and 18.14): fields a word does not use are refused unless zero (R128, R129). -/
def decodeChannel (w : Word64) : Except DecodeError Instr :=
  let m := fld w 26 1
  let bank := fld w 22 4
  let delta := fld w 12 10
  let row := fld w 32 16
  let col := fld w 48 4
  let core := fld w 52 9
  let slot := fld w 61 3
  let p1 := fld w 32 32
  let ok (b : Bool) (i : Instr) : Except DecodeError Instr := if b then .ok i else .error .layout
  if fld w 0 2 ≠ 1 ∨ fld w 2 3 ≠ 0 ∨ fld w 27 5 ≠ 0 then .error .layout
  else
    match (fld w 5 7).toNat with
    | 0x01 => ok (m = 0 && fld w 48 16 = 0) (.dact delta bank row)
    | 0x02 =>
      if m = 0 then ok (p1 = 0) (.dpre delta bank) else ok (p1 = 0 && bank = 0) (.dpreAll delta)
    | 0x03 => ok (m = 0) (.drd delta bank row col core slot)
    | 0x04 => ok (m = 0) (.dwr delta bank row col core slot)
    | 0x05 => if m = 0 then ok (p1 = 0 && bank = 0) (.dref delta) else ok (p1 = 0) (.drefPb delta bank)
    | 0x06 => if m = 0 then ok (p1 = 0 && bank = 0) (.dnop delta) else ok (p1 = 0 && bank = 0) (.dnopEnd delta)
    | 0x07 => ok (m = 0 && bank = 0 && fld w 32 29 = 0) (.dind delta slot)
    | 0x08 => ok (m = 0 && bank = 0 && delta = 0 && fld w 59 5 = 0) (.dloop (fld w 48 11) (fld w 32 16))
    | _ => .error .opcode

/-- The parcels of a byte string, each little-endian (R7). -/
def parcelsOfBytes : List Byte → List Word32
  | b0 :: b1 :: b2 :: b3 :: rest => (b3 ++ b2 ++ b1 ++ b0) :: parcelsOfBytes rest
  | _ => []

/-- n bytes of w, lowest first (R7). -/
def bytesOfNat (n w : Nat) : List Byte := (List.range n).map fun i => BitVec.ofNat 8 (w >>> (8 * i))

/-- The bytes of the word whose bits below `nbits` are w, with every bit above zero, as the hardware stores them. -/
def tableBytes (nbits w : Nat) : List Byte := bytesOfNat 24 (w % 2 ^ nbits)

/-- The instruction the decoder reads from a word of the table's numbering. -/
def decodeTableWord (nbits w : Nat) : Option Instr :=
  match decode (parcelsOfBytes (tableBytes nbits w)) with
  | .ok i => some i
  | .error _ => none

/-! ### The encoder -/

/-- F3 (Table 10.2). -/
def encF3 (op : BitVec 7) (fn b a d : BitVec 5) (h : Hdr) : List Word32 := [fn ++ b ++ a ++ d ++ op ++ h.idle ++ 0b00#2]

/-- FI (Table 10.2). -/
def encFI (op : BitVec 7) (imm : BitVec 10) (a d : BitVec 5) (h : Hdr) : List Word32 :=
  [imm ++ a ++ d ++ op ++ h.idle ++ 0b00#2]

/-- FB and FS (Table 10.2). -/
def encFB (op : BitVec 7) (off : BitVec 15) (a : BitVec 5) (h : Hdr) : List Word32 := [off ++ a ++ op ++ h.idle ++ 0b00#2]

/-- M (Table 10.2). -/
def encM (op : BitVec 7) (sz : BitVec 3) (sp a d : BitVec 5) (h : Hdr) : List Word32 :=
  [0b00#2 ++ sz ++ sp ++ a ++ d ++ op ++ h.idle ++ 0b00#2]

/-- A 64-bit word (R263). -/
def enc64 (op : BitVec 7) (fn : BitVec 10) (a d : BitVec 5) (imm : Word32) (h : Hdr) : List Word32 :=
  [fn ++ a ++ d ++ op ++ h.idle ++ 0b01#2, imm]

/-- COLL (Table 18.9). -/
def encColl (kind : BitVec 4) (rel : BitVec 1) (rop elem : BitVec 2) (a : BitVec 5) (stamp : Word32) (h : Hdr) :
    List Word32 :=
  [0b0#1 ++ rel ++ rop ++ elem ++ kind ++ a ++ 0#5 ++ 0x07#7 ++ h.idle ++ 0b01#2, stamp]

/-- A vector word (Table 10.5). -/
def encVec (op : BitVec 7) (w : VecWord) : List Word32 :=
  [w.top ++ w.sb ++ w.sa ++ w.dst ++ op ++ w.idle ++ 0b10#2,
   w.fn ++ w.mask ++ w.sat ++ w.rnd ++ w.ty ++ w.strc ++ w.strb ++ w.stra ++ w.sc, w.imm]

/-- A transfer word (R267). -/
def encXfer (op : BitVec 7) (w : XferWord) : List Word32 :=
  [w.q ++ w.c ++ w.b ++ w.a ++ op ++ w.idle ++ 0b10#2, w.fn ++ w.off, w.imm]

/-- A matrix word (Table 10.9). -/
def encMat (op : BitVec 7) (w : MatWord) : List Word32 :=
  [w.top0 ++ w.bsel ++ w.bsrc ++ w.asel ++ w.asrc ++ w.acc ++ op ++ w.idle ++ 0b11#2, w.p1, w.p2, w.p3, w.stamp,
   w.top5 ++ w.bound]

/-- A pattern word (R192). -/
def encPat (op : BitVec 7) (imm : BitVec 17) (g : BitVec 3) : List Word32 := [imm ++ g ++ op ++ 0#5]

/-- A channel word (Table 5.2). -/
def encChan (op : BitVec 7) (m : BitVec 1) (bank : BitVec 4) (delta : BitVec 10) (p1 : Word32) : List Word32 :=
  [0#5 ++ m ++ bank ++ delta ++ op ++ 0#3 ++ 0b01#2, p1]

/-- The parcels of an instruction, pattern or channel word; a device step has none. -/
def encode : Instr → List Word32
  | .add h d a b => encF3 0x01#7 0#5 b a d h
  | .sub h d a b => encF3 0x01#7 1#5 b a d h
  | .mul h d a b => encF3 0x01#7 2#5 b a d h
  | .mulh h d a b => encF3 0x01#7 3#5 b a d h
  | .mulhn h d a b => encF3 0x01#7 4#5 b a d h
  | .div h d a b => encF3 0x01#7 5#5 b a d h
  | .divn h d a b => encF3 0x01#7 6#5 b a d h
  | .rem h d a b => encF3 0x01#7 7#5 b a d h
  | .remn h d a b => encF3 0x01#7 8#5 b a d h
  | .and h d a b => encF3 0x01#7 9#5 b a d h
  | .andn h d a b => encF3 0x01#7 10#5 b a d h
  | .or h d a b => encF3 0x01#7 11#5 b a d h
  | .xor h d a b => encF3 0x01#7 12#5 b a d h
  | .shl h d a b => encF3 0x01#7 13#5 b a d h
  | .shr h d a b => encF3 0x01#7 14#5 b a d h
  | .sha h d a b => encF3 0x01#7 15#5 b a d h
  | .rot h d a b => encF3 0x01#7 16#5 b a d h
  | .min h d a b => encF3 0x01#7 17#5 b a d h
  | .minn h d a b => encF3 0x01#7 18#5 b a d h
  | .max h d a b => encF3 0x01#7 19#5 b a d h
  | .maxn h d a b => encF3 0x01#7 20#5 b a d h
  | .cmpeq h d a b => encF3 0x01#7 21#5 b a d h
  | .cmpne h d a b => encF3 0x01#7 22#5 b a d h
  | .cmplt h d a b => encF3 0x01#7 23#5 b a d h
  | .cmpltn h d a b => encF3 0x01#7 24#5 b a d h
  | .cmple h d a b => encF3 0x01#7 25#5 b a d h
  | .cmplen h d a b => encF3 0x01#7 26#5 b a d h
  | .sel h d a b => encF3 0x01#7 27#5 b a d h
  | .clz h d a => encF3 0x02#7 0#5 0#5 a d h
  | .ctz h d a => encF3 0x02#7 1#5 0#5 a d h
  | .popc h d a => encF3 0x02#7 2#5 0#5 a d h
  | .sext h d a w => encF3 0x02#7 3#5 w a d h
  | .zext h d a w => encF3 0x02#7 4#5 w a d h
  | .addi h d a imm => encFI 3#7 imm a d h
  | .andi h d a imm => encFI 4#7 imm a d h
  | .ori h d a imm => encFI 5#7 imm a d h
  | .xori h d a imm => encFI 6#7 imm a d h
  | .shli h d a n => encFI 7#7 (0#4 ++ n) a d h
  | .shri h d a n => encFI 8#7 (0#4 ++ n) a d h
  | .shai h d a n => encFI 9#7 (0#4 ++ n) a d h
  | .ld h d a sp sz => encM 0x0B#7 sz sp a d h
  | .st h d a sp sz => encM 0x0C#7 sz sp a d h
  | .atadd h d a sp => encM 0x0D#7 0#3 sp a d h
  | .atmin h d a sp => encM 0x0D#7 1#3 sp a d h
  | .atmax h d a sp => encM 0x0D#7 2#3 sp a d h
  | .atand h d a sp => encM 0x0D#7 3#3 sp a d h
  | .ator h d a sp => encM 0x0D#7 4#3 sp a d h
  | .atxch h d a sp => encM 0x0D#7 5#3 sp a d h
  | .atcas h d a sp => encM 0x0D#7 6#3 sp a d h
  | .b h off => encFB 0x10#7 off 0#5 h
  | .bz h a off => encFB 0x11#7 off a h
  | .bnz h a off => encFB 0x12#7 off a h
  | .call h a off => encFB 0x13#7 off a h
  | .ret h => encFB 0x14#7 0#15 0#5 h
  | .prepLabel h jt off => encFB 0x15#7 off (0b000#3 ++ jt) h
  | .prepRegister h jt r => encFB 0x15#7 (0#10 ++ r) (0b100#3 ++ jt) h
  | .jp h jt => encFB 0x16#7 (0#13 ++ jt) 0#5 h
  | .loop h a off => encFB 0x17#7 off a h
  | .boput h a q => encFI 0x18#7 (0#8 ++ q) a 0#5 h
  | .boget h off => encFB 0x19#7 off 0#5 h
  | .idle h n => encFB 0x20#7 n 0#5 h
  | .realign h => encFB 0x21#7 0#15 0#5 h
  | .stamp h d sel => encFB 0x22#7 (0#13 ++ sel) d h
  | .tkput h q n => encFB 0x23#7 (0#7 ++ n ++ q) 0#5 h
  | .tkget h q n => encFB 0x24#7 (0#7 ++ n ++ q) 0#5 h
  | .mark h n => encFB 0x25#7 n 0#5 h
  | .fence h sc k => encFB 0x26#7 (0#10 ++ sc ++ k) 0#5 h
  | .evpop h d => encFB 0x27#7 0#15 d h
  | .evwait h => encFB 0x28#7 0#15 0#5 h
  | .sput h a => encF3 0x29#7 0#5 0#5 a 0#5 h
  | .sget h d => encFB 0x2A#7 0#15 d h
  | .bbinit h a => encF3 0x2B#7 0#5 0#5 a 0#5 h
  | .bbwait h a => encF3 0x2C#7 0#5 0#5 a 0#5 h
  | .bbtest h d a => encF3 0x2D#7 0#5 0#5 a d h
  | .binrst h n => encFB 0x2E#7 (0#11 ++ n) 0#5 h
  | .binfill h d n sel => encFB 0x2F#7 (0#8 ++ sel ++ n) d h
  | .binpass h n => encFB 0x30#7 (0#11 ++ n) 0#5 h
  | .binend h n => encFB 0x31#7 (0#11 ++ n) 0#5 h
  | .hinv h n => encFB 0x32#7 (0#10 ++ n) 0#5 h
  | .hqry h d n => encFB 0x33#7 (0#10 ++ n) d h
  | .phend h c => encFB 0x34#7 (0#12 ++ c) 0#5 h
  | .segend h mask => encFB 0x35#7 (0#7 ++ mask) 0#5 h
  | .cask h d sel => encFB 0x36#7 (0#14 ++ sel) d h
  | .trap h n => encFB 0x37#7 n 0#5 h
  | .crd h d cr => encFB 0x38#7 (0#3 ++ cr) d h
  | .cwr h d cr => encFB 0x39#7 (0#3 ++ cr) d h
  | .halt h => encFB 0x3A#7 0#15 0#5 h
  | .nop h => encFB 0x3B#7 0#15 0#5 h
  | .brk h n => encFB 0x3C#7 n 0#5 h
  | .nslice h d sel r => encFB 0x3D#7 (0#7 ++ r ++ sel) d h
  | .li h d imm => enc64 0x01#7 0#10 0#5 d imm h
  | .lih h d a imm => enc64 0x02#7 0#10 a d imm h
  | .xlate h d a imm => enc64 0x03#7 0#10 a d imm h
  | .bindef h n imm => enc64 0x04#7 0#10 0#5 n imm h
  | .phase h c a imm => enc64 0x05#7 0#10 a c imm h
  | .nest h a imm => enc64 0x06#7 0#10 a 0#5 imm h
  | .collAllred h a rel e r st => encColl 0#4 rel r e a st h
  | .collReduce h a rel e r st => encColl 1#4 rel r e a st h
  | .collBcast h a rel st => encColl 2#4 rel 0#2 0#2 a st h
  | .collGather h a rel st => encColl 3#4 rel 0#2 0#2 a st h
  | .collA2a h a rel st => encColl 4#4 rel 0#2 0#2 a st h
  | .collCombine h a rel st => encColl 5#4 rel 0#2 0#2 a st h
  | .collSync h a rel st => encColl 6#4 rel 0#2 0#2 a st h
  | .rowg h a imm => enc64 0x08#7 0#10 a 0#5 imm h
  | .rows h a imm => enc64 0x09#7 0#10 a 0#5 imm h
  | .rowsa h a imm => enc64 0x0A#7 0#10 a 0#5 imm h
  | .bbexp h a imm => enc64 0x0B#7 0#10 a 0#5 imm h
  | .vadd w => encVec 0x01#7 w
  | .vsub w => encVec 0x02#7 w
  | .vmul w => encVec 0x03#7 w
  | .vfma w => encVec 0x04#7 w
  | .vfms w => encVec 0x05#7 w
  | .vfnma w => encVec 0x06#7 w
  | .vmin w => encVec 0x07#7 w
  | .vmax w => encVec 0x08#7 w
  | .vabs w => encVec 0x09#7 w
  | .vneg w => encVec 0x0A#7 w
  | .vrcp w => encVec 0x0B#7 w
  | .vrsq w => encVec 0x0C#7 w
  | .vsqrt w => encVec 0x0D#7 w
  | .vdiv w => encVec 0x0E#7 w
  | .vexp2 w => encVec 0x0F#7 w
  | .vlog2 w => encVec 0x10#7 w
  | .viadd w => encVec 0x11#7 w
  | .visub w => encVec 0x12#7 w
  | .vimul w => encVec 0x13#7 w
  | .vimulh w => encVec 0x14#7 w
  | .vimac w => encVec 0x15#7 w
  | .vand w => encVec 0x16#7 w
  | .vor w => encVec 0x17#7 w
  | .vxor w => encVec 0x18#7 w
  | .vandn w => encVec 0x19#7 w
  | .vshl w => encVec 0x1A#7 w
  | .vshr w => encVec 0x1B#7 w
  | .vsha w => encVec 0x1C#7 w
  | .vimin w => encVec 0x1D#7 w
  | .vimax w => encVec 0x1E#7 w
  | .vclmul w => encVec 0x1F#7 w
  | .vpopc w => encVec 0x20#7 w
  | .vcmp w => encVec 0x21#7 w
  | .vsel w => encVec 0x22#7 w
  | .vmsk w => encVec 0x23#7 w
  | .vcvt w => encVec 0x24#7 w
  | .vqnt w => encVec 0x25#7 w
  | .vpack w => encVec 0x26#7 w
  | .vunpk w => encVec 0x27#7 w
  | .vred w => encVec 0x28#7 w
  | .vperm w => encVec 0x29#7 w
  | .vshuf w => encVec 0x2A#7 w
  | .vbcast w => encVec 0x2B#7 w
  | .vslide w => encVec 0x2C#7 w
  | .viota w => encVec 0x2D#7 w
  | .vmov w => encVec 0x2E#7 w
  | .vxs w => encVec 0x2F#7 w
  | .trd w => encVec 0x30#7 w
  | .twr w => encVec 0x31#7 w
  | .tzero w => encVec 0x32#7 w
  | .topkc w => encVec 0x33#7 w
  | .vld w => encXfer 0x40#7 w
  | .vst w => encXfer 0x41#7 w
  | .copy w => encXfer 0x42#7 w
  | .obld w => encXfer 0x43#7 w
  | .route w => encXfer 0x44#7 w
  | .mma w => encMat 0x01#7 w
  | .mmap w => encMat 0x02#7 w
  | .mret w => encMat 0x03#7 w
  | .mdrain w => encMat 0x04#7 w
  | .pdim g pr pc o => encPat 0x01#7 (0#8 ++ o ++ pc ++ pr) g
  | .pband g w wrap => encPat 0x02#7 (0#5 ++ wrap ++ w) g
  | .pdil g off st => encPat 0x03#7 (st ++ off) g
  | .pblk g b => encPat 0x04#7 (0#6 ++ b) g
  | .pkron g a b => encPat 0x05#7 (0#11 ++ b ++ a) g
  | .phash g n seed => encPat 0x06#7 (seed ++ n) g
  | .pemit g r => encPat 0x07#7 (0#7 ++ r) g
  | .pinv g => encPat 0x08#7 0#17 g
  | .pend g => encPat 0x09#7 0#17 g
  | .dact d b r => encChan 0x01#7 0#1 b d (0#16 ++ r)
  | .dpre d b => encChan 0x02#7 0#1 b d 0#32
  | .dpreAll d => encChan 0x02#7 1#1 0#4 d 0#32
  | .drd d b r c q s => encChan 0x03#7 0#1 b d (s ++ q ++ c ++ r)
  | .dwr d b r c q s => encChan 0x04#7 0#1 b d (s ++ q ++ c ++ r)
  | .dref d => encChan 0x05#7 0#1 0#4 d 0#32
  | .drefPb d b => encChan 0x05#7 1#1 b d 0#32
  | .dnop d => encChan 0x06#7 0#1 0#4 d 0#32
  | .dnopEnd d => encChan 0x06#7 1#1 0#4 d 0#32
  | .dind d s => encChan 0x07#7 0#1 0#4 d (s ++ 0#29)
  | .dloop w r => encChan 0x08#7 0#1 0#4 0#10 (0#5 ++ w ++ r)
  | _ => []

end Sys2Proof
end

