-- ==== Sys2Proof/Machine/Control.lean ====
section
/-!
DEFINITION. Control flow and the stream words: fetching, branches, calls, prepared jumps, loops, branch outcomes, idle waits,
REALIGN, STAMP, tokens, MARK, FENCE, SEGEND, HALT, TRAP, NOP, BRK (02_timing.md, R212 to R217, R343, R354 to R357, R382, R385 to
R387, R391, R392, R404, R411, R413, R420, R424, R427, R430).
-/

namespace Sys2Proof.Machine

open Sys2Proof

/-! ### Fetch (R22, R255, R256) -/

/-- The parcels from position p of a stream's code that lie in the filled range of its instruction store. -/
def fetchFrom (c : Core) (q : Seq) (p : Nat) : List Word32 :=
  match c.istore.find? (fun e => e.1 = q) with
  | some (_, base, ps) => if base ≤ p then (ps.drop (p - base)).take 6 else []
  | none => []

/-- The first missing parcel of the word at position p, if any: its index from the word's parcel 0 (R256). -/
def missingParcel (ps : List Word32) : Option Nat :=
  match ps with
  | [] => some 0
  | w :: _ => if ps.length < parcelsOf w then some ps.length else none

/-- Whether a decode failure is one of acceptance: the opcode is assigned in its class and the sequencer does not accept it
(R257 steps 2 and 3, Tables 10.1 and 10.3). Only reserved function codes of C's, L's and S's words reach this. -/
def rejectCause (q : Seq) (w : Word32) : Nat :=
  let op := opOf w
  match lenOf w with
  | 0 =>
    if op = 0x01 ∨ op = 0x02 then (if q = .x then 0x02 else 0x01)
    else if op = 0x0D then (if q = .c then 0x01 else 0x02)
    else 0x01
  | 1 => if op = 0x07 ∧ q ≠ .c then 0x02 else 0x01
  | _ => 0x01

/-- The instruction word at a stream's position, where it can be fetched and decoded. -/
def wordAt (c : Core) (q : Seq) : Option Instr :=
  match decode (fetchFrom c q (streamOf c q).pc) with
  | .ok i => some i
  | .error _ => none

/-- The cycle in which a stream's word is ready: its base plus its idle count (R37); a word that cannot be fetched has no idle
count. -/
def readyCycle (c : Core) (q : Seq) : Nat :=
  (streamOf c q).base + ((fetchFrom c q (streamOf c q).pc).head?.map fun w => (idleOf w).toNat).getD 0

/-- Whether a stream's word is to be tried in a cycle: ready, not held back, not ended, the core not stopped (R37, R41, R248). -/
def streamDue (c : Core) (q : Seq) (cyc : Nat) : Bool :=
  !(streamOf c q).ended && decide ((streamOf c q).hold ≤ cyc) && decide (readyCycle c q ≤ cyc) &&
    (match c.stopAt with | some t => decide (cyc < t) | none => true)

/-! ### Branches -/

/-- The turn's parcel index. -/
def pcHere (s : State) : Nat := (streamOf (getCore s s.turn.core) s.turn.q).pc

/-- A parcel offset from p, modulo 2^32 (R259). -/
def branchTo (p : Nat) (off : BitVec 15) : Nat := lowBits 32 (p + off.toInt)

/-- A control word with no register of its own, whose flow is given. -/
def flowPlan (accepts : List Seq) (mbz : Bool) (act : State → Except Raise (State × Flow)) : WordPlan :=
  WordPlan.plain 1 accepts mbz false [] [] act

/-- B (R343). -/
def execB (h : Hdr) (off : BitVec 15) (s : State) : Out :=
  issueWord (flowPlan cls h.mbz fun s => .ok (s, .jump (branchTo (pcHere s) off) 1 true)) s

/-- A branch on a static register (R343, R56). -/
def condPlan (h : Hdr) (a : Reg) (off : BitVec 15) (taken : Word64 → Bool) (s : State) : WordPlan :=
  WordPlan.plain 1 cls h.mbz (regBad s.turn.q [a]) [destHere s a] [] fun s =>
    if !(regHere s a).static then .error (Raise.of 0x14)
    else if taken (regHere s a).val then .ok (s, .jump (branchTo (pcHere s) off) 1 true)
    else .ok (goOn s)

/-- BZ (R343). -/
def execBz (h : Hdr) (a : Reg) (off : BitVec 15) (s : State) : Out := issueWord (condPlan h a off (fun v => decide (v = 0)) s) s
/-- BNZ (R343). -/
def execBnz (h : Hdr) (a : Reg) (off : BitVec 15) (s : State) : Out := issueWord (condPlan h a off (fun v => decide (v ≠ 0)) s) s

/-- CALL (R357): to a label or through a static register, p + 1 in s31. -/
def execCall (h : Hdr) (a : Reg) (off : BitVec 15) (s : State) : Out :=
  issueWord (WordPlan.plain 1 [.c] h.mbz false [destHere s a] [(.reg .c 31, 1)] fun s =>
    if !(regHere s a).static then .error (Raise.of 0x14)
    else
      let p := pcHere s
      let t := if a = 0 then branchTo p off else branchTo ((regHere s a).val.toNat) off
      .ok (flyReg s 31 1 (BitVec.ofNat 64 (p + 1)) true, .jump t 1 false)) s

/-- RET (R413). -/
def execRet (h : Hdr) (s : State) : Out :=
  issueWord (WordPlan.plain 1 [.c] h.mbz false [.reg .c 31] [] fun s =>
    if !(regHere s 31).static then .error (Raise.of 0x14)
    else .ok (s, .jump ((regHere s 31).val.toNat % 2 ^ 32) 1 false)) s

/-- The state with a jump target put in flight (R60). -/
def flyJt (s : State) (j : BitVec 2) (v : Nat) : State :=
  updCore s s.turn.core fun c => fly c s.turn.q s.cyc (.jt s.turn.q j.toNat) 1 (.word (BitVec.ofNat 64 v) true)

/-- PREP with a label (R386, MODE 0). -/
def execPrepLabel (h : Hdr) (j : BitVec 2) (off : BitVec 15) (s : State) : Out :=
  issueWord (WordPlan.plain 1 cls h.mbz false [] [(.jt s.turn.q j.toNat, 1)] fun s =>
    .ok (goOn (flyJt s j (branchTo (pcHere s) off)))) s

/-- PREP with a register (R386, MODE 1). -/
def execPrepRegister (h : Hdr) (j : BitVec 2) (r : Reg) (s : State) : Out :=
  issueWord (WordPlan.plain 1 cls h.mbz (regBad s.turn.q [r]) [destHere s r] [(.jt s.turn.q j.toNat, 1)] fun s =>
    if !(regHere s r).static then .error (Raise.of 0x14)
    else .ok (goOn (flyJt s j ((regHere s r).val.toNat % 2 ^ 32)))) s

/-- JP (R387): no bubble. -/
def execJp (h : Hdr) (j : BitVec 2) (s : State) : Out :=
  issueWord (WordPlan.plain 1 cls h.mbz false [.jt s.turn.q j.toNat] [] fun s =>
    .ok (s, .jump (readJt (getCore s s.turn.core) s.turn.q j.toNat).toNat 0 true)) s

/-- The length in parcels of the word at a position; 1 where nothing is filled. -/
def lenAt (c : Core) (q : Seq) (p : Nat) : Nat :=
  match fetchFrom c q p with
  | w :: _ => parcelsOf w
  | [] => 1

/-- LOOP (R391, R61). -/
def execLoop (h : Hdr) (a : Reg) (off : BitVec 15) (s : State) : Out :=
  issueWord (WordPlan.plain 1 cls h.mbz (regBad s.turn.q [a] || decide (off.toInt ≤ 0)) [destHere s a] [] fun s =>
    let v := regHere s a
    let c := getCore s s.turn.core
    let st := streamOf c s.turn.q
    let n := v.val.toNat % 2 ^ 32
    let last := branchTo st.pc off
    let s1 := warnHereIf (decide (v.val.toNat ≠ n)) warnMod s
    if !v.static then .error (Raise.of 0x14)
    else if n = 0 then .ok (s1, .jump (last + lenAt c s.turn.q last) 1 false)
    else if 4 ≤ st.loops.length then .error (Raise.of 0x01)
    else
      .ok (goOn (updCore s1 s.turn.core fun c =>
        setStream c s.turn.q { streamOf c s.turn.q with loops := ⟨st.pc + 1, last, n⟩ :: st.loops }))) s

/-! ### Branch outcomes (R62, R354) -/

/-- The branch-outcome queue of a sequencer. -/
def boqOf (c : Core) : Seq → Queue Bool
  | .l => c.boqL
  | .x => c.boqX
  | .s => c.boqS
  | .c => Queue.zero

/-- A core with a sequencer's branch-outcome queue replaced. -/
def setBoq (c : Core) (q : Seq) (b : Queue Bool) : Core :=
  match q with
  | .l => { c with boqL := b }
  | .x => { c with boqX := b }
  | .s => { c with boqS := b }
  | .c => c

/-- The sequencer that BOPUT's queue code names (R262). -/
def boqSeq (q : BitVec 2) : Seq := if q = 0 then .l else if q = 1 then .x else .s

/-- The number of a sequencer's branch-outcome queue among the queues. -/
def boqNo (q : Seq) : Nat := if q = .l then 4 else if q = .x then 5 else 6

/-- BOPUT (R354). -/
def execBoput (h : Hdr) (a : Reg) (q : BitVec 2) (s : State) : Out :=
  issueWord { WordPlan.plain 1 [.c] h.mbz (decide (q = 3)) [destHere s a] [] (fun s =>
    if !(regHere s a).static then .error (Raise.of 0x14)
    else
      .ok (goOn (updCore s s.turn.core fun c =>
        setBoq c (boqSeq q) (pushQ (boqOf c (boqSeq q)) (decide ((regHere s a).val ≠ 0)) s.cyc)))) with
    stall := fun s =>
      let b := boqOf (getCore s s.turn.core) (boqSeq q)
      waitIf (!roomFor b 16 1 s.cyc) (pushOf (boqNo (boqSeq q)) b) } s

/-- BOGET (R354). -/
def execBoget (h : Hdr) (off : BitVec 15) (s : State) : Out :=
  issueWord { flowPlan [.l, .x, .s] h.mbz (fun s =>
    let b := boqOf (getCore s s.turn.core) s.turn.q
    let s1 := updCore s s.turn.core fun c => setBoq c s.turn.q (popQ (boqOf c s.turn.q) s.cyc)
    if (headOf b s.cyc).getD false then .ok (s1, .jump (branchTo (pcHere s) off) 1 true) else .ok (goOn s1)) with
    stall := fun s =>
      let b := boqOf (getCore s s.turn.core) s.turn.q
      waitIf (headOf b s.cyc).isNone (popOf (boqNo s.turn.q) b) } s

/-! ### Waits and time -/

/-- Every sequencer. -/
def clxs : List Seq := [.c, .l, .x, .s]

/-- IDLE (R39, R385). -/
def execIdle (h : Hdr) (n : BitVec 15) (s : State) : Out :=
  issueWord (flowPlan clxs h.mbz fun s => .ok (s, .on (s.cyc + 1 + n.toNat) false)) s

/-- The tick exponent of the launch a core runs (R15). -/
def tickLog2Of (s : State) (p : Nat) : Nat :=
  match runningOn s p with
  | some (_, l, _) => l.tick
  | none => 10

/-- The first tick cycle after a cycle (R15, R45). -/
def nextTick (log2 cyc : Nat) : Nat := (cyc / 2 ^ log2 + 1) * 2 ^ log2

/-- REALIGN (R45, R411). -/
def execRealign (h : Hdr) (s : State) : Out :=
  issueWord (flowPlan clxs h.mbz fun s =>
    .ok (resetSlip s, .on (nextTick (tickLog2Of s s.turn.core) s.cyc) true)) s

/-- DTIME at the entry of the segment a core runs (R424). -/
def dentryOf (s : State) (p : Nat) : Nat :=
  match runningOn s p with
  | some (_, _, r) => r.dentry
  | none => 0

/-- The value STAMP selects (R424). -/
def stampValue (s : State) (sel : BitVec 2) : Nat :=
  if sel = 0 then s.cyc
  else if sel = 1 then entryOf s s.turn.core
  else if sel = 2 then s.dtime
  else dentryOf s s.turn.core

/-- STAMP (R424). -/
def execStamp (h : Hdr) (d : Reg) (sel : BitVec 2) (s : State) : Out :=
  issueWord (WordPlan.plain 1 cls h.mbz (regBad s.turn.q [d]) [] [(destHere s d, 1)] fun s =>
    .ok (goOn (flyReg s d 1 (BitVec.ofNat 64 (stampValue s sel)) true))) s

/-! ### Tokens (R262, R427) -/

/-- The sequencer that puts on a token queue (R262). -/
def tokenFrom (q : Nat) : Seq := if q < 3 then .c else if q < 6 then .l else if q < 9 then .x else .s

/-- The sequencer that takes from a token queue (R262). -/
def tokenTo (q : Nat) : Seq :=
  match q with
  | 0 => .l | 1 => .x | 2 => .s
  | 3 => .c | 4 => .x | 5 => .s
  | 6 => .c | 7 => .l | 8 => .s
  | 9 => .c | 10 => .l | _ => .x

/-- The sequencers that may issue a token word: one per queue; a reserved code is a selecting field's failure. -/
def tokenSeqs (q : BitVec 4) (f : Nat → Seq) : List Seq := if q.toNat < 12 then [f q.toNat] else clxs

/-- TKPUT (R427). -/
def execTkput (h : Hdr) (q n : BitVec 4) (s : State) : Out :=
  issueWord { WordPlan.plain 1 (tokenSeqs q tokenFrom) h.mbz (decide (12 ≤ q.toNat) || decide (n = 0)) [] [] (fun s =>
    .ok (goOn (updCore s s.turn.core fun c =>
      { c with tokens := smSet Token.zero c.tokens q.toNat (putToken (getToken c q.toNat) n.toNat s.cyc) }))) with
    stall := fun s => waitIf (!tokensRoom (getToken (getCore s s.turn.core) q.toNat) n.toNat s.cyc) (.token q.toNat) } s

/-- The third case of the hazard detector: more tokens than were ever put, and the putting stream has ended (R67). -/
def tokenHazard (s : State) (q n : Nat) : Bool :=
  match runningOn s s.turn.core with
  | some (_, l, _) =>
    let c := getCore s s.turn.core
    l.haz && decide ((getToken c q).count < n) && (streamOf c (tokenFrom q)).ended
  | none => false

/-- TKGET (R427, R67). -/
def execTkget (h : Hdr) (q n : BitVec 4) (s : State) : Out :=
  issueWord { WordPlan.plain 1 (tokenSeqs q tokenTo) h.mbz (decide (12 ≤ q.toNat) || decide (n = 0)) [] [] (fun s =>
    if tokenHazard s q.toNat n.toNat then .error (Raise.of 0x12)
    else
      .ok (goOn (updCore s s.turn.core fun c =>
        { c with tokens := smSet Token.zero c.tokens q.toNat (takeToken (getToken c q.toNat) n.toNat s.cyc) }))) with
    stall := fun s =>
      waitIf (decide (tokensReady (getToken (getCore s s.turn.core) q.toNat) s.cyc < n.toNat) && !tokenHazard s q.toNat n.toNat)
        (.token q.toNat) } s

/-! ### MARK and FENCE -/

/-- The MARKs a stream has issued, as cycle and number. -/
def marksOf (c : Core) (q : Seq) : List (Nat × Nat) := if q = .l then c.markL else c.markS

/-- A core with one more MARK of a stream. -/
def addMark (c : Core) (q : Seq) (m : Nat × Nat) : Core :=
  if q = .l then { c with markL := c.markL ++ [m] } else { c with markS := c.markS ++ [m] }

/-- L and S are partners (R212). -/
def markPartner (q : Seq) : Seq := if q = .l then .s else .l

/-- Whether the word at a stream's position is a MARK that is due in the cycle (R213). -/
def markDue (c : Core) (q : Seq) (cyc : Nat) : Bool :=
  streamDue c q cyc && (match wordAt c q with | some (.mark _ _) => true | _ => false)

/-- MARK (R212, R213): it waits for its partner's MARK of the same count, or issues with it in one cycle. -/
def execMark (h : Hdr) (n : BitVec 15) (s : State) : Out :=
  issueWord { flowPlan [.l, .s] h.mbz (fun s =>
    let c := getCore s s.turn.core
    let k := (marksOf c s.turn.q).length
    let other := (marksOf c (markPartner s.turn.q))[k]?
    let s1 := warnHereIf (other.any fun m => decide (m.2 ≠ n.toNat)) warnOrd s
    .ok (goOn (updCore s1 s.turn.core fun c => addMark c s.turn.q (s.cyc, n.toNat)))) with
    stall := fun s =>
      let c := getCore s s.turn.core
      let k := (marksOf c s.turn.q).length
      let p := markPartner s.turn.q
      waitIf (decide ((marksOf c p).length ≤ k) && !(decide ((marksOf c p).length = k) && s.turn.q = .l && markDue c p s.cyc))
        (.mark k) } s

/-- The scope a FENCE acts at: 5 to 7 act as sys (Table 8.5). -/
def fenceScope (sc : BitVec 3) : Nat := if sc.toNat < 5 then sc.toNat else 4

/-- FENCE (R216): a release at dom or sys divides the commit buffer at its number; an acquire holds reads that the copy engine
and the row engine, which run one command at a time in issue order, hold already; core, die and pkg change no order. -/
def execFence (h : Hdr) (sc : BitVec 3) (k : BitVec 2) (s : State) : Out :=
  issueWord (flowPlan cls h.mbz fun s =>
    let s1 := warnHereIf (decide (5 ≤ sc.toNat) || decide (k = 3)) warnOrd s
    if k ≠ 1 ∧ 3 ≤ fenceScope sc then
      .ok (goOn (updCore (freshId s1).2 s.turn.core fun c => { c with fences := c.fences ++ [((freshId s1).1, fenceScope sc)] }))
    else .ok (goOn s1)) s

/-! ### The ends of a stream and of a run -/

/-- SEGEND (R420, R232): X's mask names the live tiles. -/
def execSegend (h : Hdr) (mask : BitVec 8) (s : State) : Out :=
  issueWord (flowPlan clxs h.mbz fun s =>
    if s.turn.q = .x then .ok (updCore s s.turn.core fun c => { c with live := mask.toNat }, .stop)
    else .ok (warnHereIf (decide (mask ≠ 0)) warnMbz s, .stop)) s

/-- HALT (R382). -/
def execHalt (h : Hdr) (s : State) : Out :=
  issueWord (flowPlan cls h.mbz fun s =>
    match (getCore s s.turn.core).launch with
    | some n => .ok (setLaunch s n { getLaunch s n with halt := true }, .stop)
    | none => .ok (s, .stop)) s

/-- TRAP (R430). -/
def execTrap (h : Hdr) (n : BitVec 15) (s : State) : Out :=
  issueWord (flowPlan cls h.mbz fun _ => .error { Raise.of 0x80 with user := n.toNat }) s

/-- NOP (R404). -/
def execNop (h : Hdr) (s : State) : Out := issueWord (flowPlan clxs h.mbz fun s => .ok (goOn s)) s

/-- The number of a sequencer in logs and records: C 0, L 1, X 2, S 3. -/
def seqNo (q : Seq) : Nat := partyNo (.seq q)

/-- BRK (R356): an entry of the world's fault log, at most 16 for a core and segment run; MSI-X vector 3 (R279). -/
def execBrk (h : Hdr) (n : BitVec 15) (s : State) : Out :=
  issueWord (flowPlan clxs h.mbz fun s =>
    match runningOn s s.turn.core with
    | none => .ok (goOn s)
    | some (_, l, r) =>
      let c := getCore s s.turn.core
      if c.brks < 16 then
        let e := [leNat (sliceBytes l.record 8 8), r.seg, c.lidx, seqNo s.turn.q, pcHere s, s.cyc, n.toNat]
        let s1 := updWorld s l.world fun w => { w with faultLog := w.faultLog ++ [e] }
        .ok (goOn (reply (updCore s1 s.turn.core fun c => { c with brks := c.brks + 1 }) 3 l.world []))
      else .ok (goOn (updWorld s l.world fun w => { w with faultOver := w.faultOver + 1 }))) s

/-- A word whose opcode or function code is not assigned (R257, R260). -/
def execReservedOpcode (w : Word32) (s : State) : Out := .next (raiseHere s (Raise.of (rejectCause s.turn.q w)))

/-- The image byte offset of a parcel of the turn's stream (R256): its code region's offset plus four bytes a parcel. -/
def imageAddr (s : State) (p : Nat) : Nat :=
  match runningOn s s.turn.core with
  | some (_, l, _) => leField l.image (20 + 8 * seqNo s.turn.q) 4 + 4 * p
  | none => 4 * p

/-- A word with a parcel outside the filled range (R256): FIRST is its parcel 0, FADDR the first missing one. -/
def execFetchFault (missing : Nat) (s : State) : Out :=
  .next (raiseHere s (Raise.at_ 0x03 (imageAddr s (pcHere s)) (imageAddr s (pcHere s + missing))))

end Sys2Proof.Machine
end

