-- ==== Sys2Proof/Machine/ScalarMem.lean ====
section
/-!
DEFINITION. C's scalar accesses and the byte-barrier words: LD, ST, the atomics, BBINIT, BBEXP, BBWAIT, BBTEST (R340 to R349, R388,
R389, R31, R57).
-/

namespace Sys2Proof.Machine

open Sys2Proof

/-- Where a scalar access goes: the own scratchpad, control memory, or another core's scratchpad. -/
inductive ScalarTarget where
  | own (a : Nat)
  | ctl (a : Nat)
  | die (core a : Nat)
  deriving DecidableEq, Repr

/-- The address checks of a scalar access of `size` bytes (R340, R388): its low bits are dropped. -/
def scalarTarget (s : State) (space : BitVec 5) (a : Word64) (size : Nat) : Except Raise ScalarTarget :=
  let v := a.toNat
  let al := v / size * size
  let bad (cause : Nat) : Except Raise ScalarTarget := .error (Raise.at_ cause v v)
  if space = 31 then (if v < 2 ^ 21 then .ok (.own al) else bad 0x21)
  else if space = 30 then (if v < 2 ^ 16 then .ok (.ctl al) else bad 0x21)
  else if 2 ^ 30 ≤ v then bad 0x21
  else if lcountOf s s.turn.core ≤ v / 2 ^ 21 then bad 0x23
  else if v / 2 ^ 21 = (getCore s s.turn.core).lidx then .ok (.own (al % 2 ^ 21))
  else .ok (.die (physOf s s.turn.core (v / 2 ^ 21)) (al % 2 ^ 21))

/-- The bytes of a size code: 1, 1, 2, 2, 4, 4, 8 (R389). -/
def szBytes (sz : BitVec 3) : Nat := 2 ^ (sz.toNat / 2)

/-- The word an LD writes from the bytes read: sign-extended for i8, i16 and i32 (R389). -/
def ldWord (size : Nat) (sx : Bool) (bs : List Byte) : Word64 :=
  if sx then BitVec.ofInt 64 (signed (8 * size) (leNat bs)) else BitVec.ofNat 64 (leNat bs)

/-- Whether a size code sign-extends (R389). -/
def szSigned (sz : BitVec 3) : Bool := sz = 0 || sz = 2 || sz = 4

/-- A class 5 access of C on its own scratchpad (R74); a failure names the address. -/
def class5 (s : State) (rd wr : Bool) (a n : Nat) : Bool :=
  phaseOk (getCore s s.turn.core) 5 s.cyc rd wr a n

/-- The state with C's scalar access of the cycle noted, which completes 8 cycles later (R208, R410). -/
def noteScalar (s : State) : State := updCore s s.turn.core fun c => { c with lastScalar := max c.lastScalar (s.cyc + 8) }

/-- The latency of a die access: 72 on the same die, 200 otherwise (Table 2.3). -/
def dieLatency (p q : Nat) : Nat := if dieOf p = dieOf q then 72 else 200

/-- The state with a line sent to another core's inbound port in the running cycle (R204). -/
def sendInbound (s : State) (target : Nat) (r : InReq) : State :=
  updCore s target fun c => { c with inbound := c.inbound ++ [r] }

/-- The state with a die LD or atomic under way: its request at the port, its result awaited (R204, R388). -/
def sendAwaited (s : State) (target : Nat) (d : Reg) (kind : InKind) (a : Nat) : State :=
  let p := s.turn.core
  let id := (freshId s).1
  let s1 := sendInbound (freshId s).2 target ⟨id, s.cyc, p, (getCore s p).lidx, .seq .c, kind, a, [], 0⟩
  updCore s1 p fun c =>
    { c with flight := c.flight ++
        [⟨.c, .reg .c d.toNat, streamCycle c .c s.cyc + dieLatency p target, .word 0 false, some id, 0, s.cyc⟩] }

/-- Whether SPACE is reserved (R259). -/
def spaceBad (space : BitVec 5) : Bool := decide (space.toNat < 29)

/-- The result of an LD or atomic at an address, with its latency (Table 2.3), for the hazard detector; none where the access raises. -/
def memWrites (s : State) (d : Reg) (space : BitVec 5) (a : Word64) (size : Nat) : List (Dest × Nat) :=
  match scalarTarget s space a size with
  | .error _ => []
  | .ok (.own _) => [(destHere s d, 6)]
  | .ok (.ctl _) => [(destHere s d, 3)]
  | .ok (.die t _) => [(destHere s d, dieLatency s.turn.core t)]

/-- The effect of LD (R388, R389). -/
def loadAct (d a : Reg) (space : BitVec 5) (sz : BitVec 3) (s : State) : Except Raise (State × Flow) :=
  let size := szBytes sz
  let av := (regHere s a).val
  let s0 := warnHereIf (decide (av.toNat % size ≠ 0)) warnMod s
  let c := getCore s s.turn.core
  match scalarTarget s space av size with
  | .error r => .error r
  | .ok (.own x) =>
    if class5 s true false x size then
      .ok (goOn (noteScalar (flyReg s0 d 6 (ldWord size (szSigned sz) (spadRead c s.turn.core (.seq .c) s.cyc x size)) false)))
    else .error (Raise.at_ 0x26 x x)
  | .ok (.ctl x) => .ok (goOn (flyReg s0 d 3 (ldWord size (szSigned sz) (memRead c.ctl x size)) false))
  | .ok (.die t x) => .ok (goOn (sendAwaited s0 t d (.load size (szSigned sz)) x))

/-- LD (R388, R389). -/
def execLd (h : Hdr) (d a : Reg) (space : BitVec 5) (sz : BitVec 3) (s : State) : Out :=
  issueWord (WordPlan.plain 1 [.c] h.mbz (spaceBad space || decide (sz = 7)) [destHere s a]
    (memWrites s d space (regHere s a).val (szBytes sz)) (loadAct d a space sz)) s

/-- A core with bytes stored to its control memory and the word's static bit set (R57, R389). -/
def ctlStore (c : Core) (x : Nat) (bs : List Byte) (static : Bool) : Core :=
  { c with ctl := memWrite c.ctl x bs, ctlTag := smSet true c.ctlTag (x / 8) static }

/-- The effect of ST (R388, R389). -/
def storeAct (d a : Reg) (space : BitVec 5) (sz : BitVec 3) (s : State) : Except Raise (State × Flow) :=
  let size := szBytes sz
  let av := (regHere s a).val
  let v := regHere s d
  let bs := leBytes size v.val.toNat
  let p := s.turn.core
  let c := getCore s p
  let s0 := warnHereIf (decide (av.toNat % size ≠ 0)) warnMod s
  match scalarTarget s space av size with
  | .error r => .error r
  | .ok (.own x) =>
    if class5 s false true x size then
      .ok (goOn (noteScalar (writeSpad s0 p p c.lidx (.seq .c) s.cyc x bs 0)))
    else .error (Raise.at_ 0x26 x x)
  | .ok (.ctl x) =>
    .ok (goOn (updCore s0 p fun c => ctlStore c x bs (if sz = 6 then v.static else ctlStatic c x && v.static)))
  | .ok (.die t x) =>
    .ok (goOn (sendInbound (freshId s0).2 t ⟨(freshId s0).1, s.cyc, p, c.lidx, .seq .c, .store, x, bs, 0⟩))

/-- ST (R388, R389). -/
def execSt (h : Hdr) (d a : Reg) (space : BitVec 5) (sz : BitVec 3) (s : State) : Out :=
  issueWord (WordPlan.plain 1 [.c] h.mbz (spaceBad space || decide (sz = 7)) [destHere s a, destHere s d] []
    (storeAct d a space sz)) s

/-! ### Atomics (R340 to R342) -/

/-- The new value of an atomic, or none where ATCAS fails (R341). -/
def atomicNew (fn : Nat) (old d swap : Word64) : Option Word64 :=
  match fn with
  | 0 => some (old + d)
  | 1 => some (if sgn d < sgn old then d else old)
  | 2 => some (if sgn old < sgn d then d else old)
  | 3 => some (old &&& d)
  | 4 => some (old ||| d)
  | 5 => some d
  | _ => if old = d then some swap else none

/-- A core's scratchpad after an atomic performed in the cycle by a party at a place, and the value read: at the location
itself, whatever party wrote it, the one just before the atomic's own in coherence order (R205, R207). -/
def atomicOn (c : Core) (place lidx : Nat) (p : Party) (cyc x fn : Nat) (d swap : Word64) : Core × Word64 :=
  let old := BitVec.ofNat 64 (leNat (spadBefore c cyc lidx x 8))
  match atomicNew fn old d swap with
  | some v => (spadWrite c ⟨cyc, place, lidx, p, x, leBytes 8 v.toNat, 0, 0, []⟩, old)
  | none => (c, old)

/-- The effect of an atomic (R340, R341). -/
def atomicAct (fn : Nat) (d a : Reg) (space : BitVec 5) (s : State) : Except Raise (State × Flow) :=
  let av := (regHere s a).val
  let dv := (regHere s d).val
  let swap := (readReg (getCore s s.turn.core) s.turn.q (d.toNat + 1)).val
  let p := s.turn.core
  let c := getCore s p
  let s0 := warnHereIf (decide (av.toNat % 8 ≠ 0)) warnMod s
  match scalarTarget s space av 8 with
  | .error r => .error r
  | .ok (.own x) =>
    if class5 s true true x 8 then
      let r := atomicOn (getCore s0 p) p c.lidx (.seq .c) s.cyc x fn dv swap
      .ok (goOn (noteScalar (flyReg (setCore s0 p r.1) d 6 r.2 false)))
    else .error (Raise.at_ 0x26 x x)
  | .ok (.ctl x) =>
    let old := memWord c.ctl x
    let s1 :=
      match atomicNew fn old dv swap with
      | some v => updCore s0 p fun c => ctlStore c x (leBytes 8 v.toNat) false
      | none => s0
    .ok (goOn (flyReg s1 d 3 old false))
  | .ok (.die t x) => .ok (goOn (sendAwaited s0 t d (.atomic fn dv swap) x))

/-- The plan of an atomic; ATCAS reads D + 1 and refuses D = 31. -/
def atomicPlan (h : Hdr) (fn : Nat) (d a : Reg) (space : BitVec 5) (s : State) : WordPlan :=
  WordPlan.plain 1 [.c] h.mbz (spaceBad space || (decide (fn = 6) && decide (d = 31)))
    ([destHere s a, destHere s d] ++ (if fn = 6 then [.reg s.turn.q (d.toNat + 1)] else []))
    (memWrites s d space (regHere s a).val 8) (atomicAct fn d a space)

/-- ATADD (R341). -/
def execAtadd (h : Hdr) (d a : Reg) (sp : BitVec 5) (s : State) : Out := issueWord (atomicPlan h 0 d a sp s) s
/-- ATMIN (R341). -/
def execAtmin (h : Hdr) (d a : Reg) (sp : BitVec 5) (s : State) : Out := issueWord (atomicPlan h 1 d a sp s) s
/-- ATMAX (R341). -/
def execAtmax (h : Hdr) (d a : Reg) (sp : BitVec 5) (s : State) : Out := issueWord (atomicPlan h 2 d a sp s) s
/-- ATAND (R341). -/
def execAtand (h : Hdr) (d a : Reg) (sp : BitVec 5) (s : State) : Out := issueWord (atomicPlan h 3 d a sp s) s
/-- ATOR (R341). -/
def execAtor (h : Hdr) (d a : Reg) (sp : BitVec 5) (s : State) : Out := issueWord (atomicPlan h 4 d a sp s) s
/-- ATXCH (R341). -/
def execAtxch (h : Hdr) (d a : Reg) (sp : BitVec 5) (s : State) : Out := issueWord (atomicPlan h 5 d a sp s) s
/-- ATCAS (R341). -/
def execAtcas (h : Hdr) (d a : Reg) (sp : BitVec 5) (s : State) : Out := issueWord (atomicPlan h 6 d a sp s) s

/-! ### Byte barriers (R344 to R349) -/

/-- The address check of a barrier word (R345): A[63:21] zero, and the class 5 rights over its eight bytes. -/
def barTarget (s : State) (a : Word64) (rd wr : Bool) : Except Raise Nat :=
  let x := a.toNat / 8 * 8
  if 2 ^ 21 ≤ a.toNat then .error (Raise.at_ 0x21 a.toNat a.toNat)
  else if class5 s rd wr x 8 then .ok x
  else .error (Raise.at_ 0x26 x x)

/-- The barrier word as the turn's sequencer sees it in the cycle: before the updates of the cycle (R347). -/
def barWord (s : State) (x : Nat) : Nat :=
  leNat (spadRead (getCore s s.turn.core) s.turn.core (.seq s.turn.q) s.cyc x 8)

/-- A barrier update by the turn's sequencer; its warnings are set with it, at the end of the cycle. -/
def barUpdate (s : State) (mbz : Bool) (a : Word64) (rank : Nat) (op : BarOp) : Except Raise (State × Flow) :=
  match barTarget s a false true with
  | .error r => .error r
  | .ok x =>
    let ws := (if mbz then [warnMbz] else []) ++ if a.toNat % 8 = 0 then [] else [warnMod]
    .ok (goOn (noteScalar (updCore s s.turn.core fun c =>
      addBar c ⟨rank, x, op, s.turn.q, ws, some (streamOf c s.turn.q)⟩)))

/-- BBINIT (R346). -/
def execBbinit (h : Hdr) (a : Reg) (s : State) : Out :=
  issueWord (WordPlan.plain 1 cls false (regBad s.turn.q [a]) [destHere s a] [] fun s =>
    barUpdate s h.mbz (regHere s a).val 0 .init) s

/-- BBEXP (R346): its overflow test reads PEND as the updates of the cycle before it leave it (R347). -/
def execBbexp (h : Hdr) (a : Reg) (imm : Word32) (s : State) : Out :=
  issueWord (WordPlan.plain 2 [.c] false (decide (2 ^ 27 ≤ imm.toNat)) [destHere s a] [] fun s =>
    barUpdate s h.mbz (regHere s a).val 1 (.expect imm.toNat)) s

/-- BBWAIT (R348): stalls while DONE is clear, then raises 0x70 where OVERRUN is set. -/
def execBbwait (h : Hdr) (a : Reg) (s : State) : Out :=
  issueWord { WordPlan.plain 1 cls h.mbz (regBad s.turn.q [a]) [destHere s a] [] (fun s =>
    match barTarget s (regHere s a).val true false with
    | .error r => .error r
    | .ok x =>
      if bitOf (barWord s x) 30 then .error (Raise.at_ 0x70 x x)
      else .ok (goOn (noteScalar (warnHereIf (decide ((regHere s a).val.toNat % 8 ≠ 0)) warnMod s)))) with
    stall := fun s =>
      match barTarget s (regHere s a).val true false with
      | .error _ => none
      | .ok x => waitIf (!bitOf (barWord s x) 29) (.barrier x) } s

/-- BBTEST (R348). -/
def execBbtest (h : Hdr) (d a : Reg) (s : State) : Out :=
  issueWord (WordPlan.plain 1 cls h.mbz (regBad s.turn.q [d, a]) [destHere s a] [(destHere s d, 2)] fun s =>
    match barTarget s (regHere s a).val true false with
    | .error r => .error r
    | .ok x =>
      .ok (goOn (noteScalar (flyReg (warnHereIf (decide ((regHere s a).val.toNat % 8 ≠ 0)) warnMod s) d 2
        (BitVec.ofNat 64 (barWord s x)) false)))) s

/-- The barrier updates of a cycle in the order of R347: by rank, then as posted. -/
def insertBar (u : BarUpd) : List BarUpd → List BarUpd
  | [] => [u]
  | x :: xs => if u.rank < x.rank then u :: x :: xs else x :: insertBar u xs

/-- One barrier update applied to core p at the end of the cycle; BBEXP's overflow raises 0x70, and the word performs none of its
effects (R346, R248). -/
def applyBar (p : Nat) (s : State) (u : BarUpd) : State :=
  let c := getCore s p
  match barStep (leNat (spadNow c s.cyc u.addr 8)) u.op with
  | some w => setCore s p (warnAll u.warns (spadWrite c ⟨s.cyc, p, 1024, .barrier, u.addr, leBytes 8 w, 0, 0, []⟩))
  | none => raiseOn (setCore s p (setStream c u.q { u.was.getD (streamOf c u.q) with hold := s.cyc + 1 })) p (.seq u.q) (Raise.at_ 0x70 u.addr u.addr)

/-- Core p's barrier updates of the cycle applied (R347). -/
def flushBars (s : State) (p : Nat) : State :=
  let us := (getCore s p).bars.foldl (fun acc u => insertBar u acc) []
  let s1 := us.foldl (applyBar p) s
  updCore s1 p fun c => { c with bars := [] }

end Sys2Proof.Machine
end

