-- ==== Sys2Proof/Machine/System.lean ====
section
/-!
DEFINITION. Control registers, casks, handles, phases, events, scalar queues and the nest unit, and the landings of results
(R269, R270, R358, R375, R381, R383, R384, R401 to R403, R409, R410, R423, R453, R48, R72 to R75).
-/

namespace Sys2Proof.Machine

open Sys2Proof

/-! ### Control registers (Table 10.10) -/

/-- The launch a core runs; the empty launch where none runs. -/
def launchOf (s : State) (p : Nat) : Launch :=
  match runningOn s p with
  | some (_, l, _) => l
  | none => Launch.zero

/-- The squares of which a logical index is a member, in ascending number. -/
def memberships (l : Launch) (i : Nat) : List Nat := (l.squares.filter fun e => e.2.contains i).map (·.1)

/-- SQMEM (Table 1.8, R34). -/
def sqmemWord (l : Launch) (i : Nat) : Word64 :=
  BitVec.ofNat 64 (((memberships l i).take 4).zipIdx.foldl (fun acc e => acc + (2 ^ 15 + e.1 % 256) * 2 ^ (16 * e.2)) 0)

/-- How a control register number may be used: not assigned, read-only, or read and write. -/
inductive CrAccess where
  | none
  | readOnly
  | readWrite
  deriving DecidableEq, Repr

/-- The access column of Table 10.10. -/
def crAccess (n : Nat) : CrAccess :=
  if n = 0x022 ∨ n = 0x025 then .readWrite
  else if n ≤ 0x004 ∨ (0x010 ≤ n ∧ n ≤ 0x025) ∨ (0x030 ≤ n ∧ n ≤ 0x034) then .readOnly
  else .none

/-- CRD's value and static bit (Table 10.10, R375). -/
def crdValue (s : State) (n : Nat) : SReg :=
  let p := s.turn.core
  let c := getCore s p
  let l := launchOf s p
  let st (v : Nat) : SReg := ⟨BitVec.ofNat 64 v, true⟩
  let dy (v : Word64) : SReg := ⟨v, false⟩
  if n = 0x000 then dy (BitVec.ofNat 64 p)
  else if n = 0x001 then st c.lidx
  else if n = 0x002 then st l.lcount
  else if n = 0x003 then st c.world
  else if n = 0x004 then ⟨sqmemWord l c.lidx, true⟩
  else if 0x010 ≤ n ∧ n ≤ 0x01F then ⟨l.lwords.getD (n - 0x010) 0, true⟩
  else if n = 0x020 then st l.tick
  else if n = 0x021 then dy (if l.haz then 1 else 0)
  else if n = 0x022 then dy c.snapWarn
  else if n = 0x023 then dy c.snapSlip
  else if n = 0x024 then st s.frameLog2
  else if n = 0x025 then dy (c.regs.livev.setWidth 64)
  else if 0x030 ≤ n ∧ n ≤ 0x034 then dy ((smGet 0 c.snapCsn (n - 0x030)).setWidth 64)
  else dy 0

/-- CRD (R375, R269). -/
def execCrd (h : Hdr) (d : Reg) (cr : BitVec 12) (s : State) : Out :=
  issueWord (WordPlan.plain 1 [.c] h.mbz false [] [(destHere s d, 2)] fun s =>
    let v := crdValue s cr.toNat
    .ok (goOn (flyReg (warnHereIf (decide (crAccess cr.toNat = .none)) warnCru s) d 2 v.val v.static))) s

/-- CWR (R375, R269). -/
def execCwr (h : Hdr) (d : Reg) (cr : BitVec 12) (s : State) : Out :=
  issueWord (WordPlan.plain 1 [.c] h.mbz false [destHere s d] [] fun s =>
    match crAccess cr.toNat with
    | .none => .ok (goOn (warnHere s warnCru))
    | .readOnly => .ok (goOn (warnHere s warnCrro))
    | .readWrite =>
      .ok (goOn (updCore s s.turn.core fun c =>
        fly c s.turn.q s.cyc (.cr cr.toNat) 1 (.word (regHere s d).val false)))) s

/-- An island's cask balance as a register value (R358). -/
def caskWord (s : State) (island : Nat) : Word64 := BitVec.ofInt 64 (signed 48 (lowBits 48 (smGet 0 s.casks island)))

/-- CASK (R358): selector 0 the core's matrix island, 1 its control-and-vector island. -/
def execCask (h : Hdr) (d : Reg) (sl : BitVec 1) (s : State) : Out :=
  issueWord (WordPlan.plain 1 [.c] h.mbz false [] [(destHere s d, 2)] fun s =>
    .ok (goOn (flyReg s d 2 (caskWord s (2 * s.turn.core + sl.toNat)) false))) s

/-! ### Handles (Tables 4.3 to 4.6) -/

/-- The bytes of a page size code (Table 4.2). -/
def pageBytes (z : Nat) : Nat :=
  2 ^ ([12, 14, 16, 18, 20, 21, 22, 24, 25, 26, 28, 29, 30, 32, 34, 36].getD z 12)

/-- A handle from its fields (Table 4.3). -/
def handleWord (pid : BitVec 12) (frame : BitVec 36) (cause world : Nat) (conf sealed_ w : Bool) (size : Nat)
    (valid : Bool) : Word64 :=
  let bit (b : Bool) : BitVec 1 := if b then 1 else 0
  pid ++ frame ++ BitVec.ofNat 2 cause ++ BitVec.ofNat 6 world ++ bit conf ++ bit sealed_ ++ bit w ++
    BitVec.ofNat 4 size ++ bit valid

/-- PID of a handle. -/
def hPid (h : Word64) : BitVec 12 := h.extractLsb' 52 12
/-- FRAME's space selector. -/
def hSpace (h : Word64) : Nat := (h.extractLsb' 50 2).toNat
/-- FRAME[49:16] as the byte address it stands for: bits [45:12] of a package or host address (Table 4.4). -/
def hAddr (h : Word64) : Nat := (h.extractLsb' 16 34).toNat * 4096
/-- The device number of a domain handle. -/
def hDevice (h : Word64) : Nat := (h.extractLsb' 40 10).toNat
/-- The device address of a domain handle: bits [39:16] (Table 4.4). -/
def hDevAddr (h : Word64) : Nat := (h.extractLsb' 16 24).toNat * 65536
/-- CAUSE. -/
def hCause (h : Word64) : Nat := (h.extractLsb' 14 2).toNat
/-- WORLD. -/
def hWorld (h : Word64) : Nat := (h.extractLsb' 8 6).toNat
/-- CONF. -/
def hConf (h : Word64) : Bool := h.getLsbD 7
/-- SEALED. -/
def hSealed (h : Word64) : Bool := h.getLsbD 6
/-- W. -/
def hWrite (h : Word64) : Bool := h.getLsbD 5
/-- The page size in bytes. -/
def hSize (h : Word64) : Nat := pageBytes (h.extractLsb' 1 4).toNat
/-- VALID. -/
def hValid (h : Word64) : Bool := h.getLsbD 0

/-- The translation that covers a virtual address (R102). -/
def lookupTrans (ts : List Trans) (va : Nat) : Option Trans :=
  ts.find? fun t => decide (t.va ≤ va) && decide (va < t.va + pageBytes t.size)

/-- Whether a translation's package-space page lies wholly in its world's carve-out (R101, Table 4.5). -/
def inCarveOut (w : World) (t : Trans) : Bool :=
  let a := (t.frame.setWidth 34).toNat * 4096
  decide (w.cbase ≤ a) && decide (a + pageBytes t.size ≤ w.cbase + w.csize)

/-- XLATE's outcome (Table 4.5): the handle to write, or none for 0x23. Of a handle with VALID = 0 it states CAUSE, and PID on a
miss; a revoked translation's handle carries its PID (R109); every other field is a free value (log 28). -/
def xlateOutcome (s : State) (va : Nat) : Option Word64 :=
  let c := getCore s s.turn.core
  let open_ := Config.undefinedHandle c.world (BitVec.ofNat 64 va)
  if 2 ^ 56 ≤ va then some (open_ &&& 0xFFFFFFFFFFFF3FFE#64)
  else
    match lookupTrans c.tcache va with
    | none => some ((open_ &&& 0x000FFFFFFFFF3FFE#64) ||| 0x4000#64)
    | some t =>
      if revokedOn c t.pid then some ((open_ &&& 0x000FFFFFFFFF3FFE#64) ||| 0x8000#64 ||| (t.pid.setWidth 64 <<< 52))
      else if (t.frame.extractLsb' 34 2 = 0) && !inCarveOut (getWorld s c.world) t then none
      else some (handleWord t.pid t.frame 0 c.world t.conf t.sealed_ t.w t.size true)

/-- XLATE (R453, R104). -/
def execXlate (h : Hdr) (d a : Reg) (imm : Word32) (s : State) : Out :=
  issueWord (WordPlan.plain 2 [.c] h.mbz false [destHere s a] [] fun s =>
    let va := (regHere s a).val + imm.signExtend 64
    let r := xlateOutcome s va.toNat
    .ok (goOn (updCore s s.turn.core fun c =>
      { c with xlate := c.xlate ++ [⟨d.toNat, s.cyc + 16, r.getD 0, r.isNone, va⟩] }))) s

/-- XLATE_LANDING (R453, R18): the handles due in the cycle are written; 0x23 is raised and leaves its register as it was. -/
def execXlateLanding (core : Nat) (s : State) : Out :=
  let c := getCore s core
  match c.xlate.find? (fun x => decide (x.due ≤ s.cyc)) with
  | none => .next s
  | some x =>
    let c1 : Core := { c with xlate := c.xlate.filter fun y => decide (s.cyc < y.due) }
    if x.outside then
      .next (raiseOn (setCore s core c1) core (.seq .c) (Raise.at_ 0x23 x.va.toNat x.va.toNat))
    else
      .next (setCore s core
        { c1 with regs := { c1.regs with h := smSet 0 c1.regs.h x.h x.val, hva := smSet 0 c1.regs.hva x.h x.va.toNat } })

/-- HINV (R383): the PID of a valid handle is revoked on this core with T = issue + 1. -/
def execHinv (h : Hdr) (n : Reg) (s : State) : Out :=
  issueWord (WordPlan.plain 1 [.c] h.mbz false [.h n.toNat] [] fun s =>
    let w := readHandle (getCore s s.turn.core) n.toNat
    if hValid w then
      .ok (goOn (updCore s s.turn.core fun c => { c with revoked := c.revoked ++ [(hPid w, s.cyc + 1)] }))
    else .ok (goOn s)) s

/-- HQRY (R384). -/
def execHqry (h : Hdr) (d n : Reg) (s : State) : Out :=
  issueWord (WordPlan.plain 1 [.c] h.mbz false [.h n.toNat] [(destHere s d, 4)] fun s =>
    .ok (goOn (flyReg s d 4 (readHandle (getCore s s.turn.core) n.toNat &&& 0xFFF000000000FFFF#64) false))) s

/-- REVOCATION_EFFECT (R109): a revocation whose cycle has come is in force on the core until the segment's end. -/
def execRevocationEffect (core : Nat) (pid : BitVec 12) (s : State) : Out :=
  .next (updCore s core fun c =>
    { c with revoked := c.revoked.map fun e => if e.1 = pid ∧ e.2 ≤ s.cyc then (pid, 0) else e })

/-- The use of a handle: checks 1 to 6 of Table 4.6 over [off, off + len), in order (R107). `space` is a required space, `operandB`
that the use is the B operand of a matrix word, `sealedCause` the cause of check 4. -/
def useHandle (s : State) (core h : Nat) (w : Word64) (off len : Nat) (space : Option Nat) (operandB : Bool)
    (sealedCause : Nat) (write : Bool) : Except Raise Unit :=
  let c := getCore s core
  if !hValid w && hCause w = 1 then .error (Raise.at_ 0x22 off (smGet 0 c.regs.hva h))
  else if !hValid w || hWorld w ≠ c.world || hSpace w = 3 then .error (Raise.at_ 0x20 off off)
  else if space.any (fun k => decide (k ≠ hSpace w)) then .error (Raise.at_ 0x20 off off)
  else if hSize w < off + len then .error (Raise.at_ 0x21 off off)
  else if hSealed w && !operandB then .error (Raise.at_ sealedCause off off)
  else if hSealed w && (getWorld s c.world).sealKey.isNone then .error (Raise.at_ 0x33 off off)
  else if write && !hWrite w then .error (Raise.at_ 0x24 off off)
  else .ok ()

/-! ### Descriptors in control memory -/

/-- The n words of an aligned descriptor at A + IMM32: A static (0x14), the offset in range (0x21), every word static (0x14);
the flag says that low offset bits were ignored (R401, R409, R417). -/
def ctlDescriptor (s : State) (a : Reg) (imm : Word32) (n : Nat) : Except Raise (List Word64 × Bool) :=
  let v := regHere s a
  let off := (v.val + imm.setWidth 64).toNat
  let al := off / (8 * n) * (8 * n)
  let c := getCore s s.turn.core
  if !v.static then .error (Raise.of 0x14)
  else if 2 ^ 16 < al + 8 * n then .error (Raise.at_ 0x21 off off)
  else if !ctlAllStatic c al n then .error (Raise.of 0x14)
  else .ok (ctlWords c al n, decide (off ≠ al))

/-! ### Phases -/

/-- The used entries of a phase descriptor (R72, Table 2.10). -/
def phaseRanges (ws : List Word64) : List PhRange :=
  (ws.map fun w => (⟨(w.extractLsb' 0 21).toNat, (w.extractLsb' 22 22).toNat, w.getLsbD 44, w.getLsbD 45⟩ : PhRange)).filter
    fun r => (r.read || r.write) && decide (r.len ≠ 0)

/-- Whether a nonzero must-be-zero bit stands in any entry (R72). -/
def phaseMbz (ws : List Word64) : Bool := ws.any fun w => decide (w &&& 0xFFFFC00000200000#64 ≠ 0)

/-- Whether two ranges overlap with a write among them (R73). -/
def phaseClash (x y : PhRange) : Bool :=
  (x.write || y.write) && decide (x.base < y.base + y.len) && decide (y.base < x.base + x.len)

/-- The sets open for the classes other than k (R73). -/
def openSets (c : Core) (k : Nat) : List (List PhRange) :=
  ([0, 1, 2, 3, 4, 5, 6].filter (· ≠ k)).filterMap fun j => (smGet ⟨none, 0, none⟩ c.phases j).now

/-- Whether every command of a class issued so far has completed (R410). -/
def classQuiet (s : State) (p k : Nat) : Bool :=
  let c := getCore s p
  if k = 0 then c.copyQ.isEmpty
  else if k = 1 then c.feedQ.isEmpty
  else if k = 2 then c.storeQ.isEmpty && decide (c.storeDone ≤ s.cyc)
  else if k = 3 then c.binQ.all fun b => decide (b.op = 5)
  else if k = 4 then (getRows s (p / 128)).all fun r => decide (r.core ≠ p)
  else if k = 5 then decide (c.lastScalar ≤ s.cyc)
  else true

/-- Whether a class has an open set. -/
def phaseOpen (c : Core) (k : Nat) : Bool := (smGet ⟨none, 0, none⟩ c.phases k).now.isSome

/-- A core with a class's set replaced from the next cycle on (R409). -/
def setPhase (c : Core) (k cyc : Nat) (p : Option (List PhRange)) : Core :=
  { c with phases := smSet ⟨none, 0, none⟩ c.phases k ⟨p, cyc + 1, phaseAt c k cyc⟩ }

/-- PHASE (R409, R72, R73). -/
def execPhase (h : Hdr) (k : BitVec 5) (a : Reg) (imm : Word32) (s : State) : Out :=
  issueWord { WordPlan.plain 2 [.c] false (decide (7 ≤ k.toNat)) [destHere s a] [] (fun s =>
    match ctlDescriptor s a imm 4 with
    | .error r => .error r
    | .ok (ws, low) =>
      let c := getCore s s.turn.core
      let rs := phaseRanges ws
      let fail (r : Raise) : State × Flow :=
        (raiseHere (setCore s s.turn.core (setPhase c k.toNat s.cyc none)) r, .trapped)
      match rs.find? (fun r => decide (2 ^ 21 < r.base + r.len)) with
      | some r => .ok (fail (Raise.at_ 0x26 r.base r.base))
      | none =>
        if (openSets c k.toNat).any (fun o => o.any fun x => rs.any (phaseClash x)) then .ok (fail (Raise.of 0x25))
        else
          .ok (goOn (warnHereIf (h.mbz || phaseMbz ws) warnMbz (warnHereIf low warnMod
            (setCore s s.turn.core (setPhase c k.toNat s.cyc (some rs))))))) with
    stall := fun s =>
      waitIf ((match ctlDescriptor s a imm 4 with | .ok _ => true | .error _ => false) &&
        phaseOpen (getCore s s.turn.core) k.toNat && !classQuiet s s.turn.core k.toNat) (.phase k.toNat) } s

/-- PHEND (R410). -/
def execPhend (h : Hdr) (k : BitVec 3) (s : State) : Out :=
  issueWord { WordPlan.plain 1 [.c] h.mbz (decide (k = 7)) [] [] (fun s =>
    if phaseOpen (getCore s s.turn.core) k.toNat then
      .ok (goOn (updCore s s.turn.core fun c =>
        { c with phases := smSet ⟨none, 0, none⟩ c.phases k.toNat ⟨none, s.cyc, none⟩ }))
    else .ok (goOn s)) with
    stall := fun s => waitIf (phaseOpen (getCore s s.turn.core) k.toNat && !classQuiet s s.turn.core k.toNat) (.phase k.toNat) } s

/-! ### Events and scalar queues -/

/-- The head event record that may be popped in the cycle. -/
def headEvent (s : State) (p : Nat) : Option Word64 :=
  match (getCore s p).regs.events with
  | (t, _, w) :: _ => if t < s.cyc then some w else none
  | [] => none

/-- EVPOP (R381). -/
def execEvpop (h : Hdr) (d : Reg) (s : State) : Out :=
  issueWord (WordPlan.plain 1 [.c] h.mbz false [] [(destHere s d, 2)] fun s =>
    match headEvent s s.turn.core with
    | none => .ok (goOn (flyReg s d 2 0 false))
    | some w =>
      .ok (goOn (flyReg (updCore s s.turn.core fun c =>
        { c with regs := { c.regs with events := c.regs.events.drop 1 }, evPop := s.cyc }) d 2 w false))) s

/-- EVWAIT (R381). -/
def execEvwait (h : Hdr) (s : State) : Out :=
  issueWord { WordPlan.plain 1 [.c] h.mbz false [] [] (fun s => .ok (goOn s)) with
    stall := fun s => waitIf (headEvent s s.turn.core).isNone .event } s

/-- SPUT (R423). -/
def execSput (h : Hdr) (a : Reg) (s : State) : Out :=
  issueWord { WordPlan.plain 1 [.c] h.mbz false [destHere s a] [] (fun s =>
    .ok (goOn (updCore s s.turn.core fun c => { c with cq := pushQ c.cq (regHere s a).val s.cyc }))) with
    stall := fun s =>
      let b := (getCore s s.turn.core).cq
      waitIf (!roomFor b 16 1 s.cyc) (pushOf 2 b) } s

/-- SGET (R423). -/
def execSget (h : Hdr) (d : Reg) (s : State) : Out :=
  issueWord { WordPlan.plain 1 [.c] h.mbz false [] [(destHere s d, 2)] (fun s =>
    let v := (headOf (getCore s s.turn.core).xq s.cyc).getD 0
    .ok (goOn (flyReg (updCore s s.turn.core fun c => { c with xq := popQ c.xq s.cyc }) d 2 v false))) with
    stall := fun s =>
      let b := (getCore s s.turn.core).xq
      waitIf (headOf b s.cyc).isNone (popOf 3 b) } s

/-! ### The nest unit -/

/-- The fields of 16 bits of a word, the lowest first. -/
def halves (w : Word64) : List Nat := (List.range 4).map fun i => (w.extractLsb' (16 * i) 16).toNat

/-- The nest state a descriptor gives on a core of rank i among n of its square, or none where a field check fails (R401,
R402). -/
def nestOf (ws : List Word64) (slice : Nat → Nat × Nat) : Option Nest :=
  let w0 := ws.getD 0 0
  let lv := (w0.extractLsb' 8 2).toNat + 1
  let perm := (List.range 4).map fun q => (w0.extractLsb' (10 + 2 * q) 2).toNat
  let ext := halves (ws.getD 1 0)
  let tile := halves (ws.getD 2 0)
  let used := ext.take lv
  let total := used.foldl (· * ·) 1
  if used.any (· = 0) || (ext.drop lv).any (· ≠ 0) then none
  else if !((perm.take lv).all fun l => decide (l < lv)) || !((List.range lv).all fun l => (perm.take lv).contains l) then none
  else if (perm.drop lv).any (· ≠ 0) then none
  else if w0.extractLsb' 18 46 ≠ 0 || ws.getD 3 0 ≠ 0 then none
  else if 2 ^ 32 < total then none
  else some ⟨(slice total).1, (slice total).2, total, perm.take lv, ext, tile⟩

/-- The slice of N iterations for a logical index in a square (R402, R63). -/
def sliceOf (members : List Nat) (i n : Nat) : Nat × Nat :=
  match members.findIdx? (· = i) with
  | none => (0, 0)
  | some r => (r * n / members.length, (r + 1) * n / members.length)

/-- NEST (R401, R402): the nest unit's state is written at issue + 4. -/
def execNest (h : Hdr) (a : Reg) (imm : Word32) (s : State) : Out :=
  issueWord (WordPlan.plain 2 [.c] h.mbz false [destHere s a] [] fun s =>
    match ctlDescriptor s a imm 4 with
    | .error r => .error r
    | .ok (ws, low) =>
      let c := getCore s s.turn.core
      let members := smGet [] (launchOf s s.turn.core).squares ((ws.getD 0 0).extractLsb' 0 8).toNat
      match nestOf ws (sliceOf members c.lidx) with
      | none => .error (Raise.of 0x01)
      | some n =>
        .ok (goOn (updCore (warnHereIf low warnMod s) s.turn.core fun c => fly c s.turn.q s.cyc .nest 4 (.nest n)))) s

/-- The coordinate of a level at an iteration (R403): positions are taken from the innermost outward. -/
def nestCoord (n : Nest) (level : Nat) : List Nat → Nat → Nat
  | [], _ => 0
  | l :: ls, i => if l = level then i % n.ext.getD l 1 else nestCoord n level ls (i / n.ext.getD l 1)

/-- The value NSLICE writes (R403). -/
def nsliceValue (n : Nest) (sl reg : Nat) : Nat :=
  if sl = 0 then n.lo
  else if sl = 1 then n.hi
  else if sl = 2 then n.hi - n.lo
  else if sl = 3 then n.total
  else
    let i := if n.total = 0 then 0 else reg % n.total
    if n.perm.contains (sl - 4) then nestCoord n (sl - 4) n.perm.reverse i * n.tile.getD (sl - 4) 0 else 0

/-- NSLICE (R403): a register field that SEL 0 to 3 do not use must be zero (R258). -/
def execNslice (h : Hdr) (d : Reg) (sl : BitVec 3) (r : Reg) (s : State) : Out :=
  let uses := decide (4 ≤ sl.toNat)
  issueWord (WordPlan.plain 1 [.c] (h.mbz || (!uses && decide (r ≠ 0))) false (if uses then [destHere s r] else [])
    [(destHere s d, 1)] fun s =>
      let v := nsliceValue (getCore s s.turn.core).nest sl.toNat (regHere s r).val.toNat
      .ok (goOn (flyReg s d 1 (BitVec.ofNat 64 v) (!uses || (regHere s r).static)))) s

/-! ### Results landing (R48) -/

/-- Whether a result in flight is due in its stream's cycle. -/
def landingDue (c : Core) (cyc : Nat) (f : Landing) : Bool := decide (f.due ≤ streamCycle c f.q cyc)

/-- Whether a result's value is there: a die access must have come back (R204). -/
def landingReady (cyc : Nat) (f : Landing) : Bool := f.awaits.isNone && decide (f.real ≤ cyc)

/-- Whether a result in flight of a sequencer is due and its value is not there: its stream stalls for it (Table 2.1, R388). -/
def lateHere (c : Core) (q : Seq) (cyc : Nat) (f : Landing) : Bool :=
  decide (f.q = q) && landingDue c cyc f && !landingReady cyc f

/-- Whether a result of a sequencer, with its place in issue order, lands in a cycle: it is due, its value is there, and no result for the
same register that should land before it is late (R48, R50). -/
def landsHere (c : Core) (q : Seq) (cyc : Nat) (x : Landing × Nat) : Bool :=
  decide (x.1.q = q) && landingDue c cyc x.1 && landingReady cyc x.1 &&
    !(c.flight.zipIdx.any fun y => lateHere c q cyc y.1 && decide (y.1.dest = x.1.dest) &&
      (decide (y.1.due < x.1.due) || (decide (y.1.due = x.1.due) && decide (y.2 < x.2))))

/-- Results in flight by landing cycle, then by issue. -/
def insertLanding (f : Landing) : List Landing → List Landing
  | [] => [f]
  | x :: xs => if f.due < x.due then f :: x :: xs else x :: insertLanding f xs

/-- The results of a sequencer that land in a cycle, in the order in which they land: by stream cycle, then in issue order (R50). -/
def landingNow (c : Core) (q : Seq) (cyc : Nat) : List Landing :=
  ((c.flight.zipIdx.filter (landsHere c q cyc)).map (·.1)).foldl (fun acc f => insertLanding f acc) []

/-- A core with every result of a sequencer that lands in the cycle landed (R48, R50). -/
def landDue (c : Core) (q : Seq) (cyc : Nat) : Core :=
  (landingNow c q cyc).foldl (fun c f => landInto c f.dest f.val)
    { c with flight := (c.flight.zipIdx.filter fun x => !landsHere c q cyc x).map (·.1) }

/-- The first result of a running stream that is due and has not come back (Table 2.1, R388). -/
def landingLate (c : Core) (q : Seq) (cyc : Nat) : Option Dest :=
  if (streamOf c q).ended then none else (c.flight.find? (lateHere c q cyc)).map (·.dest)

/-- A stream held one cycle for a result that has not come back: planned waits move with it, fixed cycles do not (R48, R45). -/
def lateStall (st : Stream) (cyc : Nat) (d : Dest) : Stream :=
  { st with hold := max st.hold (cyc + 1), stalls := st.stalls + 1, stallRun := stallCount st cyc true, stallAt := cyc,
            stallLate := true, awaits := .result d, slip := slipNext st.slip, base := if st.fixed then st.base else st.base + 1 }

/-- REGISTER_RESULT_LANDING (R48, R50, R204). -/
def execRegisterResultLanding (core : Nat) (q : Seq) (s : State) : Out :=
  let c := landDue (getCore s core) q s.cyc
  .next (setCore s core (match landingLate (getCore s core) q s.cyc with
    | some d => setStream c q (lateStall (streamOf c q) s.cyc d)
    | none => c))

/-- A register as the record of a stall names it: its file and its number (log 44). -/
def destWords : Dest → List Nat
  | .reg q r => [partyNo (.seq q), r]
  | .jt q r => [8 + partyNo (.seq q), r]
  | .v r => [16, r]
  | .m r => [17, r]
  | .h r => [18, r]
  | .cr n => [19, n]
  | .nest => [20, 0]
  | .none => [21, 0]

/-- What a stall waits for, as its record names it: the kind, then the number and the position (log 44). -/
def awaitWords : Await → List Nat
  | .nothing => [0, 0, 0]
  | .pop k n => [1, k, n]
  | .push k n => [2, k, n]
  | .token k => [3, k, 0]
  | .tile t => [4, t, 0]
  | .barrier a => [5, a, 0]
  | .event => [6, 0, 0]
  | .mark n => [7, n, 0]
  | .phase k => [8, k, 0]
  | .result d => 9 :: destWords d

/-- DETAIL of a stall's record: the sequencer, its issue position and what it waits for (R44); the order of the words is the model's
(log 44). -/
def stallDetail (q : Seq) (st : Stream) : List Nat := partyNo (.seq q) :: st.pc :: awaitWords st.awaits

/-- SLIP_ALLOWANCE_OVERRUN (R44): a single stall that has reached the segment's allowance raises 0x11, and the
record's DETAIL names its sequencer, its issue position and what it waits for. -/
def execSlipAllowanceOverrun (core : Nat) (q : Seq) (s : State) : Out :=
  match runningOn s core with
  | none => .next s
  | some (_, l, r) =>
    let c := getCore s core
    let a := ((l.segs[r.seg]?).map (·.slipa)).getD 0
    if decide (0 < (streamOf c q).stallRun) && decide (a ≤ (streamOf c q).stallRun) then
      .next (raiseOn (setCore s core (setStream c q { streamOf c q with stallRun := 0 })) core (.seq q)
        { Raise.of 0x11 with detail := stallDetail q (streamOf c q) })
    else .next s

end Sys2Proof.Machine
end

