-- ==== Sys2Proof/Machine/Bins.lean ====
section
/-!
DEFINITION. The bin unit: BINDEF, BINRST, BINFILL, BINPASS, BINEND and ROUTE (R146 to R161, R350 to R353, R415, R416).
-/

namespace Sys2Proof.Machine

open Sys2Proof

/-! ### Descriptors (Tables 6.1 and 6.2) -/

/-- An undefined bin. -/
def Bin.none : Bin := ⟨0, 0, 0, 0, 0, false, 0, []⟩

/-- Descriptor b. -/
def getBin (bs : SMap Bin) (b : Nat) : Bin := smGet Bin.none bs b

/-- The descriptors with one replaced. -/
def setBin (bs : SMap Bin) (b : Nat) (v : Bin) : SMap Bin := smSet Bin.none bs b v

/-- Whether a bin is defined. -/
def Bin.defined (b : Bin) : Bool := decide (b.word ≠ 0)
/-- BASE. -/
def Bin.base (b : Bin) : Nat := (b.word.extractLsb' 0 21).toNat
/-- Row bytes RB = 64 × ROWL. -/
def Bin.rb (b : Bin) : Nat := 64 * (b.word.extractLsb' 21 7).toNat
/-- CAPACITY. -/
def Bin.cap (b : Bin) : Nat := (b.word.extractLsb' 32 13).toNat
/-- RULE. -/
def Bin.rule (b : Bin) : Nat := (b.word.extractLsb' 45 2).toNat
/-- PARENT. -/
def Bin.parent (b : Bin) : Nat := (b.word.extractLsb' 47 4).toNat
/-- CARRYA. -/
def Bin.carryA (b : Bin) : Nat := (b.word.extractLsb' 51 4).toNat
/-- CARRYB. -/
def Bin.carryB (b : Bin) : Nat := (b.word.extractLsb' 55 4).toNat
/-- FINAL. -/
def Bin.final (b : Bin) : Bool := b.word.getLsbD 59
/-- LIFT. -/
def Bin.lift (b : Bin) : Nat := (b.word.extractLsb' 60 4).toNat
/-- Entries of 512 bytes a row: e = ceil(RB / 512) (R152). -/
def Bin.entries (b : Bin) : Nat := ceilDiv b.rb 512
/-- Whether a defined bin is a root (R147). -/
def Bin.isRoot (b : Bin) : Bool := b.defined && decide (b.parent = 15)
/-- Whether a root has a carry pair. -/
def Bin.hasCarry (b : Bin) : Bool := decide (b.carryA ≠ 15)
/-- The active carry, which receives deferrals (Table 6.2). -/
def Bin.activeCarry (b : Bin) : Nat := if b.active then b.carryB else b.carryA
/-- The read carry. -/
def Bin.readCarry (b : Bin) : Nat := if b.active then b.carryA else b.carryB

/-- The bins from b up to its root; trees are at most four levels deep (R148). -/
def binChain (bs : SMap Bin) : Nat → Nat → List Nat
  | 0, _ => []
  | n + 1, b =>
    if !(getBin bs b).defined then []
    else if (getBin bs b).parent = 15 then [b]
    else b :: binChain bs n (getBin bs b).parent

/-- The bins from b up to its root. -/
def chainOf (bs : SMap Bin) (b : Nat) : List Nat := binChain bs 5 b

/-- Level of a defined bin (R147). -/
def binLevel (bs : SMap Bin) (b : Nat) : Nat := (chainOf bs b).length - 1

/-- Whether a bin is in the tree of a root (R147). -/
def inTree (bs : SMap Bin) (root b : Nat) : Bool := decide ((chainOf bs b).getLast? = some root)

/-- The sixteen bin numbers. -/
def allBins : List Nat := List.range 16

/-- Whether a bin is a carry of a defined root. -/
def isCarry (bs : SMap Bin) (b : Nat) : Bool :=
  allBins.any fun r => (getBin bs r).isRoot && (getBin bs r).hasCarry &&
    (decide ((getBin bs r).carryA = b) || decide ((getBin bs r).carryB = b))

/-- Whether a bin is the parent of a defined bin. -/
def isParent (bs : SMap Bin) (b : Nat) : Bool :=
  allBins.any fun x => (getBin bs x).defined && decide ((getBin bs x).parent = b)

/-- Whether another defined descriptor names a bin as its parent, a carry or a lift target (R148). -/
def namedByOther (bs : SMap Bin) (n : Nat) : Bool :=
  allBins.any fun x =>
    let b := getBin bs x
    decide (x ≠ n) && b.defined &&
      ((decide (n ≠ 15) && (decide (b.parent = n) || decide (b.carryA = n) || decide (b.carryB = n))) ||
        (b.final && decide (b.lift = n)))

/-- Whether BINDEF refuses a definition word for bin n (R148). -/
def bindefBad (bs : SMap Bin) (n : Nat) (w : Word64) : Bool :=
  let d : Bin := { Bin.none with word := w }
  let par := getBin bs d.parent
  let badShape := decide (d.base % 64 ≠ 0) || decide (d.rb = 0) || decide (4096 < d.rb) || decide (d.cap = 0) ||
    decide (4096 < d.cap) || decide (2 ^ 21 < d.base + d.cap * d.rb) || decide (w.extractLsb' 28 4 ≠ 0)
  let badParent := decide (d.parent ≠ 15) &&
    (!par.defined || decide (d.parent = n) || decide (binLevel bs d.parent = 3) || decide (par.rb ≠ d.rb) ||
      isCarry bs d.parent || decide (d.carryA ≠ 15) || decide (d.carryB ≠ 15) || decide (d.lift ≠ 15))
  let badCarry (x : Nat) : Bool :=
    let b := getBin bs x
    decide (x = n) || !b.defined || decide (b.parent ≠ 15) || decide (b.rb ≠ d.rb) || isParent bs x
  let badCarries := (decide (d.carryA = 15) != decide (d.carryB = 15)) ||
    (decide (d.carryA ≠ 15) && decide (d.carryB ≠ 15) &&
      (decide (d.carryA = d.carryB) || badCarry d.carryA || badCarry d.carryB))
  let lf := getBin bs d.lift
  let root := if d.parent = 15 then n else ((chainOf bs d.parent).getLast?).getD n
  let badLift := (d.final && (!lf.defined || decide (d.lift = n) || inTree bs root d.lift || decide (lf.rb ≠ d.rb))) ||
    (!d.final && decide (d.lift ≠ 15))
  namedByOther bs n || (decide (w ≠ 0) && (badShape || badParent || badCarries || badLift))

/-- The descriptor BINDEF writes, every piece of state at its reset value (R149): CUR is the read carry's CAPACITY. -/
def bindefBin (bs : SMap Bin) (w : Word64) : Bin :=
  let d : Bin := { Bin.none with word := w }
  { d with cur := if d.isRoot && d.hasCarry then (getBin bs d.carryB).cap else 0 }

/-! ### Issue -/

/-- Whether the bin unit has room for one more command (R351). -/
def binRoom (c : Core) : Bool := decide ((c.binQ.filter fun b => b.start.isNone).length < 8)

/-- The state with a command handed to the bin unit. -/
def queueBin (s : State) (cmd : BinCmd) : State :=
  updCore (freshId s).2 s.turn.core fun c => { c with binQ := c.binQ ++ [{ cmd with id := (freshId s).1 }] }

/-- A bin-unit command of C with no barrier and no bound. -/
def binCommand (s : State) (op n : Nat) (w : Word64) : BinCmd :=
  ⟨0, op, s.cyc, s.turn.q, n, w, 0, false, 0, none, none, 0, 0, none, []⟩

/-- Whether a bin's whole region passes class 3 with the rights (R156). -/
def binRegionOk (s : State) (b : Bin) (rd wr : Bool) : Bool :=
  phaseOk (getCore s s.turn.core) 3 s.cyc rd wr b.base (b.cap * b.rb)

/-- The effect of a queued bin word of C once its own checks have passed. -/
def submitBin (s : State) (cmd : BinCmd) : Except Raise (State × Flow) :=
  if binRoom (getCore s s.turn.core) then .ok (goOn (queueBin s cmd)) else .error (Raise.of 0x11)

/-- BINDEF (R352). -/
def execBindef (h : Hdr) (n : BitVec 5) (imm : Word32) (s : State) : Out :=
  issueWord (WordPlan.plain 2 [.c] h.mbz (decide (16 ≤ n.toNat)) [] [] fun s =>
    let c := getCore s s.turn.core
    let off := imm.toNat
    let al := off / 8 * 8
    if 2 ^ 16 ≤ off then .error (Raise.at_ 0x21 off off)
    else if !ctlStatic c al then .error (Raise.of 0x14)
    else submitBin (warnHereIf (decide (off ≠ al)) warnMod s) (binCommand s 0 n.toNat (memWord c.ctl al))) s

/-- BINRST (R158, R353). -/
def execBinrst (h : Hdr) (n : BitVec 4) (s : State) : Out :=
  issueWord (WordPlan.plain 1 [.c] h.mbz false [] [] fun s =>
    let b := getBin (getCore s s.turn.core).regs.bins n.toNat
    if b.defined && !binRegionOk s b false true then .error (Raise.at_ 0x26 b.base b.base)
    else submitBin s (binCommand s 1 n.toNat 0)) s

/-- The value BINFILL returns (Table 6.4). -/
def binfillValue (b : Bin) (sl : Nat) : Nat :=
  if sl = 0 then b.fill else if sl = 1 then b.drop else if sl = 2 then b.defer else b.pass

/-- The descriptors as BINFILL reads them: as the commands that completed before the cycle have left them (R150). -/
def binsBefore (c : Core) : SMap Bin := c.binPrev.getD c.regs.bins

/-- BINFILL (R150, R352). -/
def execBinfill (h : Hdr) (d : Reg) (n : BitVec 4) (sl : BitVec 3) (s : State) : Out :=
  issueWord (WordPlan.plain 1 [.c] h.mbz (decide (4 ≤ sl.toNat)) [] [(destHere s d, 4)] fun s =>
    let b := getBin (binsBefore (getCore s s.turn.core)) n.toNat
    if !b.defined then .error (Raise.of 0x43)
    else .ok (goOn (flyReg s d 4 (BitVec.ofNat 64 (binfillValue b sl.toNat)) false))) s

/-- BINPASS (R159). -/
def execBinpass (h : Hdr) (n : BitVec 4) (s : State) : Out :=
  issueWord (WordPlan.plain 1 [.c] h.mbz false [] [] fun s => submitBin s (binCommand s 2 n.toNat 0)) s

/-- The outer active carry into which a lifting BINEND would write, as the descriptors stand (R161). -/
def liftCarry (bs : SMap Bin) (b : Bin) : Option Nat :=
  match (chainOf bs b.lift).getLast? with
  | some r => if (getBin bs r).hasCarry then some (getBin bs r).activeCarry else none
  | none => none

/-- BINEND (R161, R353): with FINAL = 1 the outer active carry's region is checked at issue. -/
def execBinend (h : Hdr) (n : BitVec 4) (s : State) : Out :=
  issueWord (WordPlan.plain 1 [.c] h.mbz false [] [] fun s =>
    let bs := (getCore s s.turn.core).regs.bins
    let b := getBin bs n.toNat
    match (if b.isRoot && b.final then liftCarry bs b else none) with
    | some oc =>
      let o := getBin bs oc
      if binRegionOk s o false true then submitBin s (binCommand s 3 n.toNat 0) else .error (Raise.at_ 0x26 o.base o.base)
    | none => submitBin s (binCommand s 3 n.toNat 0)) s

/-- The conditions of R153, made at issue and again at the start. -/
def routeBad (bs : SMap Bin) (root n : Nat) (carry : Bool) : Bool :=
  let b := getBin bs root
  !b.isRoot || decide (128 < n) || (carry && !b.hasCarry) ||
    (!carry && b.hasCarry && decide (b.cur < (getBin bs b.readCarry).cap))

/-- The regions a ROUTE may touch, all within class 3's set (R156). -/
def routeRegionsOk (s : State) (bs : SMap Bin) (root : Nat) (carry : Bool) : Bool :=
  let b := getBin bs root
  (allBins.all fun x => !inTree bs root x || binRegionOk s (getBin bs x) false true) &&
    (!b.hasCarry || binRegionOk s (getBin bs b.activeCarry) false true) &&
    (!carry || binRegionOk s (getBin bs b.readCarry) true false)

/-- The BASE of the first of a ROUTE's regions that fails, the tree's in bin order, then the active and the read carry's. DESIGN CHOICE:
R156 does not say which address its record names (log 89). -/
def routeFailBase (s : State) (bs : SMap Bin) (root : Nat) (carry : Bool) : Nat :=
  let b := getBin bs root
  let carries := (if b.hasCarry then [(b.activeCarry, false, true)] else []) ++ (if carry then [(b.readCarry, true, false)] else [])
  let regions := ((allBins.filter (inTree bs root)).map fun x => (x, false, true)) ++ carries
  ((regions.find? fun r => !binRegionOk s (getBin bs r.1) r.2.1 r.2.2).map fun r => (getBin bs r.1).base).getD b.base

/-- Register fields of a transfer word that name no register of the issuing sequencer (R337). -/
def xferRegBad (s : State) (rs : List Reg) : Bool := regBad s.turn.q rs

/-- A barrier address A + OFF: its bits [63:21] must be zero (0x21); its bits [2:0] are ignored. -/
def barrierRef (s : State) (base : Word64) (off : Nat) : Except Raise BarRef :=
  let a := (base + BitVec.ofNat 64 off).toNat
  if 2 ^ 21 ≤ a then .error (Raise.at_ 0x21 a a) else .ok ⟨s.turn.core, a / 8 * 8⟩

/-- ROUTE's effect at issue (R415). -/
def routeAct (w : XferWord) (s : State) : Except Raise (State × Flow) :=
  let c := getCore s s.turn.core
  let nv := regHere s w.c
  let n := nv.val.toNat
  let root := w.q.toNat
  let carry := w.fn.getLsbD 6
  let bv := w.fn.getLsbD 7
  let bar : Except Raise (Option BarRef) :=
    if bv then (barrierRef s (regHere s w.a).val w.off.toNat).map some else .ok none
  if !nv.static then .error (Raise.of 0x14)
  else if routeBad c.regs.bins root n carry then .error (Raise.of 0x43)
  else if !routeRegionsOk s c.regs.bins root carry then
    .error (Raise.at_ 0x26 (routeFailBase s c.regs.bins root carry) (routeFailBase s c.regs.bins root carry))
  else if !binRoom c then .error (Raise.of 0x11)
  else
    match bar with
    | .error r => .error r
    | .ok b =>
      let s1 := warnHereIf (decide (w.fn.extractLsb' 0 6 ≠ 0)) warnDec s
      let cmd : BinCmd :=
        { binCommand s 4 root 0 with n := n, carry := carry, bound := 16 * (w.imm.extractLsb' 0 12).toNat, barrier := b }
      let s2 := queueBin s1 cmd
      .ok (goOn (if carry then s2 else updCore s2 s.turn.core fun c => { c with takers := c.takers ++ [s1.ids] }))

/-- ROUTE (R415, R152): with BV = 0 the A field is ignored, and B always is (R258). -/
def execRoute (w : XferWord) (s : State) : Out :=
  let bv := w.fn.getLsbD 7
  let rs := if bv then [w.c, w.a] else [w.c]
  let mbz := decide (w.b ≠ 0) || decide (w.fn.extractLsb' 8 3 ≠ 0) || decide (w.imm.extractLsb' 12 20 ≠ 0) ||
    (!bv && (decide (w.a ≠ 0) || decide (w.off ≠ 0)))
  issueWord (WordPlan.plain 3 [.s] mbz (decide (16 ≤ w.q.toNat) || xferRegBad s rs) (rs.map (destHere s)) [] (routeAct w)) s

/-! ### The bin unit -/

/-- The bin-unit command that runs or is next to start. -/
def binHead (c : Core) : Option BinCmd := c.binQ.head?

/-- A core with its running bin-unit command replaced. -/
def setBinHead (c : Core) (b : BinCmd) : Core := { c with binQ := b :: c.binQ.drop 1 }

/-- A core whose running bin-unit command has ended in a cycle, with the descriptors as it leaves them (R150). -/
def endBin (c : Core) (cyc : Nat) (bs : SMap Bin) : Core :=
  { c with binQ := c.binQ.drop 1, binFree := cyc + 1, binPrev := some (c.binPrev.getD c.regs.bins), regs := { c.regs with bins := bs } }

/-- Whether the next bin-unit command starts in the cycle (R150). -/
def binStarts (c : Core) (cyc : Nat) : Bool :=
  match binHead c with
  | some b => b.start.isNone && decide (b.issued ≤ cyc) && decide (c.binFree ≤ cyc)
  | none => false

/-- Whether a command is refused at its start with 0x43 (R148, R153, R159, R161, R352). -/
def binStartBad (bs : SMap Bin) (cmd : BinCmd) : Bool :=
  let b := getBin bs cmd.bin
  match cmd.op with
  | 0 => bindefBad bs cmd.bin cmd.word
  | 1 => !b.defined
  | 2 => !b.isRoot || !b.hasCarry
  | 3 => !b.isRoot || (b.hasCarry && decide (b.cur < (getBin bs b.readCarry).cap))
  | _ => routeBad bs cmd.bin cmd.n cmd.carry

/-- Whether a BINEND lifts: rows left and FINAL = 1 (R161). -/
def binLifts (bs : SMap Bin) (b : Bin) : Bool :=
  b.hasCarry && decide ((getBin bs b.activeCarry).fill ≠ 0) && b.final

/-- A command's duration from its start (Table 18.7, R152, R158, R159, R161). -/
def binDuration (bs : SMap Bin) (cmd : BinCmd) : Nat :=
  let b := getBin bs cmd.bin
  match cmd.op with
  | 1 => ceilDiv (b.cap * b.rb) 4096
  | 3 => if binLifts bs b then 4 + (getBin bs b.activeCarry).cap * b.entries else 2
  | 4 => 4 + cmd.n * b.entries
  | _ => 2

/-- BIN_COMMAND_START (R150): the next command starts, its checks made against the descriptors as they now stand. -/
def execBinCommandStart (core : Nat) (s : State) : Out :=
  let c := getCore s core
  match binHead c with
  | none => .next s
  | some cmd =>
    if !binStarts c s.cyc then .next s
    else if binStartBad c.regs.bins cmd then .next (raiseOn (setCore s core (endBin c s.cyc c.regs.bins)) core .bin (Raise.of 0x43))
    else
      .next (setCore s core (setBinHead c
        { cmd with start := some s.cyc, finish := s.cyc + binDuration c.regs.bins cmd - 1 }))

/-- What a ROUTE's rows have done so far (R154): the descriptors, the trap to raise, the slots the last row was written to, and
the warnings. -/
structure RouteRun where
  bins : SMap Bin
  stop : Option (Nat × Nat × Nat)
  at_ : List Nat
  bpath : Bool
  bcnt : Bool
  deriving DecidableEq, Repr

/-- A count after one more row, and whether it was saturated already (Table 6.2). -/
def countUp (n : Nat) : Nat × Bool := if n < 2 ^ 32 - 1 then (n + 1, false) else (n, true)

/-- A bin with one more row dropped. -/
def addDrop (r : RouteRun) (b : Nat) : RouteRun :=
  let d := getBin r.bins b
  { r with bins := setBin r.bins b { d with drop := (countUp d.drop).1 }, bcnt := r.bcnt || (countUp d.drop).2 }

/-- A bin with one more row deferred. -/
def addDefer (r : RouteRun) (b : Nat) : RouteRun :=
  let d := getBin r.bins b
  { r with bins := setBin r.bins b { d with defer := (countUp d.defer).1 }, bcnt := r.bcnt || (countUp d.defer).2 }

/-- A row appended to a bin at its FILL. -/
def takeSlot (r : RouteRun) (b : Nat) : RouteRun :=
  let d := getBin r.bins b
  { r with bins := setBin r.bins b { d with fill := d.fill + 1 }, at_ := r.at_ ++ [d.base + d.fill * d.rb] }

/-- ToCarry of R154 into a root's active carry; `k` is the row of the trap record. -/
def toCarry (r : RouteRun) (root leaf lv k : Nat) : RouteRun :=
  let d := getBin r.bins root
  if !d.hasCarry then { r with stop := some (0x41, 15, k) }
  else
    let ac := d.activeCarry
    let a := getBin r.bins ac
    if a.fill < a.cap then
      let r1 := { r with bins := setBin r.bins ac { a with tags := smSet 0 a.tags a.fill (BitVec.ofNat 8 (lv * 16 + leaf)) } }
      takeSlot r1 ac
    else if a.rule = 0 then addDrop r ac
    else { r with stop := some (0x41, ac, k) }

/-- A live row placed on its path (R154): `res` is its resume level. -/
def placeRow (r : RouteRun) (root leaf res k : Nat) : RouteRun :=
  let path := ((chainOf r.bins leaf).reverse).drop res
  let full (b : Nat) : Bool := decide ((getBin r.bins b).fill = (getBin r.bins b).cap)
  let open_ := path.takeWhile fun b => !full b
  let r1 := open_.foldl takeSlot r
  match path.find? full with
  | none => r1
  | some dl =>
    let rule := (getBin r.bins dl).rule
    if rule = 0 then addDrop r1 dl
    else if rule = 1 then toCarry (addDefer r1 dl) root leaf (binLevel r.bins dl) k
    else { r1 with stop := some (0x40, dl, k) }

/-- Row k of a ROUTE (R154). -/
def routeRow (cmd : BinCmd) (r0 : RouteRun) (k : Nat) : RouteRun :=
  let r := { r0 with at_ := [] }
  let root := cmd.bin
  if cmd.carry then
    let d := getBin r.bins root
    let rc := getBin r.bins d.readCarry
    let slot := d.cur + k
    if slot < rc.fill then
      let tag := (smGet 0 rc.tags slot).toNat
      let leaf := tag % 16
      let res := tag / 16 % 4
      if inTree r.bins root leaf && decide (res ≤ binLevel r.bins leaf) then
        if r.stop.isNone then placeRow r root leaf res k else r
      else { r with bpath := true }
    else r
  else
    let leaf := (laneAt (cmd.sel.getD []) k).toNat % 16
    if leaf = 15 then r
    else if inTree r.bins root leaf then (if r.stop.isNone then placeRow r root leaf 0 k else r)
    else { r with bpath := true }

/-- What the first n rows of a ROUTE have done. -/
def routeRows (bs : SMap Bin) (cmd : BinCmd) (n : Nat) : RouteRun :=
  (List.range n).foldl (routeRow cmd) ⟨bs, none, [], false, false⟩

/-- The cycle of a running ROUTE's next action (R152): its selector, its next row's entries, or its completion. -/
def routeNext (bs : SMap Bin) (cmd : BinCmd) : Nat :=
  let e := (getBin bs cmd.bin).entries
  let t := cmd.start.getD 0 + cmd.wait
  if !cmd.carry && cmd.sel.isNone then t
  else if cmd.rows.length < cmd.n * e then t + 4 + cmd.rows.length / e * e
  else t + 3 + cmd.n * e

/-- Whether the running ROUTE may pop sq: every earlier consumer of S has taken its entries (R443). -/
def mayTake (c : Core) (id : Nat) : Bool := decide (c.takers.head? = some id)

/-- A core with a consumer that has taken all its entries removed from the order of R443. -/
def doneTaking (c : Core) (id : Nat) : Core := { c with takers := c.takers.filter (· ≠ id) }

/-- The bytes of row k of a running ROUTE: from its entries, or from the read carry's slot (R152). -/
def routeRowBytes (s : State) (core : Nat) (cmd : BinCmd) (rows : List Lanes) (k : Nat) : List Byte :=
  let c := getCore s core
  let d := getBin c.regs.bins cmd.bin
  if cmd.carry then
    let rc := getBin c.regs.bins d.readCarry
    spadRead c core .bin s.cyc (rc.base + (d.cur + k) * d.rb) d.rb
  else (((rows.drop (k * d.entries)).take d.entries).flatMap bytesOfLanes).take d.rb

/-- Row k written to its slots in the running cycle, with its warning. DESIGN CHOICE: rows are written, and BPATH set, in the cycle in which
their row is taken, not in the command's completion cycle (R154, log 89). -/
def routeWrite (s : State) (core : Nat) (cmd : BinCmd) (rows : List Lanes) (k : Nat) : State :=
  let before := routeRows (getCore s core).regs.bins cmd k
  let r := routeRow cmd before k
  let bs := routeRowBytes s core cmd rows k
  let s1 := r.at_.foldl (fun s a => writeSpad s core core (getCore s core).lidx .bin s.cyc a bs cmd.id) s
  updCore s1 core (warnIf (r.bpath && !before.bpath) warnBpath)

/-- A running ROUTE's completion (R154, R155, R157, R416). -/
def routeFinish (s : State) (core : Nat) (cmd : BinCmd) : State :=
  let c := getCore s core
  let r := routeRows c.regs.bins cmd cmd.n
  let d := getBin r.bins cmd.bin
  let d1 := if cmd.carry then { d with cur := min (d.cur + cmd.n) (getBin r.bins d.readCarry).cap } else d
  let c1 := warnIf r.bcnt warnBcnt (endBin c s.cyc (setBin r.bins cmd.bin d1))
  match r.stop with
  | some (cause, b, k) => raiseOn (setCore s core c1) core .bin { Raise.of cause with detail := [cmd.bin, b, k] }
  | none => completeCommand (setCore s core c1) core .bin cmd.id 2 0 cmd.barrier (cmd.n * d.rb) false

/-- ROUTE_COMPLETION (R152, R416): the running ROUTE's action of the cycle: it takes its selector or a row's entries from sq,
waiting where one is missing, and completes in its last cycle. -/
def execRouteCompletion (core : Nat) (s : State) : Out :=
  let c := getCore s core
  match binHead c with
  | none => .next s
  | some cmd =>
    if cmd.op ≠ 4 ∨ cmd.start.isNone ∨ s.cyc < routeNext c.regs.bins cmd then .next s
    else
      let e := (getBin c.regs.bins cmd.bin).entries
      let wait := setCore s core (setBinHead c { cmd with wait := cmd.wait + 1 })
      if !cmd.carry && cmd.sel.isNone then
        match (if mayTake c cmd.id then headOf c.sq s.cyc else none) with
        | none => .next wait
        | some v =>
          let c1 := setBinHead { c with sq := popQ c.sq s.cyc } { cmd with sel := some v }
          .next (setCore s core (if cmd.n = 0 then doneTaking c1 cmd.id else c1))
      else if cmd.rows.length < cmd.n * e then
        let k := cmd.rows.length / e
        if cmd.carry then
          let s1 := routeWrite s core cmd cmd.rows k
          .next (updCore s1 core fun c => setBinHead c { cmd with rows := cmd.rows ++ List.replicate e [] })
        else
          match (if mayTake c cmd.id then headOf c.sq s.cyc else none) with
          | none => .next wait
          | some v =>
            let rows := cmd.rows ++ [v]
            let c1 := setBinHead { c with sq := popQ c.sq s.cyc } { cmd with rows := rows }
            let c2 := if rows.length = cmd.n * e then doneTaking c1 cmd.id else c1
            let s1 := setCore s core c2
            .next (if rows.length % e = 0 then routeWrite s1 core cmd rows k else s1)
      else .next (routeFinish s core cmd)

/-- BINPASS's effect (R159). -/
def binpassBins (bs : SMap Bin) (root : Nat) : SMap Bin :=
  let cleared := allBins.foldl (fun bs x =>
    if inTree bs root x then setBin bs x { getBin bs x with fill := 0 } else bs) bs
  let d := getBin cleared root
  let d1 := { d with active := !d.active, cur := 0, pass := (d.pass + 1) % 2 ^ 16 }
  let b1 := setBin cleared root d1
  setBin b1 d1.activeCarry { getBin b1 d1.activeCarry with fill := 0 }

/-- The lift of R161: every slot of the inner active carry below FILL goes to the outer tree's active carry, in slot order. DESIGN CHOICE:
the rows are read and written in the completion cycle (log 89). -/
def liftRows (s : State) (core : Nat) (cmd : BinCmd) : State × RouteRun :=
  let bs := (getCore s core).regs.bins
  let d := getBin bs cmd.bin
  let a := getBin bs d.activeCarry
  let outer := ((chainOf bs d.lift).getLast?).getD 15
  (List.range a.fill).foldl (fun acc k =>
    if acc.2.stop.isSome then acc
    else
      let r := toCarry { acc.2 with at_ := [] } outer d.lift (binLevel bs d.lift) k
      let row := spadRead (getCore acc.1 core) core .bin s.cyc (a.base + k * a.rb) a.rb
      (r.at_.foldl (fun s x => writeSpad s core core (getCore s core).lidx .bin s.cyc x row cmd.id) acc.1, r))
    (s, ⟨bs, none, [], false, false⟩)

/-- A completed command of C counted (R23): CR 0x032 advances, after that of the unit's commands before it; no record is posted (R380). -/
def binCounted (s : State) (core : Nat) (bs : SMap Bin) : State :=
  updCore s core fun c => countCommand (endBin c s.cyc bs) s.cyc 2 .bin

/-- BINEND's completion (R161, R323). -/
def binendFinish (s : State) (core : Nat) (cmd : BinCmd) : State :=
  let c := getCore s core
  let bs := c.regs.bins
  let d := getBin bs cmd.bin
  let a := getBin bs d.activeCarry
  if !d.hasCarry || decide (a.fill = 0) then binCounted s core bs
  else if !d.final then
    raiseOn (setCore s core (endBin c s.cyc c.regs.bins)) core .bin
      { Raise.of 0x42 with detail := [cmd.bin, d.activeCarry, d.pass, a.fill] }
  else
    let (s1, r) := liftRows s core cmd
    let s2 := updCore s1 core (warnIf r.bcnt warnBcnt)
    match r.stop with
    | some (cause, b, k) =>
      raiseOn (updCore s2 core fun c => endBin c s.cyc r.bins) core .bin
        { Raise.of cause with detail := [cmd.bin, b, k] }
    | none =>
      let bs1 := setBin r.bins d.activeCarry { getBin r.bins d.activeCarry with fill := 0 }
      binCounted s2 core bs1

/-- BIN_COMMAND_COMPLETION (R150): a BINDEF, BINRST, BINPASS or BINEND in its last cycle changes the descriptors at once. DESIGN CHOICE:
BINRST's bytes are zeroed in that cycle (R158, log 89). -/
def execBinCommandCompletion (core : Nat) (s : State) : Out :=
  let c := getCore s core
  match binHead c with
  | none => .next s
  | some cmd =>
    if 4 ≤ cmd.op ∨ cmd.start.isNone ∨ s.cyc < cmd.finish then .next s
    else
      let bs := c.regs.bins
      let d := getBin bs cmd.bin
      match cmd.op with
      | 0 =>
        let s1 := binCounted s core (setBin bs cmd.bin (bindefBin bs cmd.word))
        .next (updCore s1 core (warnIf (decide (cmd.word ≠ 0) && decide (cmd.word.extractLsb' 45 2 = 3)) warnBrule))
      | 1 =>
        let s1 := writeSpad s core core c.lidx .bin s.cyc d.base (List.replicate (d.cap * d.rb) 0) cmd.id
        .next (binCounted s1 core (setBin bs cmd.bin { d with fill := 0 }))
      | 2 => .next (binCounted s core (binpassBins bs cmd.bin))
      | _ => .next (binendFinish s core cmd)

end Sys2Proof.Machine
end

