-- ==== Sys2Proof/Machine/Numbers.lean ====
section
/-!
DEFINITION. Floating-point values, formats and rounding (R77 to R98): exact values are dyadic numbers, and every rounding is
made once, by one function.
-/

namespace Sys2Proof.Machine

open Sys2Proof

/-! ### Exact values -/

/-- An exact value: NaN, an infinity, or (−1)^neg × man × 2^exp. -/
inductive FVal where
  | nan
  | inf (neg : Bool)
  | fin (neg : Bool) (man : Nat) (exp : Int)
  deriving DecidableEq, Repr

/-- A format of Table 3.1 but E8M0: field widths, bias, and what its top codes mean: 0 an infinity and NaNs, 1 E4M3's one NaN,
2 neither. -/
structure Fmt where
  eb : Nat
  mb : Nat
  bias : Nat
  kind : Nat
  deriving DecidableEq, Repr

/-- FP32. -/
def fp32 : Fmt := ⟨8, 23, 127, 0⟩
/-- BF16. -/
def bf16 : Fmt := ⟨8, 7, 127, 0⟩
/-- FP16. -/
def fp16 : Fmt := ⟨5, 10, 15, 0⟩
/-- E4M3. -/
def e4m3 : Fmt := ⟨4, 3, 7, 1⟩
/-- E5M2. -/
def e5m2 : Fmt := ⟨5, 2, 15, 0⟩
/-- E2M1. -/
def e2m1 : Fmt := ⟨2, 1, 1, 2⟩

/-- Decode(c, fmt) (R77, R90). -/
def decodeF (f : Fmt) (c : Nat) : FVal :=
  let neg := bitOf c (f.eb + f.mb)
  let e := c / 2 ^ f.mb % 2 ^ f.eb
  let m := c % 2 ^ f.mb
  if f.kind = 0 ∧ e = 2 ^ f.eb - 1 then (if m = 0 then .inf neg else .nan)
  else if f.kind = 1 ∧ e = 2 ^ f.eb - 1 ∧ m = 2 ^ f.mb - 1 then .nan
  else if e = 0 then .fin neg m (1 - (f.bias : Int) - f.mb)
  else .fin neg (2 ^ f.mb + m) (e - (f.bias : Int) - f.mb)

/-- The sign bit at its place in a format. -/
def signOf (f : Fmt) (neg : Bool) : Nat := if neg then 2 ^ (f.eb + f.mb) else 0

/-- The canonical NaN; E2M1 has none, and 0b0000 stands for it (R78, R88, Table 3.1). -/
def nanCode (f : Fmt) : Nat :=
  if f.kind = 1 then 2 ^ (f.eb + f.mb) - 1
  else if f.kind = 2 then 0
  else (2 ^ f.eb - 1) * 2 ^ f.mb + 2 ^ (f.mb - 1)

/-- The largest finite code without its sign. -/
def maxCode (f : Fmt) : Nat :=
  if f.kind = 0 then (2 ^ f.eb - 1) * 2 ^ f.mb - 1
  else if f.kind = 1 then 2 ^ (f.eb + f.mb) - 2
  else 2 ^ (f.eb + f.mb) - 1

/-- Max(fmt) (R90). -/
def maxVal (f : Fmt) : FVal := decodeF f (maxCode f)

/-- The code of an infinity, where R87 gives one: E4M3 has its NaN, E2M1 its largest value (Table 3.6). -/
def infCode (f : Fmt) (neg : Bool) : Nat :=
  if f.kind = 0 then signOf f neg + (2 ^ f.eb - 1) * 2 ^ f.mb
  else if f.kind = 1 then nanCode f
  else signOf f neg + maxCode f

/-- Whether overflow goes to infinity under a rounding mode (Table 3.6): RNE 0, RTZ 1, RDN 2, RUP 3. -/
def overflowsToInf (rm : Nat) (neg : Bool) : Bool := rm = 0 || (rm = 2 && neg) || (rm = 3 && !neg)

/-- The integer that a rounding mode picks for man / 2^shift, the sign given (Table 3.5). -/
def roundShift (rm : Nat) (neg : Bool) (man shift : Nat) : Nat :=
  let m := man >>> shift
  let rem := man % 2 ^ shift
  let up :=
    match rm with
    | 0 => decide (2 ^ shift < 2 * rem) || (decide (2 * rem = 2 ^ shift) && decide (0 < shift) && decide (m % 2 = 1))
    | 1 => false
    | 2 => neg && decide (rem ≠ 0)
    | _ => !neg && decide (rem ≠ 0)
  if up then m + 1 else m

/-- Round of a nonzero finite value (R87). -/
def roundFin (f : Fmt) (rm : Nat) (neg : Bool) (man : Nat) (exp : Int) : Nat :=
  let emin : Int := 1 - (f.bias : Int)
  let q : Int := max ((Nat.log2 man : Int) + exp) emin - f.mb
  let m0 := if q ≤ exp then man <<< (exp - q).toNat else roundShift rm neg man (q - exp).toNat
  let (m, q1) := if 2 ^ (f.mb + 1) ≤ m0 then (m0 / 2, q + 1) else (m0, q)
  let code : Nat :=
    if m < 2 ^ f.mb then m
    else (q1 + f.mb + f.bias).toNat * 2 ^ f.mb + (m - 2 ^ f.mb)
  if code ≤ maxCode f then signOf f neg + code
  else if overflowsToInf rm neg then infCode f neg
  else signOf f neg + maxCode f

/-- Round(v, fmt, rm) (R87). -/
def roundTo (f : Fmt) (rm : Nat) : FVal → Nat
  | .nan => nanCode f
  | .inf neg => infCode f neg
  | .fin neg man exp => if man = 0 then signOf f neg else roundFin f rm neg man exp

/-- Round to FP32, as a lane. -/
def roundF32 (rm : Nat) (v : FVal) : Word32 := BitVec.ofNat 32 (roundTo fp32 rm v)

/-- RoundRNE to FP32 (R90). -/
def rne32 (v : FVal) : Word32 := roundF32 0 v

/-- The exact value of an FP32 lane. -/
def dec32 (w : Word32) : FVal := decodeF fp32 w.toNat

/-- The signed mantissa of a finite value at an exponent not above its own. -/
def scaledTo (neg : Bool) (man : Nat) (exp e : Int) : Int :=
  let m : Int := (man <<< (exp - e).toNat : Nat)
  if neg then -m else m

/-- A signed number times a power of two, with the sign of a zero given. -/
def ofScaled (v : Int) (e : Int) (zeroNeg : Bool) : FVal :=
  if v = 0 then .fin zeroNeg 0 0 else .fin (decide (v < 0)) v.natAbs e

/-- The order of two values, neither a NaN: −1, 0 or 1; zeros are equal. -/
def cmpF (a b : FVal) : Int :=
  let pos (x : FVal) : Int := match x with | .inf true => -2 | .inf false => 2 | _ => 0
  match a, b with
  | .fin na ma ea, .fin nb mb eb =>
    let e := min ea eb
    let d := scaledTo na ma ea e - scaledTo nb mb eb e
    if d < 0 then -1 else if 0 < d then 1 else 0
  | _, _ => if pos a < pos b then -1 else if pos b < pos a then 1 else 0

/-- Whether a value is a NaN. -/
def FVal.isNan : FVal → Bool
  | .nan => true
  | _ => false

/-- The sign of a value; false for a NaN. -/
def FVal.neg : FVal → Bool
  | .nan => false
  | .inf n => n
  | .fin n _ _ => n

/-- Sat(v, fmt) (R90). -/
def satF (f : Fmt) (v : FVal) : FVal :=
  match v, maxVal f with
  | .nan, _ => .nan
  | _, .fin _ m e =>
    if 0 < cmpF v (.fin false m e) then .fin false m e
    else if cmpF v (.fin true m e) < 0 then .fin true m e
    else v
  | _, _ => v

/-! ### Exact arithmetic (R89, Table 3.8) -/

/-- The value with its sign changed. -/
def negF : FVal → FVal
  | .nan => .nan
  | .inf n => .inf !n
  | .fin n m e => .fin (!n) m e

/-- An exact sum; an exact zero of operands of opposite sign is −0 under RDN only. -/
def addF (rm : Nat) (a b : FVal) : FVal :=
  match a, b with
  | .nan, _ => .nan
  | _, .nan => .nan
  | .inf x, .inf y => if x = y then .inf x else .nan
  | .inf x, _ => .inf x
  | _, .inf y => .inf y
  | .fin na ma ea, .fin nb mb eb =>
    let e := min ea eb
    ofScaled (scaledTo na ma ea e + scaledTo nb mb eb e) e (if na = nb then na else decide (rm = 2))

/-- An exact product. -/
def mulF (a b : FVal) : FVal :=
  match a, b with
  | .nan, _ => .nan
  | _, .nan => .nan
  | .inf x, .inf y => .inf (x != y)
  | .inf x, .fin y m _ => if m = 0 then .nan else .inf (x != y)
  | .fin x m _, .inf y => if m = 0 then .nan else .inf (x != y)
  | .fin x m e, .fin y k g => .fin (x != y) (m * k) (e + g)

/-- The smaller of two values as VMIN takes it: −0 below +0 (Table 3.8). -/
def minF (a b : FVal) : FVal :=
  if a.isNan || b.isNan then .nan
  else if cmpF a b < 0 then a
  else if 0 < cmpF a b then b
  else if a.neg then a else b

/-- The larger of two values as VMAX takes it. -/
def maxF (a b : FVal) : FVal :=
  if a.isNan || b.isNan then .nan
  else if cmpF a b < 0 then b
  else if 0 < cmpF a b then a
  else if a.neg then b else a

/-! ### Function units (R96, Table 3.10): an inexact result carries one odd bit below enough exact ones, so that rounding sees it -/

/-- A value between man and man + 1 units, or exactly man. -/
def jam (neg : Bool) (man : Nat) (exact : Bool) (exp : Int) : FVal :=
  .fin neg (2 * man + (if exact then 0 else 1)) (exp - 1)

/-- An exact quotient (Table 3.8). -/
def divF (a b : FVal) : FVal :=
  match a, b with
  | .nan, _ => .nan
  | _, .nan => .nan
  | .inf _, .inf _ => .nan
  | .inf x, .fin y _ _ => .inf (x != y)
  | .fin x _ _, .inf y => .fin (x != y) 0 0
  | .fin x m e, .fin y k g =>
    if m = 0 ∧ k = 0 then .nan
    else if k = 0 then .inf (x != y)
    else if m = 0 then .fin (x != y) 0 0
    else
      let sh := 64 + Nat.log2 k
      let n := m <<< sh
      jam (x != y) (n / k) (decide (n % k = 0)) (e - g - sh)

/-- The integer square root by bits, from bit i down. -/
def isqrtFrom (n : Nat) : Nat → Nat → Nat
  | 0, r => r
  | i + 1, r => if (r + 2 ^ i) * (r + 2 ^ i) ≤ n then isqrtFrom n i (r + 2 ^ i) else isqrtFrom n i r

/-- The integer square root. -/
def isqrt (n : Nat) : Nat := isqrtFrom n (Nat.log2 n / 2 + 1) 0

/-- A square root. -/
def sqrtF (a : FVal) : FVal :=
  match a with
  | .nan => .nan
  | .inf n => if n then .nan else .inf false
  | .fin n m e =>
    if m = 0 then .fin n 0 0
    else if n then .nan
    else
      let sh : Nat := if e % 2 = 0 then 64 else 65
      let v := m <<< sh
      let r := isqrt v
      jam false r (decide (r * r = v)) ((e - sh) / 2)

/-- A reciprocal square root. -/
def rsqrtF (a : FVal) : FVal :=
  match a with
  | .nan => .nan
  | .inf n => if n then .nan else .fin false 0 0
  | .fin n m e =>
    if m = 0 then .inf n
    else if n then .nan
    else
      let k : Nat := 2 * (Nat.log2 m + 64) + (if e % 2 = 0 then 0 else 1)
      let r := isqrt (2 ^ k / m)
      jam false r (decide (r * r * m = 2 ^ k)) ((-e - k) / 2)

/-- ln 2 in units of 2^−160. -/
def ln2 : Nat := 0xb17217f7d1cf79abc9e3b39803f2f6af40f34326

/-- The series of e^y, y in units of 2^−160: the terms from y^i / i! on. -/
def expSeries (y : Nat) : Nat → Nat → Nat → Nat
  | 0, _, _ => 0
  | n + 1, i, t => t + expSeries y n (i + 1) (t * y / 2 ^ 160 / (i + 1))

/-- 2^x for a finite x. -/
def exp2F (a : FVal) : FVal :=
  match a with
  | .nan => .nan
  | .inf n => if n then .fin false 0 0 else .inf false
  | .fin n m e =>
    if m = 0 then .fin false 1 0
    else if 10 ≤ (Nat.log2 m : Int) + e then (if n then .fin false 1 (-400) else .fin false 1 400)
    else
      let v : Int := if 0 ≤ e then (m <<< e.toNat : Nat) else 0
      if 0 ≤ e then .fin false 1 (if n then -v else v)
      else
        let d := (-e).toNat
        let s : Int := if n then -(m : Int) else m
        let i := s / (2 ^ d : Nat)
        let fr := (s % (2 ^ d : Nat)).toNat
        if fr = 0 then .fin false 1 i
        else jam false (expSeries (fr * ln2 / 2 ^ d) 60 0 (2 ^ 160)) false (i - 160)

/-- The first n bits of log2 of a number in [1, 2) given in units of 2^−256, most significant first. -/
def log2Bits : Nat → Nat → Nat → Nat
  | 0, _, acc => acc
  | n + 1, x, acc =>
    let y := x * x / 2 ^ 256
    if 2 ^ 257 ≤ y then log2Bits n (y / 2) (2 * acc + 1) else log2Bits n y (2 * acc)

/-- log2 x. -/
def log2F (a : FVal) : FVal :=
  match a with
  | .nan => .nan
  | .inf n => if n then .nan else .inf false
  | .fin n m e =>
    if m = 0 then .inf true
    else if n then .nan
    else
      let l := Nat.log2 m
      let w : Int := (l : Int) + e
      if m = 2 ^ l then ofScaled w 0 false
      else
        let v : Int := w * (2 ^ 96 : Nat) + (log2Bits 96 (m <<< (256 - l)) 0 : Nat)
        ofScaled (2 * v + 1) (-97) false

/-! ### Dot products (R90 to R94) -/

/-- floor(log2 |t|) of a nonzero finite term. -/
def topExp : FVal → Option Int
  | .fin _ m e => if m = 0 then none else some ((Nat.log2 m : Int) + e)
  | _ => none

/-- Trunc40(t, emax) in units of 2^(emax − 40): toward zero (R90). -/
def trunc40 (emax : Int) : FVal → Int
  | .fin n m e =>
    let q := emax - 40
    let v : Nat := if q ≤ e then m <<< (e - q).toNat else m >>> (q - e).toNat
    if n then -(v : Int) else v
  | _ => 0

/-- ExactGroupSum (R90). -/
def exactGroupSum (ts : List FVal) : FVal :=
  let pos := ts.any (fun t => decide (t = .inf false))
  let neg := ts.any (fun t => decide (t = .inf true))
  if ts.any FVal.isNan then .nan
  else if pos && neg then .nan
  else if pos then .inf false
  else if neg then .inf true
  else
    match ts.filterMap topExp with
    | [] => .fin false 0 0
    | e :: es =>
      let emax := es.foldl max e
      dec32 (rne32 (ofScaled ((ts.map (trunc40 emax)).foldl (· + ·) 0) (emax - 40) false))

/-- RoundRNE(a + b, FP32) as a value. -/
def addRne (a b : FVal) : FVal := dec32 (rne32 (addF 0 a b))

/-- Fused mode (R92): the accumulator joins the first group. -/
def fusedSum (acc : Option FVal) (groups : List (List FVal)) : FVal :=
  match groups with
  | [] => acc.getD (.fin false 0 0)
  | g :: gs => gs.foldl (fun s g => addRne s (exactGroupSum g)) (exactGroupSum (g ++ acc.toList))

/-- One level of a pairwise tree. -/
def pairUp (f : FVal → FVal → FVal) : List FVal → List FVal
  | a :: b :: rest => f a b :: pairUp f rest
  | rest => rest

/-- n levels of a pairwise tree. -/
def pairTree (f : FVal → FVal → FVal) : Nat → List FVal → List FVal
  | 0, l => l
  | n + 1, l => pairTree f n (pairUp f l)

/-- Late mode (R93): the groups' sums by pairs, then the accumulator. -/
def lateSum (acc : Option FVal) (groups : List (List FVal)) : FVal :=
  let t := ((pairTree addRne 5 (groups.map exactGroupSum)).head?).getD (.fin false 0 0)
  match acc with
  | none => t
  | some c => addRne c t

/-! ### Block formats (R80 to R82) -/

/-- A value times 2^k. -/
def scaleF (v : FVal) (k : Int) : FVal :=
  match v with
  | .fin n m e => .fin n m (e + k)
  | w => w

/-- An MX element under its E8M0 scale (R80). -/
def decodeMx (f : Fmt) (scale c : Nat) : FVal :=
  if scale = 255 then .nan else scaleF (decodeF f c) ((scale : Int) - 127)

/-- DecodeE2M1X (R81, R90). -/
def decodeE2M1X (c w : Nat) : FVal :=
  let scale := w / 256 % 256
  let x := signed 8 (w % 256)
  if scale = 255 then .nan
  else if c = 8 ∧ x ≠ -128 then ofScaled x ((scale : Int) - 129) false
  else scaleF (decodeF e2m1 c) ((scale : Int) - 127)

/-- The codes of an E2M1X block but 0b1000. -/
def plainCodes : List Nat := [0, 1, 2, 3, 4, 5, 6, 7, 9, 10, 11, 12, 13, 14, 15]

/-- The candidate codes of an E2M1X block: 0b1000 only where no other code has its value (R82). -/
def e2m1xCodes (w : Nat) : List Nat :=
  if plainCodes.any fun c => decide (cmpF (decodeE2M1X c w) (decodeE2M1X 8 w) = 0) then plainCodes else plainCodes ++ [8]

/-- Of two candidates, the one a rounding mode prefers for v; the first where they are equal. A tie under RNE whose two codes both
have bit 0 clear is left open by R82 and taken from a free choice (log 29). -/
def betterE2M1X (rm : Nat) (v : FVal) (w c d : Nat) : Nat :=
  let a := decodeE2M1X c w
  let b := decodeE2M1X d w
  let dist (x : FVal) : FVal := match addF 0 x (negF v) with | .fin _ m e => .fin false m e | y => y
  if rm = 0 then
    let k := cmpF (dist a) (dist b)
    if k < 0 then c
    else if 0 < k then d
    else if cmpF a b = 0 then c
    else if c % 2 = 0 ∧ d % 2 = 1 then c
    else if d % 2 = 0 ∧ c % 2 = 1 then d
    else if Config.blockTie w c d then c else d
  else if cmpF (dist b) (dist a) < 0 then d else c

/-- Whether a rounding mode may pick a value for v (Table 3.5). -/
def allowedE2M1X (rm : Nat) (v x : FVal) : Bool :=
  let mag (y : FVal) : FVal := match y with | .fin _ m e => .fin false m e | .inf _ => .inf false | .nan => .nan
  match rm with
  | 0 => true
  | 1 => decide (cmpF (mag x) (mag v) ≤ 0)
  | 2 => decide (cmpF x v ≤ 0)
  | _ => decide (0 ≤ cmpF x v)

/-- The code of largest magnitude with a sign. -/
def extremeE2M1X (neg : Bool) (w : Nat) : Nat :=
  (e2m1xCodes w).foldl (fun best c =>
    let a := decodeE2M1X c w
    if a.neg = neg && decide ((if neg then cmpF a (decodeE2M1X best w) else cmpF (decodeE2M1X best w) a) < 0) then c else best)
    (if neg then 15 else 7)

/-- The element code of a value that is not a NaN under a block word whose scale is not 0xFF (R82). DESIGN CHOICE (log 85): where
RDN or RUP leaves no candidate on its side of v, although a remapped value of the other sign exceeds |v| and the overflow
clause does not apply by its letter, the code is the extreme one of v's sign. -/
def encodeE2M1X (rm : Nat) (v : FVal) (w : Nat) : Nat :=
  match v with
  | .nan => 0
  | .inf n => extremeE2M1X n w
  | .fin n _ _ =>
    let c :=
      match (e2m1xCodes w).filter (fun c => allowedE2M1X rm v (decodeE2M1X c w)) with
      | [] => extremeE2M1X n w
      | c :: cs => cs.foldl (betterE2M1X rm v w) c
    match decodeE2M1X c w with
    | .fin _ m _ => if m = 0 then (if n && decide (signed 8 (w % 256) = -128) then 8 else 0) else c
    | _ => c

/-! ### Integers -/

/-- The integer that a rounding mode picks for a finite value. -/
def roundInt (rm : Nat) (neg : Bool) (man : Nat) (exp : Int) : Int :=
  let m : Nat := if 0 ≤ exp then man <<< exp.toNat else roundShift rm neg man (-exp).toNat
  if neg then -(m : Int) else m

/-- A value clamped to a range. -/
def clampInt (lo hi v : Int) : Int := max lo (min hi v)

/-- Float to integer (R88): NaN gives 0, everything else is rounded and clamped. -/
def floatToInt (rm : Nat) (lo hi : Int) : FVal → Int
  | .nan => 0
  | .inf n => if n then lo else hi
  | .fin n m e => if 300 < (Nat.log2 m : Int) + e then (if n then lo else hi) else clampInt lo hi (roundInt rm n m e)

/-- An integer as an exact value. -/
def intF (v : Int) : FVal := ofScaled v 0 false

/-- Clmul64 (R90): the carry-less product. -/
def clmul64 (a b : Nat) : Nat :=
  (List.range 64).foldl (fun p i => if b.testBit i then p ^^^ (a <<< i) else p) 0

/-! ### Ranks (R183) -/

/-- The rank key of an FP32 lane: a larger value has a larger key, zeros are equal, a NaN is below −∞. -/
def rankKey (w : Word32) : Int :=
  let m : Int := ((w.toNat % 2 ^ 31 : Nat) : Int)
  if 0x7F800000 < m then -(2 ^ 31) else if w.getLsbD 31 then -m else m

/-- A pair put into a list in rank order: by value, then by ascending index. -/
def insertRank (p : Word32 × Nat) : List (Word32 × Nat) → List (Word32 × Nat)
  | [] => [p]
  | q :: qs => if rankKey q.1 < rankKey p.1 then p :: q :: qs else q :: insertRank p qs

/-- The values of a list with their indices, in rank order. -/
def rankAll (l : List Word32) : List (Word32 × Nat) := l.zipIdx.foldl (fun acc p => insertRank p acc) []

/-- An FP32 lane as a result: a NaN of any code is written as the canonical NaN (R78). -/
def quietLane (w : Word32) : Word32 := if rankKey w = -(2 ^ 31) then BitVec.ofNat 32 (nanCode fp32) else w

/-- The k best (value, index) pairs (R183, R187), their values as results. -/
def topK (k : Nat) (l : List Word32) : List (Word32 × Nat) := ((rankAll l).take k).map fun p => (quietLane p.1, p.2)

/-- The 8k bytes of a row's k best pairs: value, then lane index (R187). -/
def topkBytes (k : Nat) (l : Lanes) : List Byte :=
  (topK k (tabulate (laneAt l))).flatMap fun p => leBytes 4 p.1.toNat ++ leBytes 4 p.2

end Sys2Proof.Machine
end

