-- ==== Sys2Proof/Machine/Operands.lean ====
section
/-!
DEFINITION. The operand forms of the vector words: operand codes, lane strides, masks, element types, destinations and the
fallbacks of their fields (R83, R264, R265, R271, R432, R433, R51).
-/

namespace Sys2Proof.Machine

open Sys2Proof

/-! ### Element types (Table 10.6) -/

/-- Whether a TYPE code names a float format. -/
def tyFloat (t : Nat) : Bool := decide (t < 7)
/-- Whether a TYPE code names a signed integer format. -/
def tySigned (t : Nat) : Bool := decide (7 ≤ t) && decide (t < 11)
/-- Whether an element type is 64 bits wide (W64, R432). -/
def ty64 (t : Nat) : Bool := t = 10 || t = 14
/-- The width of a TYPE in bits (Tables 3.1, 10.6). -/
def tyBits (t : Nat) : Nat := [32, 16, 16, 8, 8, 4, 4, 8, 16, 32, 64, 8, 16, 32, 64].getD t 32
/-- The float format of a TYPE; E2M1X codes take their values from a block word (R81). -/
def tyFmt (t : Nat) : Fmt := [fp32, bf16, fp16, e4m3, e5m2, e2m1, e2m1].getD t fp32
/-- The least integer of an integer TYPE. -/
def tyMin (t : Nat) : Int := if tySigned t then -(2 ^ (tyBits t - 1)) else 0
/-- The greatest integer of an integer TYPE. -/
def tyMax (t : Nat) : Int := if tySigned t then 2 ^ (tyBits t - 1) - 1 else 2 ^ tyBits t - 1
/-- The integer an element's bits stand for. -/
def tyInt (t v : Nat) : Int := if tySigned t then signed (tyBits t) v else ((v % 2 ^ tyBits t : Nat) : Int)

/-! ### Sources -/

/-- Lane(str, i) (R432). -/
def laneIndex (w : VecWord) (str i : Nat) : Nat :=
  match str with
  | 1 => 0
  | 2 => 2 * i % 128
  | 3 => (2 * i + 1) % 128
  | 4 => 127 - i
  | 5 => i ^^^ 1
  | 6 => w.imm.toNat % 128
  | _ => i

/-- Src(code, str, ·) (R432): `w64` where the word's element type is 64 bits wide. -/
def srcLanes (c : Core) (cyc : Nat) (w : VecWord) (w64 : Bool) (code str : Nat) : Lanes :=
  let strided (l : Lanes) : Lanes := if str = 0 ∨ str = 7 then l else tabulate fun i => laneAt l (laneIndex w str i)
  if code ≤ 31 then strided (readVec c code)
  else if code = 32 ∨ code = 33 then strided ((headOf c.lq cyc).getD [])
  else if code = 35 then
    let v := (headOf c.cq cyc).getD 0
    tabulate fun i => if w64 && decide (i % 2 = 1) then v.extractLsb' 32 32 else v.setWidth 32
  else if code = 37 then
    tabulate fun i =>
      if w64 && decide (i % 2 = 1) then (if w.ty = 10 ∧ w.imm.getLsbD 31 then 0xFFFFFFFF else 0) else w.imm
  else []

/-- Whether an operand code may stand in a source position (Table 10.6, R265). -/
def srcCodeOk (code : Nat) : Bool := decide (code ≤ 33) || code = 35 || code = 37 || code = 38

/-- Whether an operand code may stand in the destination position: lq and its head are sources only (DEDUCED, log 30). -/
def dstCodeOk (code : Nat) : Bool := decide (code ≤ 31) || code = 34 || code = 36

/-- Whether a code is subject to a stride (R265). -/
def strideApplies (code : Nat) : Bool := decide (code ≤ 33)

/-- What a vector word's entry says of its fields: which sources it uses, whether it writes DST, an entry's own reserved values,
whether FN7 must be zero, the IMM32 bits it names, the warnings of its fallbacks, the element type it computes with, its
latency, and the m register that VMSK writes and those it reads. -/
structure VecForm where
  useA : Bool
  useB : Bool
  useC : Bool
  useDst : Bool
  bad : Bool
  fnZero : Bool
  imm : Nat
  warns : List Nat
  ty : Nat
  lat : Nat
  toMask : Option Nat
  masks : List Nat
  deriving DecidableEq, Repr

/-- The source fields a word uses: code and stride. -/
def usedSources (w : VecWord) (f : VecForm) : List (Nat × Nat) :=
  (if f.useA then [(w.sa.toNat, w.stra.toNat)] else []) ++ (if f.useB then [(w.sb.toNat, w.strb.toNat)] else []) ++
    (if f.useC then [(w.sc.toNat, w.strc.toNat)] else [])

/-- Whether a source field that the word does not use is nonzero (R433, R258). -/
def unusedSet (w : VecWord) (f : VecForm) : Bool :=
  (!f.useA && (decide (w.sa ≠ 0) || decide (w.stra ≠ 0))) || (!f.useB && (decide (w.sb ≠ 0) || decide (w.strb ≠ 0))) ||
    (!f.useC && (decide (w.sc ≠ 0) || decide (w.strc ≠ 0))) || (!f.useDst && decide (w.dst ≠ 0))

/-- Whether IMM32 holds a bit that nothing reads: an imm operand and stride 6 read it whole (DEDUCED, log 30). -/
def immUnused (w : VecWord) (f : VecForm) : Bool :=
  decide (w.imm.toNat &&& (2 ^ 32 - 1 - f.imm) ≠ 0) &&
    !((usedSources w f).any fun p => decide (p.1 = 37) || (decide (p.2 = 6) && strideApplies p.1))

/-- The warnings of a word's fields (R258, R265, Table 10.12). -/
def vecWarns (w : VecWord) (f : VecForm) : List Nat :=
  let src := usedSources w f
  (if decide (w.top ≠ 0) || unusedSet w f || (f.fnZero && decide (w.fn ≠ 0)) || immUnused w f then [warnMbz] else []) ++
    (if src.any fun p => strideApplies p.1 && decide (p.2 = 7) then [warnStr] else []) ++
    (if src.any fun p => !strideApplies p.1 && decide (p.2 ≠ 0) then [warnMod] else []) ++ f.warns

/-- Whether a selecting field of a vector word is reserved (R257, R264 to R266). DESIGN CHOICE: TYPE 15 is one on the tile words too, whose
TYPE must be zero (R258, log 124). -/
def vecBad (w : VecWord) (f : VecForm) : Bool :=
  f.bad || decide (w.ty = 15) || (usedSources w f).any (fun p => !srcCodeOk p.1) ||
    (f.useDst && !dstCodeOk w.dst.toNat)

/-- Whether a used source takes lq's head. -/
def usesLq (w : VecWord) (f : VecForm) : Bool := (usedSources w f).any fun p => p.1 = 32 || p.1 = 33
/-- Whether a used source pops lq. -/
def popsLq (w : VecWord) (f : VecForm) : Bool := (usedSources w f).any fun p => p.1 = 32
/-- Whether a used source pops cq. -/
def popsCq (w : VecWord) (f : VecForm) : Bool := (usedSources w f).any fun p => p.1 = 35

/-- The stall conditions of a vector word (Table 2.1, R51). -/
def vecStall (w : VecWord) (f : VecForm) (s : State) : Option Await :=
  let c := getCore s s.turn.core
  waitIf (usesLq w f && (headOf c.lq s.cyc).isNone) (popOf 0 c.lq) <|>
    waitIf (popsCq w f && (headOf c.cq s.cyc).isNone) (popOf 2 c.cq) <|>
    waitIf (f.useDst && w.dst = 34 && !roomFor c.sq 8 1 s.cyc) (pushOf 1 c.sq) <|>
    waitIf (f.useDst && w.dst = 36 && !roomFor c.xq 16 1 s.cyc) (pushOf 3 c.xq)

/-- The state with the queue heads that a word pops taken, each once (R265). -/
def popSources (w : VecWord) (f : VecForm) (s : State) : State :=
  updCore s s.turn.core fun c =>
    let c1 := if popsLq w f then { c with lq := popQ c.lq s.cyc } else c
    if popsCq w f then { c1 with cq := popQ c1.cq s.cyc } else c1

/-! ### Masks and destinations -/

/-- Each bit of the active mask given by its lane, over bits 127 down to 0. -/
def bitsFrom (f : Nat → Bool) : Nat → Nat
  | 0 => 0
  | n + 1 => (if f n then 2 ^ n else 0) + bitsFrom f n

/-- A 128-bit word given by a function of the bit number. -/
def maskOf (f : Nat → Bool) : BitVec 128 := BitVec.ofNat 128 (bitsFrom f 128)

/-- The active lanes: by the MASK register, a lane pair by its even lane for 64-bit elements (R265). -/
def activeMask (c : Core) (m : Nat) (w64 : Bool) : BitVec 128 :=
  let b := readMask c m
  if w64 then maskOf fun i => b.getLsbD (i / 2 * 2) else b

/-- The lanes of an entry with its inactive lanes zero. -/
def maskLanes (active : BitVec 128) (l : Lanes) : Lanes := mergeLanes active l []

/-- The value pushed to xq: lane 0, or lane pair (0, 1) of a 64-bit element, zero when lane 0 is inactive (R433). -/
def xqValue (active : BitVec 128) (w64 : Bool) (l : Lanes) : Word64 :=
  if active.getLsbD 0 then (if w64 then laneAt l 1 ++ laneAt l 0 else (laneAt l 0).setWidth 64) else 0

/-- The state with a vector result of latency n under way to its destination: a register in stream cycles, a queue entry claimed
now and pushed in a real cycle (R48, R51). DESIGN CHOICE: entries keep the order in which their words issued, also where a later word of a
shorter latency pushes first (R211, R54, log 117). -/
def deliverLanes (s : State) (dst n : Nat) (active : BitVec 128) (w64 : Bool) (l : Lanes) : State :=
  let p := s.turn.core
  if dst ≤ 31 then updCore s p fun c => fly c s.turn.q s.cyc (.v dst) n (.lanes l active)
  else if dst = 34 then
    updCore (freshId s).2 p fun c =>
      { c with sq := claimQ c.sq (freshId s).1 1,
               pushes := c.pushes ++ [⟨(freshId s).1, false, s.cyc + n, packLanes (maskLanes active l), 0⟩] }
  else
    updCore (freshId s).2 p fun c =>
      { c with xq := claimQ c.xq (freshId s).1 1,
               pushes := c.pushes ++ [⟨(freshId s).1, true, s.cyc + n, [], xqValue active w64 l⟩] }

/-- What a vector word's function gives: the result lanes, and whether NANZ is set. -/
structure VecResult where
  lanes : Lanes
  nanz : Bool
  deriving DecidableEq, Repr

/-- A result that sets no warning. -/
def VecResult.of (l : Lanes) : VecResult := ⟨l, false⟩

/-- What a vector word's function reads: its sources, its active lanes, and the core's mask registers. -/
structure VecArgs where
  a : Lanes
  b : Lanes
  c : Lanes
  active : BitVec 128
  mask : Nat → BitVec 128

/-- The sources and the mask as the turn's core holds them at issue. -/
def vecArgs (w : VecWord) (f : VecForm) (s : State) : VecArgs :=
  let c := getCore s s.turn.core
  let w64 := ty64 f.ty
  let src (u : Bool) (code : BitVec 6) (str : BitVec 3) : Lanes :=
    if u then srcLanes c s.cyc w w64 code.toNat str.toNat else []
  ⟨src f.useA w.sa w.stra, src f.useB w.sb w.strb, src f.useC w.sc w.strc, activeMask c w.mask.toNat w64, readMask c⟩

/-- The effect of a vector word: its sources read and popped, its result under way (R432, R433). -/
def vecAct (w : VecWord) (f : VecForm) (fn : VecArgs → VecResult) (s : State) : Except Raise (State × Flow) :=
  let x := vecArgs w f s
  let r := fn x
  let s1 := warnHereIf r.nanz warnNanz (popSources w f s)
  match f.toMask with
  | some m =>
    .ok (goOn (updCore s1 s.turn.core fun c =>
      fly c s.turn.q s.cyc (.m m) f.lat (.bits (maskOf fun i => decide (laneAt r.lanes i ≠ 0)) x.active)))
  | none => .ok (goOn (deliverLanes s1 w.dst.toNat f.lat x.active (ty64 f.ty) r.lanes))

/-- The plan of a vector word. -/
def vecPlan (w : VecWord) (f : VecForm) (fn : VecArgs → VecResult) : WordPlan where
  len := 3
  accepts := [.x]
  bad := vecBad w f
  warns := vecWarns w f
  reads := ((usedSources w f).filterMap fun p => if p.1 ≤ 31 then some (Dest.v p.1) else none) ++
    ((w.mask.toNat :: f.masks).map Dest.m)
  writes :=
    match f.toMask with
    | some m => [(.m m, f.lat)]
    | none => if f.useDst && decide (w.dst.toNat ≤ 31) then [(.v w.dst.toNat, f.lat)] else []
  stall := vecStall w f
  stamp := fun _ => none
  act := vecAct w f fn

/-- VECTOR_QUEUE_PUSH (R51): the pushes of a core due in the cycle fill the entries they claimed. -/
def execVectorQueuePush (core : Nat) (s : State) : Out :=
  let c := getCore s core
  let due := c.pushes.filter fun p => decide (p.due ≤ s.cyc)
  let c1 := due.foldl (fun c p =>
    if p.toXq then { c with xq := fillQ c.xq p.tag p.word s.cyc } else { c with sq := fillQ c.sq p.tag p.lanes s.cyc })
    { c with pushes := c.pushes.filter fun p => decide (s.cyc < p.due) }
  .next (setCore s core c1)

end Sys2Proof.Machine
end

