-- ==== Sys2Proof/Machine/Vector.lean ====
section
/-!
DEFINITION. The vector words that compute lanes: float, integer, logic, compare, select, mask, conversion, packing, reduction
and movement (R326, R434 to R440, R444 to R450). Tile words stand with the matrix engine.
-/

namespace Sys2Proof.Machine

open Sys2Proof

/-! ### Fallbacks (Table 10.12) -/

/-- warn(MOD) for a nonzero RND. -/
def rndMod (w : VecWord) : List Nat := if w.rnd ≠ 0 then [warnMod] else []
/-- warn(MOD) for SAT = 1. -/
def satMod (w : VecWord) : List Nat := if w.sat ≠ 0 then [warnMod] else []
/-- The warning of a TYPE that computes as f32. -/
def f32Mod (w : VecWord) : List Nat :=
  if w.ty = 0 then [] else if tyFloat w.ty.toNat then [warnNtype] else [warnMod]
/-- The type of a word that computes on whole lanes: n32 unless a 32- or 64-bit integer type is named. -/
def laneType (w : VecWord) : Nat := if [9, 10, 13, 14].contains w.ty.toNat then w.ty.toNat else 13
/-- warn(MOD) for a TYPE that computes as n32. -/
def laneTypeMod (w : VecWord) : List Nat := if [9, 10, 13, 14].contains w.ty.toNat then [] else [warnMod]

/-- A form that reads the given sources, with every fallback of movement and logic words. -/
def moveForm (w : VecWord) (a b c : Bool) (ty lat imm : Nat) (fnZero bad : Bool) : VecForm :=
  ⟨a, b, c, true, bad, fnZero, imm, rndMod w ++ satMod w, ty, lat, none, []⟩

/-! ### Float words (Table 20.4) -/

/-- A float word's form: latency n, RND used or ignored. -/
def floatForm (w : VecWord) (b c rnd : Bool) (n : Nat) : VecForm :=
  ⟨true, b, c, true, false, true, 0, f32Mod w ++ (if rnd then [] else rndMod w) ++ satMod w, 0, n, none, []⟩

/-- A float word: the exact value of its operands, rounded once by RND, or by RNE for the function units and under an integer TYPE
(R434, R96, Table 10.12). -/
def floatOp (w : VecWord) (b c rnd : Bool) (n : Nat) (f : Nat → FVal → FVal → FVal → FVal) (s : State) : Out :=
  let rm := if rnd && tyFloat w.ty.toNat then w.rnd.toNat else 0
  issueWord (vecPlan w (floatForm w b c rnd n) fun x => .of (tabulate fun i =>
    roundF32 rm (f rm (dec32 (laneAt x.a i)) (dec32 (laneAt x.b i)) (dec32 (laneAt x.c i))))) s

/-- The value 1. -/
def oneF : FVal := .fin false 1 0

/-- The magnitude of a value. -/
def absF : FVal → FVal
  | .nan => .nan
  | .inf _ => .inf false
  | .fin _ m e => .fin false m e

/-- VADD (R434). -/
def execVadd (w : VecWord) (s : State) : Out := floatOp w true false true 4 (fun rm a b _ => addF rm a b) s
/-- VSUB (R434). -/
def execVsub (w : VecWord) (s : State) : Out := floatOp w true false true 4 (fun rm a b _ => addF rm a (negF b)) s
/-- VMUL (R434). -/
def execVmul (w : VecWord) (s : State) : Out := floatOp w true false true 4 (fun _ a b _ => mulF a b) s
/-- VFMA (R434). -/
def execVfma (w : VecWord) (s : State) : Out := floatOp w true true true 4 (fun rm a b c => addF rm (mulF a b) c) s
/-- VFMS (R434). -/
def execVfms (w : VecWord) (s : State) : Out := floatOp w true true true 4 (fun rm a b c => addF rm (mulF a b) (negF c)) s
/-- VFNMA (R434). -/
def execVfnma (w : VecWord) (s : State) : Out := floatOp w true true true 4 (fun rm a b c => addF rm c (negF (mulF a b))) s
/-- VMIN (R434, Table 3.8). -/
def execVmin (w : VecWord) (s : State) : Out := floatOp w true false false 4 (fun _ a b _ => minF a b) s
/-- VMAX (R434, Table 3.8). -/
def execVmax (w : VecWord) (s : State) : Out := floatOp w true false false 4 (fun _ a b _ => maxF a b) s
/-- VABS (R434). -/
def execVabs (w : VecWord) (s : State) : Out := floatOp w false false false 4 (fun _ a _ _ => absF a) s
/-- VNEG (R434). -/
def execVneg (w : VecWord) (s : State) : Out := floatOp w false false false 4 (fun _ a _ _ => negF a) s
/-- VRCP (R96). -/
def execVrcp (w : VecWord) (s : State) : Out := floatOp w false false false 12 (fun _ a _ _ => divF oneF a) s
/-- VRSQ (R96). -/
def execVrsq (w : VecWord) (s : State) : Out := floatOp w false false false 12 (fun _ a _ _ => rsqrtF a) s
/-- VSQRT (R96). -/
def execVsqrt (w : VecWord) (s : State) : Out := floatOp w false false false 12 (fun _ a _ _ => sqrtF a) s
/-- VDIV (R96, R89). -/
def execVdiv (w : VecWord) (s : State) : Out := floatOp w true false false 12 (fun _ a b _ => divF a b) s
/-- VEXP2 (R96). -/
def execVexp2 (w : VecWord) (s : State) : Out := floatOp w false false false 12 (fun _ a _ _ => exp2F a) s
/-- VLOG2 (R96). -/
def execVlog2 (w : VecWord) (s : State) : Out := floatOp w false false false 12 (fun _ a _ _ => log2F a) s

/-! ### Integer words (Table 20.6) -/

/-- The bits of the element that lane i belongs to: the low bits of its lane, or its lane pair. -/
def elemAt (ty : Nat) (l : Lanes) (i : Nat) : Nat :=
  if ty64 ty then (laneAt l (i / 2 * 2 + 1) ++ laneAt l (i / 2 * 2)).toNat else (laneAt l i).toNat % 2 ^ tyBits ty

/-- Lane i of an element's integer result, kept to its low bits and extended above them (R433). -/
def elemLane (ty : Nat) (v : Int) (i : Nat) : Word32 :=
  if ty64 ty then BitVec.ofNat 32 (lowBits 64 v / (if i % 2 = 1 then 2 ^ 32 else 1))
  else if tySigned ty then BitVec.ofInt 32 (signed (tyBits ty) (lowBits (tyBits ty) v))
  else BitVec.ofNat 32 (lowBits (tyBits ty) v)

/-- The type an integer word computes with: i32 for a float TYPE, 32 bits for a 64-bit one where the word has no 64-bit form. -/
def intType (w : VecWord) (narrow : Bool) : Nat :=
  let t := w.ty.toNat
  if tyFloat t then 9 else if narrow && t = 10 then 9 else if narrow && t = 14 then 13 else t

/-- An integer word's form. -/
def intForm (w : VecWord) (b c narrow : Bool) : VecForm :=
  ⟨true, b, c, true, false, true, 0, (if intType w narrow ≠ w.ty.toNat then [warnMod] else []) ++ rndMod w,
    intType w narrow, 2, none, []⟩

/-- An integer word: the exact result of its elements' bits, clamped under SAT (R439). -/
def intOp (w : VecWord) (b c narrow : Bool) (f : Nat → Nat → Nat → Nat → Int) (s : State) : Out :=
  let t := intType w narrow
  issueWord (vecPlan w (intForm w b c narrow) fun x => .of (tabulate fun i =>
    let v := f t (elemAt t x.a i) (elemAt t x.b i) (elemAt t x.c i)
    elemLane t (if w.sat = 1 then clampInt (tyMin t) (tyMax t) v else v) i)) s

/-- The shift amount of an element: its low log2(w) bits. -/
def shiftOf (t b : Nat) : Nat := b % tyBits t

/-- VIADD (R439). -/
def execViadd (w : VecWord) (s : State) : Out := intOp w true false false (fun t a b _ => tyInt t a + tyInt t b) s
/-- VISUB (R439). -/
def execVisub (w : VecWord) (s : State) : Out := intOp w true false false (fun t a b _ => tyInt t a - tyInt t b) s
/-- VIMUL (R439). -/
def execVimul (w : VecWord) (s : State) : Out := intOp w true false true (fun t a b _ => tyInt t a * tyInt t b) s
/-- VIMULH (R439). -/
def execVimulh (w : VecWord) (s : State) : Out :=
  intOp w true false true (fun t a b _ => tyInt t a * tyInt t b / 2 ^ tyBits t) s
/-- VIMAC (R439). -/
def execVimac (w : VecWord) (s : State) : Out :=
  intOp w true true true (fun t a b c => tyInt t a * tyInt t b + tyInt t c) s
/-- VSHL (R439): the value is read as its TYPE reads it. -/
def execVshl (w : VecWord) (s : State) : Out := intOp w true false false (fun t a b _ => tyInt t a * 2 ^ shiftOf t b) s
/-- VSHR (R439): SAT changes nothing. -/
def execVshr (w : VecWord) (s : State) : Out :=
  intOp w true false false (fun t a b _ => tyInt t (a / 2 ^ shiftOf t b)) s
/-- VSHA (R439): SAT changes nothing. -/
def execVsha (w : VecWord) (s : State) : Out :=
  intOp w true false false (fun t a b _ => tyInt t (lowBits (tyBits t) (signed (tyBits t) a / 2 ^ shiftOf t b))) s
/-- VIMIN (R439). -/
def execVimin (w : VecWord) (s : State) : Out := intOp w true false false (fun t a b _ => min (tyInt t a) (tyInt t b)) s
/-- VIMAX (R439). -/
def execVimax (w : VecWord) (s : State) : Out := intOp w true false false (fun t a b _ => max (tyInt t a) (tyInt t b)) s
/-- VPOPC (R439). -/
def execVpopc (w : VecWord) (s : State) : Out := intOp w false false false (fun t a _ _ => onesIn a (tyBits t)) s

/-! ### Logic (R435), select (R449) and the carry-less product (R326) -/

/-- A logic word: whole lanes, n32 unless a 32- or 64-bit integer TYPE is named. -/
def logicOp (w : VecWord) (f : Word32 → Word32 → Word32) (s : State) : Out :=
  let form := moveForm w true true false (laneType w) 1 0 true false
  issueWord (vecPlan w { form with warns := laneTypeMod w ++ form.warns } fun x => .of (tabulate fun i =>
    f (laneAt x.a i) (laneAt x.b i))) s

/-- VAND (R435). -/
def execVand (w : VecWord) (s : State) : Out := logicOp w (· &&& ·) s
/-- VOR (R435). -/
def execVor (w : VecWord) (s : State) : Out := logicOp w (· ||| ·) s
/-- VXOR (R435). -/
def execVxor (w : VecWord) (s : State) : Out := logicOp w (· ^^^ ·) s
/-- VANDN (R435). -/
def execVandn (w : VecWord) (s : State) : Out := logicOp w (fun a b => a &&& ~~~ b) s

/-- VSEL (R449). -/
def execVsel (w : VecWord) (s : State) : Out :=
  let t := laneType w
  let form := moveForm w true true true t 1 0 true false
  issueWord (vecPlan w { form with warns := laneTypeMod w ++ form.warns } fun x => .of (tabulate fun i =>
    if laneAt x.c (if ty64 t then i / 2 * 2 else i) ≠ 0 then laneAt x.a i else laneAt x.b i)) s

/-- The half of a 64-bit element that VCLMUL multiplies (R326). -/
def clmulHalf (low : Bool) (v : Nat) : Nat := if low then v % 2 ^ 32 else v

/-- VCLMUL (R326, R97). -/
def execVclmul (w : VecWord) (s : State) : Out :=
  let t := if ty64 w.ty.toNat then w.ty.toNat else 14
  let form := moveForm w true true false t 4 0 false (decide (8 ≤ w.fn.toNat))
  issueWord (vecPlan w { form with warns := (if ty64 w.ty.toNat then [] else [warnMod]) ++ form.warns } fun x =>
    .of (tabulate fun i =>
      let p := clmul64 (clmulHalf (w.fn.getLsbD 1) (elemAt t x.a i)) (clmulHalf (w.fn.getLsbD 2) (elemAt t x.b i))
      elemLane t ((if w.fn.getLsbD 0 then p / 2 ^ 64 else p % 2 ^ 64 : Nat) : Int) i)) s

/-! ### Compare (R437) and mask words (R444) -/

/-- Whether a condition holds between two FP32 values (R437, Table 3.8). -/
def condHolds (fn : Nat) (a b : FVal) : Bool :=
  let k := cmpF a b
  if a.isNan || b.isNan then decide (fn = 1)
  else
    match fn with
    | 0 => decide (k = 0)
    | 1 => decide (k ≠ 0)
    | 2 => decide (k < 0)
    | 3 => decide (k ≤ 0)
    | 4 => decide (0 < k)
    | _ => decide (0 ≤ k)

/-- All ones where a condition holds. -/
def laneFlag (b : Bool) : Word32 := if b then 0xFFFFFFFF else 0

/-- VCMP (R437). -/
def execVcmp (w : VecWord) (s : State) : Out :=
  let form := moveForm w true true false 0 2 0 false (decide (6 ≤ w.fn.toNat))
  issueWord (vecPlan w { form with warns := f32Mod w ++ form.warns } fun x => .of (tabulate fun i =>
    laneFlag (condHolds w.fn.toNat (dec32 (laneAt x.a i)) (dec32 (laneAt x.b i))))) s

/-- VMSK's function on one lane: the lane of SA, and the bits of mN, mA and mB (Table 20.8). -/
def mskBit (fn : Nat) (a : Word32) (n x y : Bool) : Bool :=
  match fn with
  | 0 => decide (a ≠ 0)
  | 1 => n
  | 2 => x && y
  | 3 => x || y
  | 4 => x != y
  | 5 => x && !y
  | _ => !x

/-- The IMM32 bits a VMSK form uses (Table 20.8). -/
def mskImm (fn : Nat) : Nat := if fn ≤ 1 then 0x7 else if fn = 6 then 0x3F else 0x1FF

/-- VMSK (R444). -/
def execVmsk (w : VecWord) (s : State) : Out :=
  let fn := w.fn.toNat
  let n := (w.imm.extractLsb' 0 3).toNat
  let a := (w.imm.extractLsb' 3 3).toNat
  let b := (w.imm.extractLsb' 6 3).toNat
  let form : VecForm :=
    ⟨decide (fn = 0), false, false, decide (fn = 1), decide (7 ≤ fn), false, mskImm fn, rndMod w ++ satMod w, w.ty.toNat, 1,
      if fn = 1 then none else some n,
      if fn = 0 then [] else if fn = 1 then [n] else if fn = 6 then [a] else [a, b]⟩
  issueWord (vecPlan w form fun x => .of (tabulate fun i =>
    laneFlag (mskBit fn (laneAt x.a i) ((x.mask n).getLsbD i) ((x.mask a).getLsbD i) ((x.mask b).getLsbD i)))) s

/-! ### Conversions (R438, R88) and block quantisation (R447) -/

/-- The exact value of an element under a source TYPE, or its integer (R438). -/
def cvtSource (t word v : Nat) : FVal :=
  if t = 6 then decodeE2M1X (v % 16) word
  else if tyFloat t then decodeF (tyFmt t) (v % 2 ^ tyBits t)
  else intF (tyInt t v)

/-- One element converted (R88): the target's bits as an integer, and whether NANZ is set. -/
def cvtElem (src dst rm : Nat) (sat : Bool) (word v : Nat) : Int × Bool :=
  let x := cvtSource src word v
  if tyFloat dst then
    if dst = 6 then
      if x.isNan || decide (word / 256 % 256 = 255) then (0, true) else ((encodeE2M1X rm x word : Nat), false)
    else
      let y := if sat && tyFloat src && dst ≠ 0 then satF (tyFmt dst) x else x
      ((roundTo (tyFmt dst) rm y : Nat), dst = 5 && x.isNan)
  else if tyFloat src then (floatToInt rm (tyMin dst) (tyMax dst) x, false)
  else if sat then (clampInt (tyMin dst) (tyMax dst) (tyInt src v), false)
  else (tyInt src v, false)

/-- Lane i of a conversion's result: the element's lane pair where either format is 64 bits wide (R438). -/
def cvtLane (dst : Nat) (w64 : Bool) (v : Int) (i : Nat) : Word32 :=
  if !w64 then elemLane dst v i
  else if ty64 dst then elemLane dst v i
  else if i % 2 = 1 then 0 else elemLane dst v i

/-- The element lane i belongs to in a conversion's source: with 64-bit elements, a narrower value is read from lane 2e. -/
def cvtRead (src : Nat) (w64 : Bool) (l : Lanes) (i : Nat) : Nat :=
  if ty64 src then elemAt src l i else elemAt src l (if w64 then i / 2 * 2 else i)

/-- VCVT (R438). -/
def execVcvt (w : VecWord) (s : State) : Out :=
  let src := w.ty.toNat
  let dst := w.fn.toNat
  let word := w.imm.toNat % 2 ^ 16
  let w64 := ty64 src || ty64 dst
  let warns := (if !tyFloat src && !tyFloat dst then rndMod w else []) ++ (if dst = 0 then satMod w else [])
  let form : VecForm :=
    ⟨true, false, false, true, decide (15 ≤ dst), false, if src = 6 ∨ dst = 6 then 0xFFFF else 0, warns,
      if ty64 dst then dst else src, 3, none, []⟩
  issueWord (vecPlan w form fun x =>
    let r := (List.range 128).map fun i => cvtElem src dst w.rnd.toNat (w.sat = 1) word (cvtRead src w64 x.a i)
    ⟨tabulate fun i => cvtLane dst w64 ((r.getD i (0, false)).1) i,
      (List.range 128).any fun i => x.active.getLsbD i && ((r.getD i (0, false)).2)⟩) s

/-- The larger of two magnitudes. -/
def maxMag (a b : FVal) : FVal := if cmpF a b < 0 then b else a

/-- The index of the lowest-indexed value of largest magnitude. -/
def largestIdx : List (Nat × FVal) → Option (Nat × FVal)
  | [] => none
  | (i, v) :: rest =>
    match largestIdx rest with
    | none => some (i, v)
    | some (j, u) => if cmpF (absF v) (absF u) < 0 then some (j, u) else some (i, v)

/-- emax of a VQNT target: 3 e4m3, 4 e5m2, 5 and 6 E2M1 (R447). -/
def vqntEmax (fmt : Nat) : Int := if fmt = 3 then 8 else if fmt = 4 then 15 else 2

/-- X of a block from its greatest magnitude (R447). -/
def vqntX (fmt : Nat) (a : FVal) : Int :=
  match a with
  | .fin _ m e => if m = 0 then 0 else clampInt (-127) 127 ((Nat.log2 m : Int) + e - vqntEmax fmt)
  | _ => 127

/-- The extra byte x of an E2M1X block (R447). -/
def vqntExtra (x : Int) : Option (Nat × FVal) → Int
  | some (_, .fin n m e) => clampInt (-127) 127 (roundInt 0 n m (e - x + 2))
  | some (_, .inf n) => if n then -127 else 127
  | _ => 0

/-- One block's scale, extra byte and codes (R447); `vs` holds its active lanes by lane number. -/
def vqntBlock (fmt rm : Nat) (sat : Bool) (vs : List (Nat × FVal)) : Nat → Word32 :=
  if vs.any fun p => p.2.isNan then fun _ => BitVec.ofNat 32 (0xFF * 256)
  else
    let l := if fmt = 6 then largestIdx vs else none
    let rest := vs.filter fun p => l.all fun q => decide (q.1 ≠ p.1)
    let x := vqntX fmt (rest.foldl (fun acc p => maxMag acc (absF p.2)) (.fin false 0 0))
    let scale := (127 + x).toNat
    let extra := lowBits 8 (vqntExtra x l)
    fun i =>
      let v := ((vs.find? fun p => p.1 = i).map (·.2)).getD (.fin false 0 0)
      let code :=
        if fmt = 6 then encodeE2M1X rm v (scale * 256 + extra)
        else
          let y := scaleF v (-x)
          roundTo (tyFmt fmt) rm (if sat then satF (tyFmt fmt) y else y)
      BitVec.ofNat 32 (code + scale * 256 + (if fmt = 6 then extra * 65536 else 0))

/-- VQNT (R447). -/
def execVqnt (w : VecWord) (s : State) : Out :=
  let fmt := w.fn.toNat
  let form : VecForm :=
    ⟨true, false, false, true, decide (w.ty ≠ 0) || decide (fmt < 3) || decide (6 < fmt), false, 0, [], 0, 5, none, []⟩
  issueWord (vecPlan w form fun x =>
    let active (b : Nat) : List (Nat × FVal) :=
      ((List.range 32).filter fun q => x.active.getLsbD (32 * b + q)).map fun q =>
        (32 * b + q, dec32 (laneAt x.a (32 * b + q)))
    let blocks := (List.range 4).map fun b => vqntBlock fmt w.rnd.toNat (w.sat = 1) (active b)
    .of (tabulate fun i => (blocks.getD (i / 32) fun _ => 0) i)) s

/-! ### Packing (R445) -/

/-- The element width a pack TYPE names, or none where it raises 0x01. -/
def packWidth (t : Nat) : Option Nat :=
  if t = 5 ∨ t = 6 then some 4
  else if t = 3 ∨ t = 4 ∨ t = 7 ∨ t = 11 then some 8
  else if t = 1 ∨ t = 2 ∨ t = 8 ∨ t = 12 then some 16
  else none

/-- A pack word's form: TYPE and q checked. -/
def packForm (w : VecWord) (b : Bool) : VecForm :=
  moveForm w true b false w.ty.toNat 2 0 false
    (match packWidth w.ty.toNat with | none => true | some n => decide (32 / n ≤ w.fn.toNat))

/-- VPACK (R445, R84). -/
def execVpack (w : VecWord) (s : State) : Out :=
  let n := (packWidth w.ty.toNat).getD 8
  let first := 4 * n * w.fn.toNat
  let per := 32 / n
  issueWord (vecPlan w (packForm w true) fun x => .of (tabulate fun i =>
    if first ≤ i ∧ i < first + 4 * n then
      BitVec.ofNat 32 ((List.range per).foldl
        (fun acc k => acc + (laneAt x.a ((i - first) * per + k)).toNat % 2 ^ n * 2 ^ (n * k)) 0)
    else laneAt x.b i)) s

/-- VUNPK (R445): sign-extended for i8 and i16. -/
def execVunpk (w : VecWord) (s : State) : Out :=
  let n := (packWidth w.ty.toNat).getD 8
  let first := 4 * n * w.fn.toNat
  let per := 32 / n
  issueWord (vecPlan w (packForm w false) fun x => .of (tabulate fun e =>
    let v := (laneAt x.a (first + e / per)).toNat / 2 ^ (n * (e % per)) % 2 ^ n
    if tySigned w.ty.toNat then BitVec.ofInt 32 (signed n v) else BitVec.ofNat 32 v)) s

/-! ### Reduction (R448, R95) -/

/-- n levels of a pairwise tree over lanes. -/
def laneTree (f : Word32 → Word32 → Word32) : Nat → Lanes → Lanes
  | 0, l => l
  | n + 1, l =>
    laneTree f n ((List.range (l.length / 2)).map fun i => f (laneAt l (2 * i)) (laneAt l (2 * i + 1)))

/-- A VRED node (Table 20.9). -/
def redNode (fn : Nat) (l r : Word32) : Word32 :=
  match fn with
  | 0 => rne32 (addF 0 (dec32 l) (dec32 r))
  | 1 => rne32 (minF (dec32 l) (dec32 r))
  | 2 => rne32 (maxF (dec32 l) (dec32 r))
  | 3 => l + r
  | 4 => if l.toInt ≤ r.toInt then l else r
  | 5 => if l.toInt ≤ r.toInt then r else l
  | 6 => if l.toNat ≤ r.toNat then l else r
  | _ => if l.toNat ≤ r.toNat then r else l

/-- What an inactive lane enters as (Table 20.9). -/
def redIdle (fn : Nat) : Word32 :=
  match fn with
  | 0 => 0x80000000
  | 1 => 0x7F800000
  | 2 => 0xFF800000
  | 3 => 0
  | 4 => 0x7FFFFFFF
  | 5 => 0x80000000
  | 6 => 0xFFFFFFFF
  | _ => 0

/-- VRED (R448). -/
def execVred (w : VecWord) (s : State) : Out :=
  let fn := w.fn.toNat
  let form : VecForm :=
    ⟨true, false, false, true, decide (8 ≤ fn), false, 0,
      if fn ≤ 2 then f32Mod w ++ rndMod w ++ satMod w else [], 0, 9, none, []⟩
  issueWord (vecPlan w form fun x =>
    let l := tabulate fun i => if x.active.getLsbD i then laneAt x.a i else redIdle fn
    let v := laneAt (laneTree (redNode fn) 7 l) 0
    .of (tabulate fun _ => v)) s

/-! ### Movement (R436, R440, R446, R450) -/

/-- VPERM (R446). -/
def execVperm (w : VecWord) (s : State) : Out :=
  let w64 := ty64 w.ty.toNat
  issueWord (vecPlan w (moveForm w true true false w.ty.toNat 3 0 true false) fun x => .of (tabulate fun i =>
    let k := laneAt x.b (if w64 then i / 2 * 2 else i)
    if k.getLsbD 31 then 0
    else laneAt x.a (if w64 then 2 * (k.toNat % 64) + i % 2 else k.toNat % 128))) s

/-- Lane i of a shuffle (Table 20.10). -/
def shufLane (fn : Nat) (a b : Lanes) (i : Nat) : Word32 :=
  match fn with
  | 0 => if i % 2 = 0 then laneAt a (i / 2) else laneAt b (i / 2)
  | 1 => if i % 2 = 0 then laneAt a (64 + i / 2) else laneAt b (64 + i / 2)
  | 2 => if i < 64 then laneAt a (2 * i) else laneAt b (2 * (i - 64))
  | 3 => if i < 64 then laneAt a (2 * i + 1) else laneAt b (2 * (i - 64) + 1)
  | 4 => if i < 64 then laneAt a i else laneAt b (i - 64)
  | _ => if i < 64 then laneAt a (64 + i) else laneAt a (i - 64)

/-- VSHUF (R450): `swap` uses SA alone. -/
def execVshuf (w : VecWord) (s : State) : Out :=
  let fn := w.fn.toNat
  issueWord (vecPlan w (moveForm w true (decide (fn ≠ 5)) false w.ty.toNat 2 0 false (decide (6 ≤ fn))) fun x =>
    .of (tabulate (shufLane fn x.a x.b))) s

/-- VBCAST (R436). -/
def execVbcast (w : VecWord) (s : State) : Out :=
  let t := laneType w
  let form := moveForm w true false false t 1 (if ty64 t then 0x3F else 0x7F) true false
  issueWord (vecPlan w { form with warns := laneTypeMod w ++ form.warns } fun x => .of (tabulate fun i =>
    laneAt x.a (if ty64 t then 2 * (w.imm.toNat % 64) + i % 2 else w.imm.toNat % 128))) s

/-- VMOV (R436). -/
def execVmov (w : VecWord) (s : State) : Out :=
  let form := moveForm w true false false (laneType w) 1 0 true false
  issueWord (vecPlan w { form with warns := laneTypeMod w ++ form.warns } fun x => .of (tabulate (laneAt x.a))) s

/-- VSLIDE (R436): it counts lanes whatever the TYPE. -/
def execVslide (w : VecWord) (s : State) : Out :=
  let k := w.imm.toNat % 128
  issueWord (vecPlan w (moveForm w true true false w.ty.toNat 2 0x7F false (decide (2 ≤ w.fn.toNat))) fun x =>
    .of (tabulate fun i =>
      if w.fn = 0 then (if k ≤ i then laneAt x.a (i - k) else laneAt x.b (i + 128 - k))
      else if i + k < 128 then laneAt x.a (i + k) else laneAt x.b (i + k - 128))) s

/-- VIOTA (R440). -/
def execViota (w : VecWord) (s : State) : Out :=
  issueWord (vecPlan w (moveForm w false false false w.ty.toNat 2 (2 ^ 32 - 1) true (decide (w.ty ≠ 9) && decide (w.ty ≠ 13)))
    fun _ => .of (tabulate fun i => w.imm + BitVec.ofNat 32 i)) s

/-- VXS (R436): it counts lanes whatever the TYPE. -/
def execVxs (w : VecWord) (s : State) : Out :=
  let k := w.imm.toNat % 128
  let j := w.imm.toNat / 256 % 128
  issueWord (vecPlan w (moveForm w true true false w.ty.toNat 2 0x7F7F true false) fun x => .of (tabulate fun i =>
    if i = k then laneAt x.b j else laneAt x.a i)) s

end Sys2Proof.Machine
end

