-- ==== Sys2Proof/Machine/Feed.lean ====
section
/-!
DEFINITION. L's feed port and S's store port: VLD, OBLD and VST, and their own steps (R405, R406, R441 to R443, R451, R452).
-/

namespace Sys2Proof.Machine

open Sys2Proof

/-! ### Decant bits (Table 10.8) -/

/-- The six decant bits. -/
def decantBits (w : XferWord) : Nat := w.fn.toNat % 64
/-- `.dec`. -/
def decDec (w : XferWord) : Bool := w.fn.getLsbD 0
/-- `.gcm`. -/
def decGcm (w : XferWord) : Bool := w.fn.getLsbD 1
/-- `.tr8`. -/
def decTr8 (w : XferWord) : Bool := w.fn.getLsbD 2
/-- `.tr16`. -/
def decTr16 (w : XferWord) : Bool := w.fn.getLsbD 3
/-- `.topk`. -/
def decTopk (w : XferWord) : Bool := w.fn.getLsbD 4
/-- `.zfill`. -/
def decZfill (w : XferWord) : Bool := w.fn.getLsbD 5

/-- Whether more than one qualifier of order 3 is set (R186). -/
def decSeveral (w : XferWord) : Bool :=
  decide (1 < [decTr8 w, decTr16 w, decTopk w, decZfill w].countP id)

/-! ### Ranges -/

/-- The local address A + OFF21, a sum of integers (R10, R405, R441, R451). -/
def xferLocal (w : XferWord) (s : State) : Nat := (regHere s w.a).val.toNat + w.off.toNat

/-- The stride of VLD and VST: 512 where B = 0, else the register's value with its bits [5:0] ignored (R441). -/
def xferStride (w : XferWord) (s : State) : Nat :=
  if w.b = 0 then 512 else ((regHere s w.b).val &&& ~~~63#64).toNat

/-- Whether ignored stride bits are nonzero. -/
def strideLow (w : XferWord) (s : State) : Bool := decide (w.b ≠ 0) && decide ((regHere s w.b).val.toNat % 64 ≠ 0)

/-- b_k, a sum of integers (R10, R441). -/
def entryAddr (base stride k : Nat) : Nat := base + k * stride

/-- The first of the entries' ranges that runs past 2^21 or outside its class's set. -/
def badEntry (c : Core) (cls_ cyc : Nat) (rd wr : Bool) (n base stride len : Nat) : Option Nat :=
  ((List.range n).map (entryAddr base stride)).find? fun b =>
    decide (2 ^ 21 < b + len) || !phaseOk c cls_ cyc rd wr b len

/-! ### VLD -/

/-- The entries that L's commands issued so far have still to push into lq (R443). -/
def lqClaims (c : Core) : Nat := (c.lqOrder.map (·.2)).sum

/-- Whether lq has a slot neither filled nor claimed by an earlier command (R443). -/
def lqFree (c : Core) (cyc : Nat) : Bool := decide (c.lq.places.length + poppedNow c.lq cyc + lqClaims c < 8)

/-- The effect of VLD at issue (R441, R442). -/
def vldAct (w : XferWord) (s : State) : Except Raise (State × Flow) :=
  let nv := regHere s w.c
  let n := nv.val.toNat
  let base := xferLocal w s
  let stride := xferStride w s
  if !nv.static then .error (Raise.of 0x14)
  else if 4096 < n then .error (Raise.at_ 0x21 base base)
  else
    match badEntry (getCore s s.turn.core) 1 s.cyc true false n base stride 512 with
    | some b => .error (Raise.at_ 0x26 b b)
    | none =>
      let id := (freshId s).1
      let s1 := warnHereIf (strideLow w s) warnMod (freshId s).2
      .ok (goOn (updCore s1 s.turn.core fun c =>
        { c with feedQ := c.feedQ ++ [⟨id, true, s.cyc, n, base, stride, 0, false, none, 0, s.cyc, []⟩],
                 lqOrder := if n = 0 then c.lqOrder else c.lqOrder ++ [(id, n)] }))

/-- VLD (R441 to R443). -/
def execVld (w : XferWord) (s : State) : Out :=
  let mbz := decide (w.fn.toNat / 64 ≠ 0) || decide (w.imm ≠ 0)
  issueWord { WordPlan.plain 3 [.l] mbz (decide (w.q ≠ 0) || xferRegBad s [w.a, w.b, w.c])
      [destHere s w.a, destHere s w.b, destHere s w.c] [] (vldAct w) with
    warns := (if mbz then [warnMbz] else []) ++ (if decantBits w ≠ 0 then [warnDec] else [])
    stall := fun s =>
      let c := getCore s s.turn.core
      waitIf (decide ((regHere s w.c).val ≠ 0) && !lqFree c s.cyc) (pushOf 0 c.lq) } s

/-! ### OBLD -/

/-- The bytes an OBLD may load: a multiple of 64, at most its area (R405). -/
def obldCountOk (n : Nat) (scale : Bool) : Bool :=
  decide (n % 64 = 0) && decide (64 ≤ n) && decide (n ≤ if scale then 4096 else 32768)

/-- The effect of OBLD at issue (R405). -/
def obldAct (w : XferWord) (s : State) : Except Raise (State × Flow) :=
  let nv := regHere s w.c
  let n := nv.val.toNat
  let base := xferLocal w s
  let scale := w.fn.getLsbD 6
  let bar : Except Raise (Option BarRef) :=
    if w.fn.getLsbD 7 then (barrierRef s (regHere s w.b).val (w.imm.toNat % 2 ^ 21)).map some else .ok none
  if !nv.static then .error (Raise.of 0x14)
  else if !obldCountOk n scale then .error (Raise.at_ 0x21 base base)
  else if 2 ^ 21 < base + n || !phaseOk (getCore s s.turn.core) 1 s.cyc true false base n then
    .error (Raise.at_ 0x26 base base)
  else
    match bar with
    | .error r => .error r
    | .ok b =>
      .ok (goOn (updCore (freshId s).2 s.turn.core fun c =>
        { c with feedQ := c.feedQ ++
            [⟨(freshId s).1, false, s.cyc, n, base, 512, w.q.toNat, scale, b, 0, s.cyc, []⟩] }))

/-- OBLD (R405): with BV = 0 the B field is ignored (R258). -/
def execObld (w : XferWord) (s : State) : Out :=
  let bv := w.fn.getLsbD 7
  let mbz := decide (w.fn.toNat / 256 ≠ 0) || decide (w.imm.toNat / 2 ^ 21 ≠ 0) ||
    (!bv && (decide (w.b ≠ 0) || decide (w.imm ≠ 0)))
  let rs := if bv then [w.a, w.b, w.c] else [w.a, w.c]
  issueWord { WordPlan.plain 3 [.l] mbz (decide (4 ≤ w.q.toNat) || xferRegBad s rs) (rs.map (destHere s)) [] (obldAct w) with
    warns := (if mbz then [warnMbz] else []) ++ (if decantBits w ≠ 0 then [warnDec] else []) } s

/-! ### The feed port -/

/-- The feed port's command, and the earliest cycle of its next action (R405, R442). -/
def feedHead (c : Core) : Option (FeedCmd × Nat) :=
  match c.feedQ with
  | f :: _ => some (f, max f.pos c.feedFree)
  | [] => none

/-- Whether the lq slot of a command's next entry is free (R442, R443). -/
def lqTurn (c : Core) (id cyc : Nat) : Bool := (c.lqOrder.head?).any (·.1 = id) && roomFor c.lq 8 1 cyc

/-- Whether a VLD acts in the cycle: its next push, or its completion with no entry. -/
def vldDue (c : Core) (cyc : Nat) : Bool :=
  match feedHead c with
  | some (f, t) => f.isLoad && decide (t ≤ cyc) && (decide (f.n = 0) || lqTurn c f.id cyc)
  | none => false

/-- The order of R443 after one more entry of a command. -/
def lqPushed (o : List (Nat × Nat)) : List (Nat × Nat) :=
  match o with
  | (id, k + 2) :: rest => (id, k + 1) :: rest
  | _ :: rest => rest
  | [] => []

/-- VLD_ENTRY_PUSH (R442): the next entry, read and pushed in the cycle; the last one completes the VLD. -/
def execVldEntryPush (core : Nat) (s : State) : Out :=
  let c := getCore s core
  match vldDue c s.cyc, c.feedQ with
  | true, f :: rest =>
    if f.n = 0 then .next (setCore s core { c with feedQ := rest, feedFree := s.cyc })
    else
      let v := packLanes (lanesOfBytes (spadRead c core (.seq .l) s.cyc (entryAddr f.base f.stride f.next) 512))
      let c1 : Core := { c with lq := pushQ c.lq v s.cyc, lqOrder := lqPushed c.lqOrder }
      if f.next + 1 < f.n then
        .next (setCore s core { c1 with feedQ := { f with next := f.next + 1, pos := s.cyc + 1 } :: rest })
      else .next (setCore s core { c1 with feedQ := rest, feedFree := s.cyc + 1 })
  | _, _ => .next s

/-- Whether an OBLD acts in the cycle. -/
def obldDue (c : Core) (cyc : Nat) : Bool :=
  match feedHead c with
  | some (f, t) => !f.isLoad && decide (t ≤ cyc)
  | none => false

/-- The bytes that an OBLD reads in its cycle: its next 512, and the rest of the 8-byte word in which they end (R219, R405). -/
def obldRead (c : Core) (core cyc : Nat) (f : FeedCmd) : List Byte :=
  let stop := min (ceilDiv (f.base + 512 * (f.next + 1)) 8 * 8) (f.base + f.n)
  spadRead c core (.seq .l) cyc (f.base + f.data.length) (stop - (f.base + f.data.length))

/-- OBLD_COMPLETION (R405, R406): 512 bytes read in the cycle; in the last cycle the buffer is written, which later cycles see, and
the arrival posted. -/
def execObldCompletion (core : Nat) (s : State) : Out :=
  let c := getCore s core
  match obldDue c s.cyc, c.feedQ with
  | true, f :: rest =>
    let data := f.data ++ obldRead c core s.cyc f
    if 512 * (f.next + 1) < f.n then
      .next (setCore s core { c with feedQ := { f with next := f.next + 1, pos := s.cyc + 1, data := data } :: rest })
    else
      .next (postArrival (setCore s core
        { c with feedQ := rest, feedFree := s.cyc + 1, obNext := c.obNext ++ [(f.buf, f.scale, data)] })
        core .feed f.barrier f.n false)
  | _, _ => .next s

/-- A core whose OBLDs of the cycle have written their buffers (R406). -/
def applyOb (c : Core) : Core :=
  c.obNext.foldl (fun c e =>
    if e.2.1 then { c with obScale := smSet [] c.obScale e.1 (memWrite (smGet [] c.obScale e.1) 0 e.2.2) }
    else { c with ob := smSet [] c.ob e.1 (memWrite (smGet [] c.ob e.1) 0 e.2.2) }) { c with obNext := [] }

/-! ### VST -/

/-- The k of `.topk` where it applies to a VST (R451, R186). -/
def vstTopk (w : XferWord) : Option Nat := if decTopk w && !decZfill w then some (w.imm.toNat % 64 + 1) else none

/-- The bytes of an entry's destination (R451). -/
def vstLen (w : XferWord) : Nat := match vstTopk w with | some k => 8 * k | none => 512

/-- The stride of a VST's destinations (R451). -/
def vstStride (w : XferWord) (s : State) : Nat := match vstTopk w with | some k => 8 * k | none => xferStride w s

/-- The effect of VST at issue (R451, R452). -/
def vstAct (w : XferWord) (s : State) : Except Raise (State × Flow) :=
  let nv := regHere s w.c
  let n := nv.val.toNat
  let base := xferLocal w s
  let stride := vstStride w s
  if !nv.static then .error (Raise.of 0x14)
  else if 4096 < n then .error (Raise.at_ 0x21 base base)
  else
    match badEntry (getCore s s.turn.core) 2 s.cyc false true n base stride (vstLen w) with
    | some b => .error (Raise.at_ 0x26 b b)
    | none =>
      let id := (freshId s).1
      let s1 := warnHereIf (strideLow w s) warnMod (freshId s).2
      .ok (goOn (if n = 0 then s1 else updCore s1 s.turn.core fun c =>
        { c with storeQ := c.storeQ ++ [⟨id, s.cyc, n, base, stride, decZfill w, vstTopk w, 0, s.cyc⟩],
                 takers := c.takers ++ [id] }))

/-- VST (R451, R452). -/
def execVst (w : XferWord) (s : State) : Out :=
  let mbz := decide (w.fn.toNat / 64 ≠ 0) || decide (w.imm.toNat / (if decTopk w then 64 else 1) ≠ 0)
  let ignored := decDec w || decGcm w || decTr8 w || decTr16 w || decSeveral w
  issueWord { WordPlan.plain 3 [.s] mbz
      (decide (w.q ≠ 0) || xferRegBad s [w.a, w.b, w.c] || ((vstTopk w).isSome && decide (w.b ≠ 0)))
      [destHere s w.a, destHere s w.b, destHere s w.c] [] (vstAct w) with
    warns := (if mbz then [warnMbz] else []) ++ (if ignored then [warnDec] else [])
    stall := fun s =>
      let c := getCore s s.turn.core
      waitIf (!c.takers.isEmpty || (decide ((regHere s w.c).val ≠ 0) && (headOf c.sq s.cyc).isNone)) (popOf 1 c.sq) } s

/-- Whether the store port pops an entry in the cycle (R452). -/
def vstDue (c : Core) (cyc : Nat) : Bool :=
  match c.storeQ with
  | v :: _ => decide (max v.pos c.storeFree ≤ cyc) && mayTake c v.id && (headOf c.sq cyc).isSome
  | [] => false

/-- The bytes an entry writes (R452). -/
def vstBytes (v : StoreCmd) (l : Lanes) : List Byte :=
  if v.zfill then List.replicate 512 0
  else
    match v.topk with
    | some k => topkBytes k l
    | none => bytesOfLanes l

/-- VST_ENTRY_POP (R452): an entry is popped and written; under `.topk k` its write takes 4k cycles more. -/
def execVstEntryPop (core : Nat) (s : State) : Out :=
  let c := getCore s core
  match vstDue c s.cyc, c.storeQ, headOf c.sq s.cyc with
  | true, v :: rest, some l =>
    let t := s.cyc + match v.topk with | some k => 4 * k | none => 0
    let last := decide (v.n ≤ v.next + 1)
    let c1 : Core := { c with
      sq := popQ c.sq s.cyc, storeDone := max c.storeDone (t + 8), storeFree := s.cyc + 1,
      storeQ := if last then rest else { v with next := v.next + 1, pos := s.cyc + 1 } :: rest }
    let c2 := if last then doneTaking c1 v.id else c1
    .next (writeSpad (setCore s core c2) core core c.lidx (.seq .s) t (entryAddr v.base v.stride v.next) (vstBytes v l) 0)
  | _, _, _ => .next s

end Sys2Proof.Machine
end

