-- ==== Sys2Proof/Machine/Crypto.lean ====
section
/-!
DEFINITION. The published functions the manual names: AES (FIPS 197), AES-GCM (SP 800-38D), AES-CMAC (SP 800-38B), XTS-AES
(IEEE 1619), SHA-256 (FIPS 180-4), HMAC, HKDF-SHA256, and P-256 key agreement and ECDSA (R111, R114, R188, R286, R289,
R305, R313, R316). Bytes stand lowest address first. PRESUMED: the functions themselves are the standards' (log 31).
-/

namespace Sys2Proof.Machine

open Sys2Proof

/-! ### AES -/

/-- The S-box, entry i at bits 8i. -/
def sboxTable : Nat :=
    0x16bb54b00f2d99416842e6bf0d89a18cdf2855cee9871e9b948ed9691198f8e1 * 2 ^ 1792 +
    0x9e1dc186b95735610ef6034866b53e708a8bbd4b1f74dde8c6b4a61c2e2578ba * 2 ^ 1536 +
    0x08ae7a65eaf4566ca94ed58d6d37c8e779e4959162acd3c25c2406490a3a32e0 * 2 ^ 1280 +
    0xdb0b5ede14b8ee4688902a22dc4f816073195d643d7ea7c41744975fec130ccd * 2 ^ 1024 +
    0xd2f3ff1021dab6bcf5389d928f40a351a89f3c507f02f94585334d43fbaaefd0 * 2 ^ 768 +
    0xcf584c4a39becb6a5bb1fc20ed00d153842fe329b3d63b52a05a6e1b1a2c8309 * 2 ^ 512 +
    0x75b227ebe28012079a059618c323c7041531d871f1e5a534ccf73f362693fdb7 * 2 ^ 256 +
    0xc072a49cafa2d4adf04759fa7dc982ca76abd7fe2b670130c56f6bf27b777c63

/-- The inverse S-box, entry i at bits 8i. -/
def invSboxTable : Nat :=
    0x7d0c2155631469e126d677ba7e042b17619953833cbbebc8b0f52aae4d3be0a0 * 2 ^ 1792 +
    0xef9cc9939f7ae52d0d4ab519a97f51605fec8027591012b131c7078833a8dd1f * 2 ^ 1536 +
    0xf45acd78fec0db9a2079d2c64b3e56fc1bbe18aa0e62b76f89c5291d711af147 * 2 ^ 1280 +
    0x6edf751ce837f9e28535ade72274ac9673e6b4f0cecff297eadc674f4111913a * 2 ^ 1024 +
    0x6b8a130103bdafc1020f3fca8f1e2cd00645b3b80558e4f70ad3bc8c00abd890 * 2 ^ 768 +
    0x849d8da75746155edab9edfd5048706c92b6655dcc5ca4d41698688664f6f872 * 2 ^ 512 +
    0x25d18b6d49a25b76b224d92866a12e084ec3fa420b954cee3d23c2a632947b54 * 2 ^ 256 +
    0xcbe9dec444438e3487ff2f9b8239e37cfbd7f3819ea340bf38a53630d56a0952

/-- An entry of a table of bytes. -/
def tableByte (t i : Nat) : Nat := (t >>> (8 * i)) % 256

/-- Multiplication by x in the field of AES. -/
def xtime (b : Nat) : Nat := if 128 ≤ b then (2 * b) ^^^ 0x11B else 2 * b

/-- Multiplication in the field of AES by a constant below 16. -/
def gmul (k b : Nat) : Nat :=
  let b2 := xtime b
  let b4 := xtime b2
  let b8 := xtime b4
  (if k.testBit 0 then b else 0) ^^^ (if k.testBit 1 then b2 else 0) ^^^ (if k.testBit 2 then b4 else 0) ^^^
    (if k.testBit 3 then b8 else 0)

/-- Two lists of numbers, exclusive-or. -/
def xorList (a b : List Nat) : List Nat := List.zipWith (· ^^^ ·) a b

/-- A column of MixColumns with the coefficients of its first row. -/
def mixColumn (k0 k1 k2 k3 : Nat) : List Nat → List Nat
  | [a, b, c, d] =>
    [gmul k0 a ^^^ gmul k1 b ^^^ gmul k2 c ^^^ gmul k3 d, gmul k3 a ^^^ gmul k0 b ^^^ gmul k1 c ^^^ gmul k2 d,
      gmul k2 a ^^^ gmul k3 b ^^^ gmul k0 c ^^^ gmul k1 d, gmul k1 a ^^^ gmul k2 b ^^^ gmul k3 c ^^^ gmul k0 d]
  | l => l

/-- The four columns of a block. -/
def columnsOf (s : List Nat) : List (List Nat) := [s.take 4, (s.drop 4).take 4, (s.drop 8).take 4, s.drop 12]

/-- MixColumns, or its inverse. -/
def mixColumns (inv : Bool) (s : List Nat) : List Nat :=
  (columnsOf s).flatMap (if inv then mixColumn 14 11 13 9 else mixColumn 2 3 1 1)

/-- ShiftRows, or its inverse. -/
def shiftRows (inv : Bool) (s : List Nat) : List Nat :=
  (List.range 16).map fun i => s.getD ((i + 4 * (if inv then 16 - i % 4 else i % 4)) % 16) 0

/-- SubBytes with a table. -/
def subBytes (t : Nat) (s : List Nat) : List Nat := s.map (tableByte t)

/-- The key schedule's words from word i on: `ws` holds those so far, the last first. -/
def expandFrom (nk : Nat) : Nat → Nat → Nat → List (List Nat) → List (List Nat)
  | 0, _, _, ws => ws
  | n + 1, i, rcon, ws =>
    let t := ws.headD []
    let u :=
      if i % nk = 0 then xorList (subBytes sboxTable (t.drop 1 ++ t.take 1)) [rcon, 0, 0, 0]
      else if 6 < nk ∧ i % nk = 4 then subBytes sboxTable t
      else t
    expandFrom nk n (i + 1) (if i % nk = 0 then xtime rcon else rcon) (xorList (ws.getD (nk - 1) []) u :: ws)

/-- The words of a key, the last first. -/
def keyWords : List Nat → List (List Nat) → List (List Nat)
  | a :: b :: c :: d :: rest, acc => keyWords rest ([a, b, c, d] :: acc)
  | _, acc => acc

/-- The round keys of a 16- or 32-byte key. -/
def roundKeys (key : List Byte) : List (List Nat) :=
  let nk := key.length / 4
  let ws := (expandFrom nk (4 * (nk + 7) - nk) nk 1 (keyWords (key.map (·.toNat)) [])).reverse
  (List.range (nk + 7)).map fun r => ((ws.drop (4 * r)).take 4).flatten

/-- The rounds of encryption, the last one without MixColumns. -/
def encRounds : List (List Nat) → List Nat → List Nat
  | [], s => s
  | [k], s => xorList (shiftRows false (subBytes sboxTable s)) k
  | k :: ks, s => encRounds ks (xorList (mixColumns false (shiftRows false (subBytes sboxTable s))) k)

/-- One block encrypted under round keys. -/
def aesEncrypt (rks : List (List Nat)) (b : List Nat) : List Nat := encRounds (rks.drop 1) (xorList b (rks.headD []))

/-- The rounds of decryption; `rks` the round keys last first, the first one used already. -/
def decRounds : List (List Nat) → List Nat → List Nat
  | [], s => s
  | [k], s => xorList (subBytes invSboxTable (shiftRows true s)) k
  | k :: ks, s => decRounds ks (mixColumns true (xorList (subBytes invSboxTable (shiftRows true s)) k))

/-- One block decrypted under round keys. -/
def aesDecrypt (rks : List (List Nat)) (b : List Nat) : List Nat :=
  decRounds (rks.reverse.drop 1) (xorList b (rks.reverse.headD []))

/-- The numbers of a byte list. -/
def natsOf (bs : List Byte) : List Nat := bs.map (·.toNat)

/-- The bytes of a number list. -/
def bytesOf (l : List Nat) : List Byte := l.map (BitVec.ofNat 8)

/-- A block as a big-endian number. -/
def blockNat (l : List Nat) : Nat := l.foldl (fun acc b => acc * 256 + b) 0

/-- A number as a big-endian block. -/
def natBlock (n : Nat) : List Nat := (List.range 16).map fun i => (n >>> (8 * (15 - i))) % 256

/-! ### GCM -/

/-- The product of x and the first bits of y in the field of GHASH; bit 127 is the first. -/
def ghashMul : Nat → Nat → Nat → Nat → Nat
  | 0, _, _, z => z
  | n + 1, y, v, z =>
    ghashMul n y (if v % 2 = 1 then (v / 2) ^^^ (0xE1 * 2 ^ 120) else v / 2) (if y.testBit n then z ^^^ v else z)

/-- GHASH over whole blocks. -/
def ghash (h : Nat) (blocks : List Nat) : Nat := blocks.foldl (fun x b => ghashMul 128 (x ^^^ b) h 0) 0

/-- Bytes cut into blocks of 16, the last padded with zeros, as numbers. -/
def ghashBlocks (bs : List Byte) : List Nat :=
  (chunkBytes 16 (ceilDiv bs.length 16) bs).map fun c => blockNat (natsOf c)

/-- The counter-mode stream from a counter on, exclusive-or the data. -/
def ctrBlocks (rks : List (List Nat)) (base : Nat) : Nat → Nat → List Byte → List Byte
  | 0, _, _ => []
  | n + 1, c, bs =>
    List.zipWith (· ^^^ ·) (bs.take 16) (bytesOf (aesEncrypt rks (natBlock (base * 2 ^ 32 + c % 2 ^ 32)))) ++
      ctrBlocks rks base n (c + 1) (bs.drop 16)

/-- Counter mode of GCM under a 96-bit IV: encryption and decryption. -/
def gcmCrypt (key iv bs : List Byte) : List Byte :=
  ctrBlocks (roundKeys key) (blockNat (natsOf iv)) (ceilDiv bs.length 16) 2 bs

/-- The tag of GCM over additional data and ciphertext. -/
def gcmTag (key iv aad ct : List Byte) : List Byte :=
  let rks := roundKeys key
  let h := blockNat (aesEncrypt rks (List.replicate 16 0))
  let s := ghash h (ghashBlocks aad ++ ghashBlocks ct ++ [8 * aad.length * 2 ^ 64 + 8 * ct.length])
  bytesOf (xorList (natBlock s) (aesEncrypt rks (natBlock (blockNat (natsOf iv) * 2 ^ 32 + 1))))

/-- AES-GCM open: the plaintext where the tag matches. -/
def gcmOpen (key iv aad ct tag : List Byte) : Option (List Byte) :=
  if gcmTag key iv aad ct = tag then some (gcmCrypt key iv ct) else none

/-! ### CMAC and XTS -/

/-- Doubling in the field of CMAC. -/
def cmacDouble (n : Nat) : Nat := if n.testBit 127 then (2 * n % 2 ^ 128) ^^^ 0x87 else 2 * n

/-- AES-CMAC. -/
def aesCmac (key msg : List Byte) : List Byte :=
  let rks := roundKeys key
  let k1 := cmacDouble (blockNat (aesEncrypt rks (List.replicate 16 0)))
  let n := max 1 (ceilDiv msg.length 16)
  let last := msg.drop (16 * (n - 1))
  let final : Nat :=
    if last.length = 16 then blockNat (natsOf last) ^^^ k1
    else blockNat (natsOf (sliceBytes (last ++ [0x80]) 0 16)) ^^^ cmacDouble k1
  let blocks := ((chunkBytes 16 (n - 1) msg).map fun c => blockNat (natsOf c)) ++ [final]
  bytesOf (blocks.foldl (fun x b => aesEncrypt rks (natBlock (blockNat x ^^^ b))) (List.replicate 16 0))

/-- Multiplication of an XTS tweak, little-endian, by the primitive element. -/
def xtsNext (t : Nat) : Nat := if t.testBit 127 then (2 * t % 2 ^ 128) ^^^ 0x87 else 2 * t

/-- The blocks of an XTS data unit under a tweak. -/
def xtsBlocks (f : List Nat → List Nat) : Nat → Nat → List Byte → List Byte
  | 0, _, _ => []
  | n + 1, t, bs =>
    let tb := natsOf (leBytes 16 t)
    bytesOf (xorList (f (xorList (natsOf (bs.take 16)) tb)) tb) ++ xtsBlocks f n (xtsNext t) (bs.drop 16)

/-- XTS-AES-256 of a whole number of blocks: the key's first half for the data, its second for the tweak. -/
def xtsCrypt (enc : Bool) (key : List Byte) (tweak : Nat) (bs : List Byte) : List Byte :=
  let rks := roundKeys (key.take 32)
  let t := aesEncrypt (roundKeys (key.drop 32)) (natsOf (leBytes 16 tweak))
  xtsBlocks (if enc then aesEncrypt rks else aesDecrypt rks) (bs.length / 16) (leNat (bytesOf t)) bs

/-! ### SHA-256 -/

/-- The round constants, constant i at bits 32i. -/
def shaK : Nat :=
    0xc67178f2bef9a3f7a4506ceb90befffa8cc7020884c8781478a5636f748f82ee * 2 ^ 1792 +
    0x682e6ff35b9cca4f4ed8aa4a391c0cb334b0bcb52748774c1e376c0819a4c116 * 2 ^ 1536 +
    0x106aa070f40e3585d6990624d192e819c76c51a3c24b8b70a81a664ba2bfe8a1 * 2 ^ 1280 +
    0x92722c8581c2c92e766a0abb650a735453380d134d2c6dfc2e1b213827b70a85 * 2 ^ 1024 +
    0x1429296706ca6351d5a79147c6e00bf3bf597fc7b00327c8a831c66d983e5152 * 2 ^ 768 +
    0x76f988da5cb0a9dc4a7484aa2de92c6f240ca1cc0fc19dc6efbe4786e49b69c1 * 2 ^ 512 +
    0xc19bf1749bdc06a780deb1fe72be5d74550c7dc3243185be12835b01d807aa98 * 2 ^ 256 +
    0xab1c5ed5923f82a459f111f13956c25be9b5dba5b5c0fbcf71374491428a2f98

/-- The initial hash value, word i at bits 32i. -/
def shaH : Nat :=
    0x5be0cd191f83d9ab9b05688c510e527fa54ff53a3c6ef372bb67ae856a09e667

/-- A 32-bit rotation to the right. -/
def rotr (n x : Nat) : Nat := (x >>> n) ||| ((x <<< (32 - n)) % 2 ^ 32)

/-- The message schedule: words so far, the last first, and n more. -/
def shaSchedule : Nat → List Nat → List Nat
  | 0, ws => ws
  | n + 1, ws =>
    let w15 := ws.getD 14 0
    let w2 := ws.getD 1 0
    let s0 := rotr 7 w15 ^^^ rotr 18 w15 ^^^ (w15 >>> 3)
    let s1 := rotr 17 w2 ^^^ rotr 19 w2 ^^^ (w2 >>> 10)
    shaSchedule n ((ws.getD 15 0 + s0 + ws.getD 6 0 + s1) % 2 ^ 32 :: ws)

/-- The rounds from constant i on. -/
def shaRounds : List Nat → Nat → List Nat → List Nat
  | [], _, v => v
  | w :: ws, i, [a, b, c, d, e, f, g, h] =>
    let s1 := rotr 6 e ^^^ rotr 11 e ^^^ rotr 25 e
    let ch := (e &&& f) ^^^ ((2 ^ 32 - 1 - e) &&& g)
    let t1 := h + s1 + ch + (shaK >>> (32 * i)) % 2 ^ 32 + w
    let s0 := rotr 2 a ^^^ rotr 13 a ^^^ rotr 22 a
    let maj := (a &&& b) ^^^ (a &&& c) ^^^ (b &&& c)
    shaRounds ws (i + 1) [(t1 + s0 + maj) % 2 ^ 32, a, b, c, (d + t1) % 2 ^ 32, e, f, g]
  | _, _, v => v

/-- One block of 64 bytes. -/
def shaBlock (h : List Nat) (b : List Byte) : List Nat :=
  let ws := (List.range 16).map fun i => beNat (sliceBytes b (4 * i) 4)
  List.zipWith (fun x y => (x + y) % 2 ^ 32) h (shaRounds (shaSchedule 48 ws.reverse).reverse 0 h)

/-- SHA-256. -/
def sha256 (msg : List Byte) : List Byte :=
  let padLen := (119 - msg.length % 64) % 64
  let m := msg ++ [0x80] ++ List.replicate padLen 0 ++ beBytes 8 (8 * msg.length)
  let h0 := (List.range 8).map fun i => (shaH >>> (32 * i)) % 2 ^ 32
  ((chunkBytes 64 (m.length / 64) m).foldl shaBlock h0).flatMap (beBytes 4)

/-- HMAC-SHA256. -/
def hmacSha256 (key msg : List Byte) : List Byte :=
  let k := sliceBytes (if 64 < key.length then sha256 key else key) 0 64
  sha256 (k.map (· ^^^ 0x5C) ++ sha256 (k.map (· ^^^ 0x36) ++ msg))

/-- HKDF-SHA256 with 32 bytes of output. -/
def hkdf32 (salt ikm info : List Byte) : List Byte := hmacSha256 (hmacSha256 salt ikm) (info ++ [1])

/-! ### P-256 -/

/-- The field prime. -/
def p256P : Nat := 0xffffffff00000001000000000000000000000000ffffffffffffffffffffffff
/-- The group order. -/
def p256N : Nat := 0xffffffff00000000ffffffffffffffffbce6faada7179e84f3b9cac2fc632551
/-- The coefficient b. -/
def p256B : Nat := 0x5ac635d8aa3a93e7b3ebbd55769886bc651d06b0cc53b0f63bce3c3e27d2604b
/-- The base point's x. -/
def p256Gx : Nat := 0x6b17d1f2e12c4247f8bce6e563a440f277037d812deb33a0f4a13945d898c296
/-- The base point's y. -/
def p256Gy : Nat := 0x4fe342e2fe1a7f9b8ee7eb4a7c0f9e162bce33576b315ececbb6406837bf51f5

/-- b^e mod m over the low n bits of e, the most significant first. -/
def powMod (m b e : Nat) : Nat → Nat → Nat
  | 0, acc => acc
  | n + 1, acc =>
    let sq := acc * acc % m
    powMod m b e n (if e.testBit n then sq * b % m else sq)

/-- The inverse modulo a prime below 2^256. -/
def invMod (m a : Nat) : Nat := powMod m (a % m) (m - 2) 256 1

/-- A point in Jacobian coordinates; z = 0 is the point at infinity. -/
abbrev JPoint := Nat × Nat × Nat

/-- Subtraction modulo m. -/
def subMod (m a b : Nat) : Nat := (a + (m - b % m)) % m

/-- Doubling. -/
def jDouble (p : JPoint) : JPoint :=
  let (x, y, z) := p
  let m := p256P
  if z = 0 ∨ y = 0 then (1, 1, 0)
  else
    let yy := y * y % m
    let s := 4 * x * yy % m
    let zz := z * z % m
    let k := 3 * (subMod m x zz) * ((x + zz) % m) % m
    let x3 := subMod m (k * k) (2 * s)
    (x3, subMod m (k * subMod m s x3) (8 * yy * yy), 2 * y * z % m)

/-- Addition. -/
def jAdd (p q : JPoint) : JPoint :=
  let (x1, y1, z1) := p
  let (x2, y2, z2) := q
  let m := p256P
  if z1 = 0 then q
  else if z2 = 0 then p
  else
    let zz1 := z1 * z1 % m
    let zz2 := z2 * z2 % m
    let u1 := x1 * zz2 % m
    let u2 := x2 * zz1 % m
    let s1 := y1 * zz2 * z2 % m
    let s2 := y2 * zz1 * z1 % m
    let h := subMod m u2 u1
    let r := subMod m s2 s1
    if h = 0 then (if r = 0 then jDouble p else (1, 1, 0))
    else
      let hh := h * h % m
      let hhh := h * hh % m
      let v := u1 * hh % m
      let x3 := subMod m (r * r) (hhh + 2 * v)
      (x3, subMod m (r * subMod m v x3) (s1 * hhh), h * z1 * z2 % m)

/-- The multiple of a point by the low n bits of k, the most significant first. -/
def jMul (p : JPoint) (k : Nat) : Nat → JPoint → JPoint
  | 0, acc => acc
  | n + 1, acc => jMul p k n (if k.testBit n then jAdd (jDouble acc) p else jDouble acc)

/-- The affine coordinates of a point that is not at infinity. -/
def jAffine (p : JPoint) : Option (Nat × Nat) :=
  let (x, y, z) := p
  if z = 0 then none
  else
    let i := invMod p256P z
    some (x * (i * i % p256P) % p256P, y * (i * i % p256P * i % p256P) % p256P)

/-- k times an affine point. -/
def p256Mul (k x y : Nat) : Option (Nat × Nat) := jAffine (jMul (x, y, 1) k 256 (1, 1, 0))

/-- Whether a pair lies on the curve. -/
def p256OnCurve (x y : Nat) : Bool :=
  decide (x < p256P) && decide (y < p256P) &&
    decide (y * y % p256P = (x * x * x + (p256P - 3) * x + p256B) % p256P)

/-- The public key of a private scalar, X then Y, big-endian. -/
def p256Public (d : Nat) : List Byte :=
  match p256Mul d p256Gx p256Gy with
  | some (x, y) => beBytes 32 x ++ beBytes 32 y
  | none => List.replicate 64 0

/-- ECDH: the x-coordinate of d times the peer's key, where that key is on the curve. -/
def p256Ecdh (d x y : Nat) : Option (List Byte) :=
  if p256OnCurve x y then (p256Mul d x y).map fun p => beBytes 32 p.1 else none

/-- P256KeyFromSeed (R316). -/
def p256KeyFromSeed (seed : List Byte) : Nat := beNat seed % (p256N - 1) + 1

/-- ECDSA verification of a 32-byte digest. -/
def ecdsaVerify (x y : Nat) (digest : List Byte) (r t : Nat) : Bool :=
  if !(p256OnCurve x y) || decide (r = 0) || decide (t = 0) || decide (p256N ≤ r) || decide (p256N ≤ t) then false
  else
    let w := invMod p256N t
    let u1 := beNat digest * w % p256N
    let u2 := r * w % p256N
    match jAffine (jAdd (jMul (p256Gx, p256Gy, 1) u1 256 (1, 1, 0)) (jMul (x, y, 1) u2 256 (1, 1, 0))) with
    | some p => decide (p.1 % p256N = r)
    | none => false

/-- ECDSA signature of a 32-byte digest with a nonce scalar, r then s, big-endian. -/
def ecdsaSign (d k : Nat) (digest : List Byte) : List Byte :=
  match p256Mul k p256Gx p256Gy with
  | some p =>
    let r := p.1 % p256N
    beBytes 32 r ++ beBytes 32 (invMod p256N k * ((beNat digest + r * d) % p256N) % p256N)
  | none => List.replicate 64 0

end Sys2Proof.Machine
end

