-- ==== Sys2Proof/Machine/Lines.lean ====
section
/-!
DEFINITION. Lines of package memory: their side-band bits, the check on delivery and its correction, encryption and the
plaintext boundary (R100, R101, R111 to R118, R121, R123).
-/

namespace Sys2Proof.Machine

open Sys2Proof

/-- The 64 bytes of a line. -/
def lineBytes (d : BitVec 512) : List Byte := leBytes 64 d.toNat

/-- A line of 64 bytes. -/
def lineOf (bs : List Byte) : BitVec 512 := BitVec.ofNat 512 (leNat bs)

/-- The owner tag of a world's line (R111). -/
def ownerTag (world : Nat) (sealed_ : Bool) : BitVec 8 := BitVec.ofNat 8 (world % 64 + if sealed_ then 64 else 0)

/-- The MAC key of a line: the world's for CONF and sealed lines, the device's otherwise (R111, Table 4.10). -/
def macKeyOf (s : State) (world : Nat) (conf sealed_ : Bool) : List Byte :=
  leBytes 32 (if conf || sealed_ then (getWorld s world).macKey.toNat else s.devMacKey.toNat)

/-- The 56-bit MAC over the stored data, the line address and the owner tag (R111). -/
def lineMac (key : List Byte) (data : BitVec 512) (addr : Nat) (ot : BitVec 8) : BitVec 56 :=
  BitVec.ofNat 56 (leNat ((aesCmac key (lineBytes data ++ leBytes 8 addr ++ [ot])).take 7))

/-- Whether a line passes the check under a handle's CONF and SEALED bits (R112). -/
def lineGood (s : State) (world : Nat) (conf sealed_ : Bool) (addr : Nat) (l : Line) : Bool :=
  l.ot = ownerTag world sealed_ && l.mac = lineMac (macKeyOf s world conf sealed_) l.data addr l.ot

/-- A line with one of its 576 bits flipped: data, then MAC, then tag (R112). -/
def flipLine (l : Line) (i : Nat) : Line :=
  if i < 512 then { l with data := l.data ^^^ BitVec.ofNat 512 (2 ^ i) }
  else if i < 568 then { l with mac := l.mac ^^^ BitVec.ofNat 56 (2 ^ (i - 512)) }
  else { l with ot := l.ot ^^^ BitVec.ofNat 8 (2 ^ (i - 568)) }

/-- The outcome of R112. -/
inductive LineCheck where
  | good (l : Line)
  | corrected (l : Line)
  | bad
  deriving DecidableEq, Repr

/-- The check of a line on delivery, and its correction (R112). -/
def checkLine (s : State) (world : Nat) (conf sealed_ : Bool) (x : SlotLine) : LineCheck :=
  if lineGood s world conf sealed_ x.addr x.line then .good x.line
  else
    match ((List.range 576).map (flipLine x.line)).filter (lineGood s world conf sealed_ x.addr) with
    | [c] => .corrected c
    | _ => .bad

/-- The XTS key of a world's confidential or sealed lines (R114, R117): the line key or the sealed-weight key. -/
def xtsKeyOf (s : State) (world : Nat) (sealed_ : Bool) : List Byte :=
  leBytes 64 (if sealed_ then (getWorld s world).sealKey.getD 0 else (getWorld s world).lineKey).toNat

/-- The plaintext of a checked line: decrypted under the line key or the sealed-weight key (R114, R117). -/
def lineOpen (s : State) (world : Nat) (conf sealed_ : Bool) (addr : Nat) (l : Line) : BitVec 512 :=
  if conf || sealed_ then lineOf (xtsCrypt false (xtsKeyOf s world sealed_) addr (lineBytes l.data)) else l.data

/-- A line of stored data with a world's owner tag and its MAC (R111). -/
def lineTagged (s : State) (world : Nat) (conf sealed_ : Bool) (addr : Nat) (data : BitVec 512) : Line :=
  ⟨data, lineMac (macKeyOf s world conf sealed_) data addr (ownerTag world sealed_), ownerTag world sealed_⟩

/-- The line of a plaintext under a translation's CONF and SEALED bits: encrypted where one of them is set, tagged, and given its MAC
(R111, R114, R116). -/
def lineSeal (s : State) (world : Nat) (conf sealed_ : Bool) (addr : Nat) (plain : BitVec 512) : Line :=
  lineTagged s world conf sealed_ addr
    (if conf || sealed_ then lineOf (xtsCrypt true (xtsKeyOf s world sealed_) addr (lineBytes plain)) else plain)

/-- A tagged line passes the check under the bits it was tagged with (R112, R123). -/
theorem lineGood_lineTagged (s : State) (world : Nat) (conf sealed_ : Bool) (addr : Nat) (data : BitVec 512) :
    lineGood s world conf sealed_ addr (lineTagged s world conf sealed_ addr data) = true := by
  simp [lineGood, lineTagged]

/-- The worlds. -/
def allWorlds : List Nat := List.range 64

/-- The world whose carve-out holds an address (R101). -/
def worldOfAddr (s : State) (addr : Nat) : Nat :=
  (allWorlds.find? fun w => decide ((getWorld s w).cbase ≤ addr) &&
    decide (addr < (getWorld s w).cbase + (getWorld s w).csize)).getD 0

/-- Whether a translation maps a package address (R103). -/
def transCovers (t : Trans) (addr : Nat) : Bool :=
  decide (t.frame.extractLsb' 34 2 = 0) && decide ((t.frame.setWidth 34).toNat * 4096 ≤ addr) &&
    decide (addr < (t.frame.setWidth 34).toNat * 4096 + pageBytes t.size)

/-- The CONF and SEALED bits of the first translation that a world has had of a line (R123); neither where it has had none. -/
def firstBits (s : State) (world addr : Nat) : Bool × Bool :=
  let w := getWorld s world
  match (w.gone ++ w.table).find? fun t => transCovers t addr with
  | some t => (t.conf, t.sealed_)
  | none => (false, false)

/-- A line as the package manager wrote it before its carve-out passed to the world (R123): it reads as zero through a handle whose
bits are those of the line's first translation, and it carries that handle's tag and MAC (log 47). -/
def zeroedLine (s : State) (addr : Nat) : Line :=
  let w := worldOfAddr s addr
  let b := firstBits s w addr
  lineSeal s w b.1 b.2 addr 0

/-- A line of package memory as a DRD carries it: its stored data and side-band bits (R111); where no write of the running world is
listed, the zeroed line. -/
def readLine (s : State) (addr cyc : Nat) : SlotLine :=
  match smGet none s.side (addr / 64) with
  | some (mac, ot) => ⟨addr, ⟨lineOf (memRead s.pkg addr 64), mac, ot⟩, cyc⟩
  | none => ⟨addr, zeroedLine s addr, cyc⟩

/-- Package memory with a line stored with its side-band bits. -/
def writeLine (s : State) (addr : Nat) (l : Line) : State :=
  { s with pkg := memWrite s.pkg addr (lineBytes l.data), side := smSet none s.side (addr / 64) (some (l.mac, l.ot)) }

/-- The state with a correction reported (MSI-X vector 3, R279), its line to be written back in the next edge gap (R112, R113). No table
lays out an error-log entry: DESIGN CHOICE, a corrected line is [1, address, cycle], an uncorrectable one [2, address, cycle] (log 86). -/
def noteCorrected (s : State) (world addr : Nat) (l : Line) : State :=
  let s1 := updWorld s world fun w => { w with errorLog := w.errorLog ++ [[1, addr, s.cyc]] }
  reply { s1 with fixes := s1.fixes ++ [(addr, l)], pfLog := s1.pfLog ++ [[1, addr, s.cyc]] } 3 world []

/-- The state with an uncorrectable line reported to the world's host (R112, R279; the entry's layout: log 86). -/
def noteBadLine (s : State) (world addr : Nat) : State :=
  reply (updWorld s world fun w => { w with errorLog := w.errorLog ++ [[2, addr, s.cyc]] }) 3 world []

/-- A line's delivery to a consumer: its plaintext and whether it was corrected, with the reports of R112, or none where it is
uncorrectable. -/
def deliverLine (s : State) (world : Nat) (conf sealed_ : Bool) (x : SlotLine) : State × Option (BitVec 512 × Bool) :=
  match checkLine s world conf sealed_ x with
  | .good l => (s, some (lineOpen s world conf sealed_ x.addr l, false))
  | .corrected l => (noteCorrected s world x.addr l, some (lineOpen s world conf sealed_ x.addr l, true))
  | .bad => (noteBadLine s world x.addr, none)

/-- A stream that has waited n cycles longer for a corrected line: stall cycles that add to slip (R112, R43). -/
def slipMore (n : Nat) (st : Stream) : Stream := { st with slip := min (2 ^ 16 - 1) (st.slip + n) }

/-- A core whose consumer of a corrected line waits 80 cycles longer: the stream that issued its command slips by them (R112, log 87). -/
def slipFixed (c : Core) (q : Seq) (corrected : Bool) : Core :=
  if corrected then setStream c q (slipMore 80 (streamOf c q)) else c

/-! ### Slots (R143) -/

/-- A landing slot's lines. -/
def landSlot (c : Core) (n : Nat) : List SlotLine := smGet [] c.slots.land n

/-- An outgoing slot's lines. -/
def outSlot (c : Core) (n : Nat) : List SlotLine := smGet [] c.slots.out n

/-- Lines taken from a landing slot in the running cycle. -/
def landTaken (c : Core) (n cyc : Nat) : Nat :=
  let p := smGet (0, 0) c.slots.landPop n
  if p.1 = cyc then p.2 else 0

/-- The head of a landing slot that may be removed in a cycle: appended in an earlier one. -/
def landHead (c : Core) (n cyc : Nat) : Option SlotLine :=
  match landSlot c n with
  | x :: _ => if x.cyc < cyc then some x else none
  | [] => none

/-- A core with a landing slot's head removed in a cycle. -/
def popLand (c : Core) (n cyc : Nat) : Core :=
  { c with slots := { c.slots with
      land := smSet [] c.slots.land n ((landSlot c n).drop 1),
      landPop := smSet (0, 0) c.slots.landPop n (cyc, landTaken c n cyc + 1) } }

/-- A core with a line appended to a landing slot. -/
def pushLand (c : Core) (n : Nat) (x : SlotLine) : Core :=
  { c with slots := { c.slots with land := smSet [] c.slots.land n (landSlot c n ++ [x]) } }

/-- Lines taken from an outgoing slot in the running cycle. -/
def outTaken (c : Core) (n cyc : Nat) : Nat :=
  let p := smGet (0, 0) c.slots.outPop n
  if p.1 = cyc then p.2 else 0

/-- The head of an outgoing slot that may be removed in a cycle. -/
def outHead (c : Core) (n cyc : Nat) : Option SlotLine :=
  match outSlot c n with
  | x :: _ => if x.cyc < cyc then some x else none
  | [] => none

/-- A core with an outgoing slot's head removed in a cycle. -/
def popOut (c : Core) (n cyc : Nat) : Core :=
  { c with slots := { c.slots with
      out := smSet [] c.slots.out n ((outSlot c n).drop 1),
      outPop := smSet (0, 0) c.slots.outPop n (cyc, outTaken c n cyc + 1) } }

/-- A core with a line appended to an outgoing slot. -/
def pushOut (c : Core) (n : Nat) (x : SlotLine) : Core :=
  { c with slots := { c.slots with out := smSet [] c.slots.out n (outSlot c n ++ [x]) } }

/-- Whether an outgoing slot has room for a line in a cycle: it holds 64 at most, those taken in the cycle included (R42, R143). -/
def outRoom (c : Core) (n cyc : Nat) : Bool := decide ((outSlot c n).length + outTaken c n cyc < 64)

end Sys2Proof.Machine
end

