-- ==== Sys2Proof/Machine/Outside.lean ====
section
/-!
DEFINITION. Memory outside a core's commands' own package lines: host memory, the domain's packages, and this package's carve-outs
reached through a port (R115, R116, R142, R215, R280, R294 to R296).
-/

namespace Sys2Proof.Machine

open Sys2Proof

/-! ### Lines of a carve-out outside a core's commands -/

/-- The package manager's write of a cellar line as the model owner supplied it: ciphertext under the world's sealed-weight key, tagged
SEALED, with a MAC under the world's MAC key (R116). The supply itself comes from outside, as a world's translations do (log 63). -/
def writeCellar (s : State) (world addr : Nat) (cipher : BitVec 512) : State :=
  writeLine s addr (lineTagged s world false true addr cipher)

/-- A line of a world's carve-out read under a CONF bit: its plaintext, or none where it is sealed or uncorrectable (R112, R118). -/
def plainLine (s : State) (world : Nat) (conf : Bool) (addr : Nat) : State × Option (BitVec 512) :=
  let x := readLine s (addr / 64 * 64) s.cyc
  if x.line.ot.getLsbD 6 then (s, none)
  else
    match deliverLine s world conf false x with
    | (s1, some (p, _)) => (s1, some p)
    | (s1, none) => (s1, none)

/-- The n bytes from an address of a carve-out on, read under a CONF bit; none where a line of them cannot be read. -/
def plainBytes (s : State) (world : Nat) (conf : Bool) (addr n : Nat) : State × Option (List Byte) :=
  let first := addr / 64
  let r := (List.range (ceilDiv (addr + n) 64 - first)).foldl (fun acc i =>
    match acc.2, plainLine acc.1 world conf ((first + i) * 64) with
    | some bs, (s1, some p) => (s1, some (bs ++ lineBytes p))
    | _, (s1, _) => (s1, none)) (s, some [])
  (r.1, r.2.map fun bs => sliceBytes bs (addr % 64) n)

/-- Whether a port may reach a package address: no path of Table 4.8 carries a confidential line to a port, and none but the load pipe
reaches a cellar page, so the page is neither (R115, R117, R118; DEDUCED, log 33). -/
def portPage (s : State) (world addr : Nat) : Bool :=
  !((getWorld s world).table.any fun t => (t.conf || t.sealed_) && transCovers t addr)

/-- Whether a port may reach every line of n bytes. -/
def portRange (s : State) (world addr n : Nat) : Bool :=
  (List.range (ceilDiv (addr + n) 64 - addr / 64)).all fun i => portPage s world ((addr / 64 + i) * 64)

/-- A line of a world's carve-out as a port reads it. -/
def portRead (s : State) (world addr : Nat) : State × Option (BitVec 512) := plainLine s world false addr

/-- A line of a world's carve-out written by a port: a page that no port may reach and a stored cellar line stay as they are (R115,
R116). -/
def portWrite (s : State) (world addr : Nat) (plain : BitVec 512) : State :=
  let a := addr / 64 * 64
  if !portPage s world a || (readLine s a s.cyc).line.ot.getLsbD 6 then s
  else writeLine s a (lineSeal s world false false a plain)

/-- The n bytes from an address of a carve-out on, as a port reads them. -/
def portBytes (s : State) (world addr n : Nat) : State × Option (List Byte) := plainBytes s world false addr n

/-- Bytes written to a carve-out by a port; a line that cannot be read is written over whole. -/
def portStore (s : State) (world addr : Nat) (bs : List Byte) : State :=
  let first := addr / 64
  (List.range (ceilDiv (addr + bs.length) 64 - first)).foldl (fun s i =>
    let a := (first + i) * 64
    let (s1, old) := portRead s world a
    let base := lineBytes (old.getD 0)
    portWrite s1 world a (lineOf ((List.range 64).map fun j =>
      if addr ≤ a + j ∧ a + j < addr + bs.length then bs.getD (a + j - addr) 0 else base.getD j 0))) s

/-! ### Remote bins (R142, R295) -/

/-- The channel of a package address (Table 5.1). -/
def chanOf (addr : Nat) : Nat := addr / 1024 % 512

/-- The state with the first held-back request of a channel let into its remote bin, where it has room (R142). -/
def refillBin1 (s : State) (ch : Nat) : State :=
  match s.ports.find? (fun e => decide (chanOf e.addr = ch)) with
  | none => s
  | some e =>
    if (getChan s ch).bin1.length < 64 then
      setChan { s with ports := s.ports.erase e } ch { getChan s ch with bin1 := (getChan s ch).bin1 ++ [e] }
    else s

/-- The state with a request that has arrived for its channel's remote bin (R142). -/
def queueEntry (s : State) (e : BinEntry) : State := refillBin1 { s with ports := s.ports ++ [e] } (chanOf e.addr)

/-- The addresses of the lines of n bytes. -/
def linesAt (a n : Nat) : List Nat := (List.range (ceilDiv (a + n) 64 - a / 64)).map fun i => (a / 64 + i) * 64

/-- The state with a read request queued for every line of n bytes of the own package (R295). -/
def queueReads (s : State) (who : Requester) (a n : Nat) : State :=
  (linesAt a n).foldl (fun s x => queueEntry s ⟨x, false, s.cyc, who, none⟩) s

/-- The state with a write request queued for every line of a committed write to a carve-out of the own package (R295, R215). -/
def queueCommit (s : State) (world launch a : Nat) (bs : List Byte) (add : Bool) : State :=
  (linesAt a bs.length).foldl (fun s x =>
    queueEntry s ⟨x, true, s.cyc, .commit world launch ((a : Int) - x) bs add, none⟩) s

/-- The n bytes from an address on out of the lines that have come: none where one has not, or could not be read. -/
def gotBytes (got : List (Nat × Option (BitVec 512))) (a n : Nat) : Option (List Byte) :=
  ((linesAt a n).foldl (fun acc x =>
    match acc, (got.find? fun e => decide (e.1 = x)).bind (·.2) with
    | some bs, some p => some (bs ++ lineBytes p)
    | _, _ => none) (some [])).map fun bs => sliceBytes bs (a % 64) n

/-- Whether every line of n bytes has come. -/
def gotAll (got : List (Nat × Option (BitVec 512))) (a n : Nat) : Bool := (linesAt a n).all fun x => got.any fun e => decide (e.1 = x)

/-- The entries of the own package's committed writes of a launch that are still to be made: waiting, in a remote bin, or in a window
(R215, R295). -/
def commitQueued (s : State) (launch : Nat) : Bool :=
  let mine (e : BinEntry) : Bool := match e.who with | .commit _ l _ _ _ => decide (l = launch) | _ => false
  s.ports.any mine || s.chans.any fun (e : Nat × Channel) => e.2.bin1.any mine || e.2.windows.any fun v => mine v.entry

/-- Whether a line lies in a world's carve-out, in a page that a port may reach. -/
def portInside (s : State) (world addr : Nat) : Bool :=
  decide ((getWorld s world).cbase ≤ addr) && decide (addr < (getWorld s world).cbase + (getWorld s world).csize) && portPage s world addr

/-- What a requester through a remote bin gets of a line: a refusal, a line that is uncorrectable, or its plaintext and whether it was
corrected. -/
inductive PortGot where
  | refused
  | broken
  | got (plain : BitVec 512) (corrected : Bool)
  deriving DecidableEq, Repr

/-- A line that a window has read, as a requester through a remote bin gets it: refused where no port may reach it or it is sealed
(R112, R115, R118). -/
def portLine (s : State) (world : Nat) (x : SlotLine) : State × PortGot :=
  if !portInside s world x.addr || x.line.ot.getLsbD 6 then (s, .refused)
  else
    match deliverLine s world false false x with
    | (s1, some (p, corr)) => (s1, .got p corr)
    | (s1, none) => (s1, .broken)

/-- The plaintext that a requester got, if any. -/
def PortGot.plain? : PortGot → Option (BitVec 512)
  | .got p _ => some p
  | _ => none

/-- Whether the line that a requester got was corrected. -/
def PortGot.corrected : PortGot → Bool
  | .got _ c => c
  | _ => false

/-- The cycles that a consumer waits for a line longer, where it was corrected (R112). -/
def correctedLate (x : PortGot) : Nat := if x.corrected then 80 else 0

/-! ### Host memory -/

/-- Whether a world's accesses to host memory pass the port: in RUN only over its interface's bound stream (R280). DESIGN CHOICE: what
the port turns away reads as zeros, is refused, and changes nothing (log 90). -/
def dmaOpen (s : State) (world : Nat) : Bool := decide ((getWorld s world).tdisp ≠ .run) || (getWorld s world).stream.isSome

/-- The state with bytes of a world's written to host memory, where the port lets them pass. -/
def hostWrite (s : State) (world addr : Nat) (bs : List Byte) : State :=
  if dmaOpen s world then { s with host := memWrite s.host addr bs } else s

/-! ### Domain tables (Table 11.12) -/

/-- Entry d of a world's domain table: the target package and world, where it names one. -/
def domainEntry (s : State) (world d : Nat) : Option (Nat × Nat) :=
  let e := memWord (getWorld s world).domain (8 * d)
  let v := (e.extractLsb' 1 6).toNat
  if e.getLsbD 0 && decide (v ≠ 0) then some ((e.extractLsb' 7 10).toNat, v) else none

/-- Whether some valid entry of world v's table names world w of package p (R296). -/
def namesBack (s : State) (v p w : Nat) : Bool := (List.range 1024).any fun d => decide (domainEntry s v d = some (p, w))

/-- Where a domain access goes: nowhere, to an address of this package, or to another package's memory. -/
inductive DomTarget where
  | refused
  | own (world addr : Nat)
  | away (key : Nat)
  deriving DecidableEq, Repr

/-- Where world w's access of n bytes at an offset of a device's carve-out goes (R294, R296, R118). -/
def domTarget (s : State) (w dev off n : Nat) : DomTarget :=
  match domainEntry s w dev, s.domain with
  | some (q, v), some p =>
    if q ≠ p then .away ((q * 64 + v) * 2 ^ 41 + off)
    else if namesBack s v p w && decide (off + n ≤ (getWorld s v).csize) && portRange s v ((getWorld s v).cbase + off) n then
      .own v ((getWorld s v).cbase + off)
    else .refused
  | _, _ => .refused

/-! ### Reads and held writes -/

/-- The n bytes a command reads through a host or domain handle at an offset, and whether the access is refused: then they are
zeros (R294). Another package's refusal is decided before (`outsideRefused`). -/
def outsideRead (s : State) (world : Nat) (h : Word64) (off n : Nat) : State × List Byte × Bool :=
  if hSpace h = 1 then
    if dmaOpen s world then (s, memRead s.host (hAddr h + off) n, false) else (s, List.replicate n 0, true)
  else
    match domTarget s world (hDevice h) (hDevAddr h + off) n with
    | .refused => (s, List.replicate n 0, true)
    | .away k => (s, memRead s.domainMem k n, false)
    | .own v a =>
      match portBytes s v a n with
      | (s1, some bs) => (s1, bs, false)
      | (s1, none) => (s1, List.replicate n 0, true)

/-- Whether an access of n bytes through a host or domain handle is refused, by its target or by the port (R294, R296, R280); `free` is the
number of the free value that decides for another package. -/
def outsideRefused (s : State) (world : Nat) (h : Word64) (off n free : Nat) : Bool :=
  if hSpace h = 1 then !dmaOpen s world
  else
    match domTarget s world (hDevice h) (hDevAddr h + off) n with
    | .refused => true
    | .away _ => Config.remoteRefuses free
    | .own _ _ => false

/-- The state with a command's write through a host or domain handle added to a core's commit buffer (R215); a refused one changes
nothing. -/
def holdWrite (s : State) (core cmd : Nat) (h : Word64) (off : Nat) (bs : List Byte) (add : Bool) : State :=
  let c := getCore s core
  let put (space addr : Nat) : State :=
    updCore s core fun c => { c with held := c.held ++ [⟨cmd, space, addr, bs, add⟩] }
  if hSpace h = 1 then (if dmaOpen s c.world then put 1 (hAddr h + off) else s)
  else
    match domTarget s c.world (hDevice h) (hDevAddr h + off) bs.length with
    | .refused => s
    | .away k => put 3 k
    | .own v a => put 2 (v * 2 ^ 48 + a)

/-- FP32 words added lane by lane (R163, Table 3.8). -/
def addFp32 (old new : List Byte) : List Byte :=
  ((lanesOfBytes old).zip (lanesOfBytes new)).flatMap fun p => leBytes 4 (rne32 (addF 0 (dec32 p.1) (dec32 p.2))).toNat

/-- A stored line with a committed write's bytes put over it, or added to it (R215, R163); `off` is where they begin before the line. -/
def mergeCommit (old : BitVec 512) (off : Int) (bs : List Byte) (add : Bool) : BitVec 512 :=
  let base := lineBytes old
  let at_ (j : Nat) : Option Byte := if (j : Int) < off then none else bs[((j : Int) - off).toNat]?
  let new := (List.range 64).map fun j => (at_ j).getD (base.getD j 0)
  if add then
    lineOf ((List.range 64).map fun j =>
      match at_ j with
      | some _ => (addFp32 base new).getD j 0
      | none => base.getD j 0)
  else lineOf new

/-- The state with a held write of a launch made visible, where the port lets it pass (R280), or, to the own package's memory, sent to its
remote bins (R215, R295). -/
def commitWrite (s : State) (launch : Nat) (w : Held) : State :=
  let n := w.bytes.length
  match w.space with
  | 1 => hostWrite s (getLaunch s launch).world w.addr (if w.add then addFp32 (memRead s.host w.addr n) w.bytes else w.bytes)
  | 2 =>
    queueCommit s (w.addr / 2 ^ 48) launch (w.addr % 2 ^ 48) w.bytes w.add
  | _ =>
    let bs := if w.add then addFp32 (memRead s.domainMem w.addr n) w.bytes else w.bytes
    { s with domainMem := memWrite s.domainMem w.addr bs }

end Sys2Proof.Machine
end

