-- ==== Sys2Proof/Machine/Copy.lean ====
section
/-!
DEFINITION. The copy engine: COPY's checks, its bytes in units of 64, the decant qualifiers, its completion, and the inbound ports of
scratchpads (R185 to R190, R204, R329, R369 to R374).
-/

namespace Sys2Proof.Machine

open Sys2Proof

/-! ### The word (Tables 18.11 and 18.12) -/

/-- DIR: the local end is the destination. -/
def copyDir (w : XferWord) : Bool := w.fn.getLsbD 6
/-- FAR. -/
def copyFar (w : XferWord) : Nat := (w.fn.extractLsb' 7 3).toNat
/-- BDIE. -/
def copyBdie (w : XferWord) : Bool := w.fn.getLsbD 10
/-- The cycle bound. -/
def copyBound (w : XferWord) : Nat := 16 * (w.imm.toNat % 2 ^ 12)
/-- Whether PARAM is laid out with a key. -/
def copyKeyed (w : XferWord) : Bool := decGcm w && decide (copyFar w ≤ 3)
/-- KEY. -/
def copyKey (w : XferWord) : Nat := (w.imm.extractLsb' 12 12).toNat
/-- SLOT. -/
def copySlot (w : XferWord) : Nat := (w.imm.extractLsb' 29 3).toNat

/-- The far offset field, its bits at and below PARAM[17] taken as zero where they hold `.topk`'s k. -/
def copyOffset (w : XferWord) : Nat :=
  let far := copyFar w
  let low (n : Nat) : Nat := if decTopk w then n / 64 * 64 else n
  if far ≤ 2 then (if copyKeyed w then (w.imm.extractLsb' 24 8).toNat else low (w.imm.extractLsb' 12 20).toNat)
  else if far = 3 then (if copyKeyed w then (w.imm.extractLsb' 24 5).toNat else low (w.imm.extractLsb' 12 17).toNat)
  else if far = 4 then low (w.imm.extractLsb' 12 17).toNat
  else 0

/-- Whether FAR, DIR or SLOT is reserved (R369). -/
def copyBad (w : XferWord) : Bool :=
  let far := copyFar w
  decide (5 < far) || (decide (far = 3) && !copyDir w) || (decide (3 < far) && copyDir w) ||
    (decide (far = 3) && decide (copySlot w = 7))

/-- Whether a bit that the word does not define is set: PARAM and B of FAR 5. -/
def copyMbz (w : XferWord) : Bool :=
  decide (copyFar w = 5) && (decide (w.b ≠ 0) || decide (w.imm.toNat / (if decTopk w then 2 ^ 18 else 2 ^ 12) ≠ 0))

/-- A transfer as its word and registers give it: the effective FAR (an own die address acts as FAR 0), the addresses, and which
qualifiers apply (R185 to R187, R369). -/
structure CopyPlan where
  far : Nat
  farAddr : Nat
  farCore : Nat
  handle : Word64
  count : Nat
  loc : Nat
  key : Option Nat
  topk : Option Nat
  tr : Nat
  deriving DecidableEq, Repr

/-- The far end's address, a sum of integers (R10, R369), or its handle offset. -/
def copyFarAddr (w : XferWord) (s : State) : Nat :=
  if copyFar w ≤ 1 then (regHere s w.b).val.toNat + copyOffset w else copyOffset w * 64

/-- Whether a FAR 1 address names the issuing core itself. -/
def copyOwnDie (w : XferWord) (s : State) : Bool :=
  decide (copyFar w = 1) && decide (copyFarAddr w s / 2 ^ 21 = (getCore s s.turn.core).lidx)

/-- Whether the destination is the issuing core's scratchpad. -/
def copyToOwn (w : XferWord) (s : State) : Bool := copyDir w || decide (copyFar w = 0) || copyOwnDie w s

/-- The transfer a COPY asks for. -/
def copyPlanOf (w : XferWord) (s : State) : CopyPlan :=
  let own := copyOwnDie w s
  let a := copyFarAddr w s
  let gcm := decGcm w && copyToOwn w s && !decZfill w
  { far := if own then 0 else copyFar w
    farAddr := if own then a % 2 ^ 21 else a
    farCore := if copyFar w = 1 then physOf s s.turn.core (a / 2 ^ 21) else s.turn.core
    handle := if 2 ≤ copyFar w ∧ copyFar w ≤ 4 then readHandle (getCore s s.turn.core) w.b.toNat else 0
    count := (regHere s w.c).val.toNat
    loc := xferLocal w s % 2 ^ 64
    key := if gcm then some (copyKey w) else none
    topk := if decTopk w && !decZfill w && !gcm then some (w.imm.toNat / 2 ^ 12 % 64 + 1) else none
    tr := if decZfill w || decTopk w then 0 else if decTr16 w then 2 else if decTr8 w then 1 else 0 }

/-- The bytes a plan reads from its source. -/
def planSrc (p : CopyPlan) : Nat := if p.key.isSome then p.count + 32 else p.count

/-- The bytes a plan writes to its destination. -/
def planDst (p : CopyPlan) : Nat := match p.topk with | some k => p.count * k / 64 | none => p.count

/-- The bytes of a transpose's block (R187). -/
def trBlock (tr : Nat) : Nat := if tr = 1 then 16384 else 8192

/-- The warnings of a COPY's fallbacks (R186, R187). -/
def copyWarns (w : XferWord) (p : CopyPlan) : List Nat :=
  (if copyMbz w then [warnMbz] else []) ++
    (if decSeveral w || (decGcm w && p.key.isNone) || (decZfill w && decDec w) || (decTopk w && p.key.isSome) then [warnDec]
      else []) ++
    (if p.tr ≠ 0 ∧ p.count % trBlock p.tr ≠ 0 then [warnDtr] else [])

/-! ### Issue (R369, R370) -/

/-- An own range within 2^21 and class 0's set. -/
def copyOwnRange (s : State) (rd wr : Bool) (a n : Nat) : Except Raise Unit :=
  if 2 ^ 21 < a + n || !phaseOk (getCore s s.turn.core) 0 s.cyc rd wr a n then .error (Raise.at_ 0x26 a a) else .ok ()

/-- A die address: its bits [63:30] zero (0x21), its index below LCOUNT (0x23). -/
def dieAddress (s : State) (a : Nat) : Except Raise Unit :=
  if 2 ^ 30 ≤ a then .error (Raise.at_ 0x21 a a)
  else if lcountOf s s.turn.core ≤ a / 2 ^ 21 then .error (Raise.at_ 0x23 a a)
  else .ok ()

/-- Whether a key slot is bound to the core's world and holds a key (R190). -/
def keyReady (s : State) (k : Nat) : Bool :=
  decide ((getKey s k).world = some (getCore s s.turn.core).world) && (getKey s k).key.isSome

/-- A check that raises where its condition does not hold. -/
def need (ok : Bool) (r : Raise) : Except Raise Unit := if ok then .ok () else .error r

/-- The first of a list of checks to fail. -/
def firstError : List (Except Raise Unit) → Except Raise Unit
  | [] => .ok ()
  | .ok _ :: cs => firstError cs
  | .error r :: _ => .error r

/-- The checks of R370, in order; under `.zfill` the destination's alone (R186). -/
def copyChecks (w : XferWord) (p : CopyPlan) (s : State) : Except Raise Unit :=
  let zf := decZfill w
  let dir := copyDir w
  let farLen := if dir then planSrc p else planDst p
  let locLen := if dir then planDst p else planSrc p
  let onHandle := decide (2 ≤ p.far) && decide (p.far ≤ 4)
  let space := if p.far ≠ 2 then 0 else if hSpace p.handle = 2 then 2 else 1
  firstError [
    need (regHere s w.c).static (Raise.of 0x14),
    need (p.key.isNone || decide (p.count ≤ 65536)) (Raise.at_ 0x21 p.loc p.loc),
    need (p.topk.isNone || decide (p.count % 512 = 0)) (Raise.of 0x01),
    (if onHandle && !(zf && dir) then
      useHandle s s.turn.core w.b.toNat p.handle p.farAddr farLen (some space) false 0x31 (!dir) else .ok ()),
    (if zf && !dir then .ok () else copyOwnRange s (!dir) dir p.loc locLen),
    (if decide (p.far = 0) && !(zf && dir) then copyOwnRange s dir (!dir) p.farAddr farLen else .ok ()),
    (if decide (p.far = 1) && !(zf && dir) then dieAddress s p.farAddr else .ok ()),
    need (decide (p.far ≠ 1) || (zf && dir) || decide (p.farAddr % 2 ^ 21 + farLen ≤ 2 ^ 21)) (Raise.at_ 0x21 p.farAddr p.farAddr),
    need (p.key.all (keyReady s)) (Raise.of 0x28)]

/-- COPY's barrier (R370, R374): at aQ in the own scratchpad, or at a die address. -/
def copyBarrier (w : XferWord) (s : State) : Except Raise (Option BarRef) :=
  let a := (regHere s w.q).val
  if w.q = 0 then .ok none
  else if copyBdie w then
    match dieAddress s a.toNat with
    | .error r => .error r
    | .ok _ => .ok (some ⟨physOf s s.turn.core (a.toNat / 2 ^ 21), a.toNat % 2 ^ 21 / 8 * 8⟩)
  else (barrierRef s a 0).map some

/-- Whether the copy engine has room for one more command: at most 16 wait (R373). -/
def copyRoom (c : Core) : Bool := decide ((c.copyQ.filter fun m => m.start.isNone).length < 16)

/-- The effect of COPY at issue. -/
def copyAct (w : XferWord) (s : State) : Except Raise (State × Flow) :=
  let p := copyPlanOf w s
  match copyChecks w p s, copyBarrier w s with
  | .error r, _ => .error r
  | .ok _, .error r => .error r
  | .ok _, .ok bar =>
    if !copyRoom (getCore s s.turn.core) then .error (Raise.of 0x11)
    else
      let id := (freshId s).1
      let m : CopyCmd :=
        ⟨id, s.turn.q, s.cyc, copyBound w, p.far, copyDir w, p.count, p.loc, p.farAddr % (if p.far = 1 then 2 ^ 21 else 2 ^ 64),
          p.farCore, p.handle, copySlot w, p.key, decZfill w, p.topk, p.tr, bar, none, 0, 0, 0, 0, [], [], 0, 0, 0, 0, none, none, [],
              [], [], 0, false⟩
      .ok (goOn (updCore (freshId s).2 s.turn.core fun c =>
        let c1 := warnAll (copyWarns w p) c
        { c1 with copyQ := c1.copyQ ++ [m],
                  lqOrder := if p.far = 5 ∧ planDst p ≠ 0 then c1.lqOrder ++ [(id, ceilDiv (planDst p) 512)]
                    else c1.lqOrder }))

/-- COPY (R369 to R371). -/
def execCopy (w : XferWord) (s : State) : Out :=
  let far := copyFar w
  issueWord (WordPlan.plain 3 (if far = 5 then [.l] else [.l, .s]) false
    (copyBad w || xferRegBad s (if far ≤ 1 then [w.a, w.b, w.c, w.q] else [w.a, w.c, w.q]))
    ([destHere s w.a, destHere s w.c, destHere s w.q] ++
      (if far ≤ 1 then [destHere s w.b] else if far ≤ 4 then [.h w.b.toNat] else [])) [] (copyAct w)) s

/-! ### The transfer -/

/-- The bytes written to the destination. -/
def copyOut (m : CopyCmd) : Nat := match m.topk with | some k => m.count * k / 64 | none => m.count

/-- The bytes that move in units: the source's, or the zeros of `.zfill`. -/
def copySrc (m : CopyCmd) : Nat := if m.zfill then copyOut m else if m.key.isSome then m.count + 32 else m.count

/-- Where the first unit begins within a line: a source at another core's port is cut at that port's lines (R6, R204); any other source's
units count from its start. -/
def unitSkew (m : CopyCmd) : Nat := if m.far = 1 ∧ m.toLocal ∧ !m.zfill then m.farAddr % 64 else 0

/-- The units of up to 64 bytes. -/
def copyUnits (m : CopyCmd) : Nat := if copySrc m = 0 then 0 else ceilDiv (unitSkew m + copySrc m) 64

/-- Where unit u begins in the source. -/
def unitOff (m : CopyCmd) (u : Nat) : Nat := 64 * u - unitSkew m

/-- Whether the whole source is gathered before the first byte is written: to open it, transpose it or rank its rows. -/
def copyGathers (m : CopyCmd) : Bool := !m.zfill && (m.key.isSome || m.topk.isSome || decide (m.tr ≠ 0))

/-- The length of unit u. -/
def unitLen (m : CopyCmd) (u : Nat) : Nat := min (64 * (u + 1) - unitSkew m) (copySrc m) - unitOff m u

/-- Whether a gathered output leaves in units of 64 bytes, for a port, a slot or a queue that takes lines or entries one by one. -/
def copyEmits (m : CopyCmd) : Bool := copyGathers m && !m.toLocal && (decide (m.far = 1) || decide (m.far = 4) || decide (m.far = 5))

/-- The cycles that a transpose or a ranking adds (Table 7.5). -/
def orderExtra (m : CopyCmd) : Nat :=
  (if m.tr ≠ 0 then 16 else 0) + (if m.topk.isSome then 4 * (m.count / 512) else 0)

/-- The cycles that a transfer's qualifiers, lines and far end add after its first moving cycle (Tables 4.8 and 7.5, R112, R373). -/
def copyExtra (core : Nat) (m : CopyCmd) : Nat :=
  (if hConf m.handle && (decide (m.far = 4) || (decide (m.far = 3) && !m.zfill)) then 24 else 0) +
    (if m.key.isSome then 40 else 0) + (if copyEmits m then 0 else orderExtra m) + 80 * m.fixed +
    (if m.far = 1 then delta core .copy m.farCore .copy else 0)

/-- The units of 64 bytes that move at 128 bytes a cycle: the source's, or the gathered output's that leaves by units (log 92). -/
def copyMoves (m : CopyCmd) : Nat := if copyEmits m then ceilDiv (copyOut m) 64 else copyUnits m

/-- The completion cycle once every unit has moved (R373): the duration, and every cycle in which fewer bytes moved than could; not
before the last unit has (log 92). -/
def copyFinish (core : Nat) (m : CopyCmd) : Nat :=
  max (m.lastMove + 1)
    (m.d0 + (if m.far = 5 then 0 else 8) + ceilDiv m.count 128 + copyExtra core m +
      ((m.lastMove + 1 - m.d0) - ceilDiv (copyMoves m) 2))

/-- A transfer with its completion cycle fixed where nothing is left to move. -/
def copySettle (core : Nat) (m : CopyCmd) : CopyCmd :=
  if m.finish.isNone && decide (copyUnits m ≤ m.units) && m.out.isEmpty then { m with finish := some (copyFinish core m) } else m

/-- The state with a core's running transfer changed. -/
def updCopy (s : State) (core : Nat) (f : CopyCmd → CopyCmd) : State :=
  updCore s core fun c =>
    match c.copyQ with
    | m :: rest => { c with copyQ := f m :: rest }
    | [] => c

/-- Whether the next transfer starts in the cycle (R373). -/
def copyStarts (c : Core) (cyc : Nat) : Bool :=
  match c.copyQ with
  | m :: _ => m.start.isNone && decide (max m.issued c.copyFree ≤ cyc)
  | [] => false

/-- Whether a transfer reads or writes host or domain memory. -/
def copyOutside (m : CopyCmd) : Bool := decide (m.far = 2) && !(m.zfill && m.toLocal)

/-- The package address of a starting transfer's source, where that is a carve-out of this package named by its domain number, with the
world it belongs to (R295). -/
def copyOwnSource (s : State) (world : Nat) (m : CopyCmd) : Option (Nat × Nat) :=
  if copyOutside m && m.toLocal && decide (hSpace m.handle = 2) then
    match domTarget s world (hDevice m.handle) (hDevAddr m.handle + m.farAddr) (copySrc m) with
    | .own v a => some (v, a)
    | _ => none
  else none

/-- The state with the transfer ended by a trap: it posts nothing (R23). -/
def copyFail (s : State) (core : Nat) (r : Raise) : State :=
  raiseOn (updCore s core fun c => { c with copyQ := c.copyQ.drop 1, copyFree := s.cyc + 1 }) core .copy r

/-- A line delivered to a core's running transfer by a remote bin (R295): a corrected one makes it wait 80 cycles longer, an uncorrectable
one ends its segment with 0x27 (R112). -/
def copyDelivered (s : State) (core cmd addr : Nat) (x : PortGot) : State :=
  match (getCore s core).copyQ with
  | m :: rest =>
    if m.id ≠ cmd then s
    else if x = .broken then copyFail s core (Raise.at_ 0x27 addr addr)
    else updCore s core fun c =>
      slipFixed { c with copyQ :=
        { m with got := m.got ++ [(addr, x.plain?)], fixed := if x.corrected then m.fixed + 1 else m.fixed } :: rest } m.q x.corrected
  | [] => s

/-- Whether a source unit's bytes have come, where they come through the package's own remote bins (R295). -/
def ownReady (m : CopyCmd) : Bool := m.own.all fun a => gotAll m.got (a + unitOff m m.units) (unitLen m m.units)

/-- What the copy engine does next. -/
inductive CopyMove where
  | landLine
  | append
  | lqPush
  | unit
  | open_
  | complete
  deriving DecidableEq, Repr

/-- Whether the next source unit ends an lq entry (R373). -/
def endsEntry (m : CopyCmd) : Bool := decide ((m.units + 1) % 8 = 0) || decide (copyUnits m ≤ m.units + 1)

/-- Whether the next unit of a gathered output ends an lq entry. -/
def outEnds (m : CopyCmd) : Bool := decide (m.out.length ≤ 64) || decide ((copyOut m - m.out.length + 64) % 512 = 0)

/-- The running transfer's next action, where it can be made in the cycle: at most 128 bytes move in one. -/
def copyNext (c : Core) (cyc : Nat) : Option CopyMove :=
  match c.copyQ with
  | [] => none
  | m :: _ =>
    let appendOk := if outRoom c m.slot cyc then some CopyMove.append else none
    let pushOk := if lqTurn c m.id cyc then some CopyMove.lqPush else none
    let spent := decide (m.lastMove = cyc) && decide (2 ≤ m.movedNow)
    if m.start.isNone || decide (cyc < m.d0) then none
    else if m.units < copyUnits m then
      if spent || !ownReady m then none
      else if m.far = 3 ∧ !m.zfill then (if (landHead c m.slot cyc).isSome then some .landLine else none)
      else if copyGathers m then some .unit
      else if m.far = 4 then appendOk
      else if m.far = 5 ∧ endsEntry m then pushOk
      else some .unit
    else if !m.out.isEmpty then
      if spent then none
      else if m.far = 4 then appendOk
      else if m.far = 5 ∧ outEnds m then pushOk
      else some .unit
    else if m.key.isSome && !m.opened then
      (if m.data.length = copySrc m ∧ m.gotAt < cyc then some .open_ else none)
    else
      match m.finish with
      | some f => if m.pending = 0 ∧ f + m.late ≤ cyc then some .complete else none
      | none => none

/-- A line sent to the far core's inbound port by the running transfer (R204). -/
def sendCopyLine (s : State) (core : Nat) (m : CopyCmd) (kind : InKind) (a : Nat) (bs : List Byte) : State :=
  let s1 := sendInbound (freshId s).2 m.farCore
    ⟨(freshId s).1, s.cyc, core, (getCore s core).lidx, .copy, kind, a, bs, m.id⟩
  updCopy s1 core fun m => { m with pending := m.pending + 1 }

/-- Bytes from an address on cut at the 64-byte boundaries of the address space (R6, R204). -/
def linesOf (a : Nat) (bs : List Byte) : List (Nat × List Byte) :=
  if bs = [] then []
  else
    (List.range (ceilDiv (a + bs.length) 64 - a / 64)).map fun i =>
      let lo := max a ((a / 64 + i) * 64)
      let hi := min (a + bs.length) ((a / 64 + i + 1) * 64)
      (lo, (bs.drop (lo - a)).take (hi - lo))

/-- The bytes of a destination's lines that are whole once those from offset `off` on have come, and the bytes kept for the line that is
not; the last line is whole with the transfer's last byte (R6, R219). -/
def wholeLines (m : CopyCmd) (base off : Nat) (bs : List Byte) : List Byte × List Byte :=
  let data := m.tail ++ bs
  let keep := if off + bs.length < copyOut m then min data.length ((base + off + bs.length) % 64) else 0
  (data.take (data.length - keep), data.drop (data.length - keep))

/-- The bytes from offset `off` of the destination on, come in the running cycle, written where they make a line whole (R371, R372). -/
def copyPut (s : State) (core : Nat) (m : CopyCmd) (off : Nat) (bs : List Byte) : State :=
  let c := getCore s core
  let base := if m.toLocal then m.loc else m.farAddr
  let (now, left) := wholeLines m base off bs
  let a := base + off - m.tail.length
  let keep := fun s => updCopy s core fun m => { m with tail := left }
  if m.toLocal || decide (m.far = 0) then keep (writeSpad s core core c.lidx .copy s.cyc a now m.id)
  else
    match m.far with
    | 1 => keep ((linesOf a now).foldl (fun s l => sendCopyLine s core m .copyWrite l.1 l.2) s)
    | 2 => if m.status = 3 then s else holdWrite s core m.id m.handle (m.farAddr + off) bs false
    | 4 =>
      let a := hAddr m.handle + m.farAddr + off
      let line := lineSeal s c.world (hConf m.handle) false a (lineOf (sliceBytes bs 0 64))
      updCore s core fun c => pushOut c m.slot ⟨a, line, s.cyc⟩
    | _ =>
      let data := m.data ++ bs
      if data.length < 512 ∧ off + bs.length < copyOut m then updCopy s core fun m => { m with data := data }
      else
        updCopy (updCore s core fun c =>
          { c with lq := pushQ c.lq (packLanes (lanesOfBytes (sliceBytes data 0 512))) s.cyc, lqOrder := lqPushed c.lqOrder })
          core fun m => { m with data := [] }

/-! ### Decant -/

/-- One transposed block of r × r elements of e bytes. -/
def trOne (r e : Nat) (bs : List Byte) : List Byte :=
  let a := bs.toArray
  (List.range (r * r * e)).map fun i =>
    let row := i / (r * e)
    let col := i / e % r
    a.getD ((col * r + row) * e + i % e) 0

/-- `.tr8` and `.tr16`: whole blocks transposed, the remainder unchanged (R187). -/
def transpose (tr : Nat) (bs : List Byte) : List Byte :=
  let n := trBlock tr
  let (r, e) := if tr = 1 then (128, 1) else (64, 2)
  let whole := bs.length / n
  ((chunkBytes n whole bs).flatMap (trOne r e)) ++ bs.drop (n * whole)

/-- A gathered source as the destination receives it, before R187's order 3: the plaintext, the status, and the key slot
(R188, R189). -/
def gcmResult (s : State) (core : Nat) (k : Nat) (count : Nat) (src : List Byte) : List Byte × Nat × KeySlot :=
  let ks := getKey s k
  let ctr := leField src 0 8
  let iv := beBytes 8 ctr ++ beBytes 4 (leField src 8 4)
  let zeros := List.replicate count 0
  match ks.key with
  | none => (zeros, 2, ks)
  | some (n, key) =>
    if !ks.empty && decide (ctr ≤ ks.last) then (zeros, 1, ks)
    else
      match gcmOpen (leBytes n key.toNat) iv [] (sliceBytes src 16 count) (sliceBytes src (16 + count) 16) with
      | none => (zeros, 2, ks)
      | some pt =>
        (pt, 0, { ks with
          empty := false, last := ctr,
          log := ks.log ++ [((getCore s core).launch.getD 0, s.cyc, ctr)] })

/-- The bytes after the qualifier of order 3. -/
def orderThree (m : CopyCmd) (bs : List Byte) : List Byte :=
  match m.topk with
  | some k => (chunkBytes 512 (bs.length / 512) bs).flatMap fun row => topkBytes k (lanesOfBytes row)
  | none => if m.tr = 0 then bs else transpose m.tr bs

/-- The state with a gathered source opened, transposed or ranked, and written. DESIGN CHOICE: the output is written whole in this cycle, the
last source unit's or, under `.gcm`, the next one, in which its tag is checked (R20, R190, log 92). -/
def copyOpen (s : State) (core : Nat) (m : CopyCmd) (src : List Byte) : State :=
  let (plain, status, s1) :=
    match m.key with
    | none => (src, m.status, s)
    | some k =>
      let r := gcmResult s core k m.count src
      (r.1, r.2.1, setKey s k r.2.2)
  let out := if status = 1 ∨ status = 2 then List.replicate (copyOut m) 0 else orderThree m plain
  let s2 := updCopy s1 core fun m => { m with data := [], status := status, opened := true }
  copyPut s2 core { m with status := status } 0 out

/-- The state with the bytes of a unit come from the source in the running cycle: gathered, where the transfer gathers them. -/
def copyGot (s : State) (core : Nat) (m : CopyCmd) (off : Nat) (bs : List Byte) : State :=
  if copyGathers m then
    let data := m.data ++ bs
    if data.length < copySrc m || m.key.isSome then updCopy s core fun m => { m with data := data, gotAt := s.cyc }
    else copyOpen s core m data
  else copyPut s core m off bs

/-! ### Units -/

/-- The running transfer with one more unit moved in a cycle. -/
def moved (cyc : Nat) (m : CopyCmd) : CopyCmd :=
  { m with lastMove := cyc, movedNow := if m.lastMove = cyc then m.movedNow + 1 else 1 }

/-- The running transfer with one more source unit moved in a cycle. -/
def countUnit (core cyc : Nat) (m : CopyCmd) : CopyCmd := copySettle core { moved cyc m with units := m.units + 1 }

/-- A unit read from the own scratchpad: its bytes, those before it that an earlier read brought, and what this one brings of the 8-byte word
in which it ends (R219). -/
def copyRead (c : Core) (core cyc : Nat) (m : CopyCmd) (base : Nat) : List Byte × List Byte :=
  let n := unitLen m m.units
  let a := base + unitOff m m.units
  let stop := min (ceilDiv (a + n) 8 * 8) (base + copySrc m)
  let bs := m.ahead ++ spadRead c core .copy cyc (a + m.ahead.length) (stop - (a + m.ahead.length))
  (bs.take n, bs.drop n)

/-- The state with the bytes kept of lines taken before written: they stay, though the next line raises (R372). -/
def copyKeep (s : State) (core : Nat) (m : CopyCmd) : State :=
  writeSpad s core core (getCore s core).lidx .copy s.cyc (m.loc + 64 * m.units - m.tail.length) m.tail m.id

/-- A line taken from the landing slot (R372): address, sealed tag, the check of R112. -/
def copyLandUnit (s : State) (core : Nat) (m : CopyCmd) (x : SlotLine) : State :=
  let c := getCore s core
  let want := hAddr m.handle + m.farAddr + 64 * m.units
  let s1 := setCore s core (popLand c m.slot s.cyc)
  if x.addr ≠ want then copyFail (copyKeep s1 core m) core (Raise.at_ 0x21 want x.addr)
  else if x.line.ot.getLsbD 6 then copyFail (copyKeep s1 core m) core (Raise.at_ 0x31 x.addr x.addr)
  else
    match deliverLine s1 c.world (hConf m.handle) (hSealed m.handle) x with
    | (s2, none) => copyFail (copyKeep s2 core m) core (Raise.at_ 0x27 x.addr x.addr)
    | (s2, some (p, corr)) =>
      let s3 := updCore (copyGot s2 core m (64 * m.units) ((lineBytes p).take (unitLen m m.units))) core fun c =>
        slipFixed c m.q corr
      updCopy s3 core fun m => countUnit core s.cyc { m with fixed := if corr then m.fixed + 1 else m.fixed }

/-- One unit moved from any other source. -/
def copyUnit (s : State) (core : Nat) (m : CopyCmd) : State :=
  let c := getCore s core
  let off := unitOff m m.units
  let n := unitLen m m.units
  let count := fun s => updCopy s core (countUnit core s.cyc)
  if m.zfill then count (copyPut s core m off (List.replicate n 0))
  else if !m.toLocal || decide (m.far = 0) then
    let (bs, ahead) := copyRead c core s.cyc m (if m.toLocal then m.farAddr else m.loc)
    count (updCopy (copyGot s core m off bs) core fun m => { m with ahead := ahead })
  else if m.far = 1 then count (sendCopyLine s core m (.copyRead n off) (m.farAddr + off) [])
  else
    let (s1, bs, bad) :=
      match m.own with
      | some a => match gotBytes m.got (a + off) n with | some bs => (s, bs, false) | none => (s, List.replicate n 0, true)
      | none => outsideRead s c.world m.handle (m.farAddr + off) n
    count (copyGot (if bad then updCopy s1 core fun m => { m with status := 3 } else s1) core
      (if bad then { m with status := 3 } else m) off bs)

/-- One unit of a held output sent, appended or made part of an entry. -/
def copyEmit (s : State) (core : Nat) (m : CopyCmd) : State :=
  let s1 := copyPut s core m (copyOut m - m.out.length) (m.out.take 64)
  updCopy s1 core fun m => copySettle core { moved s.cyc m with out := m.out.drop 64 }

/-- COPY_START (R373, R294, R295): the first bytes move at once, after 8 cycles for FAR 5, and for an outside read after a free number
of cycles, or as the package's own remote bins deliver its lines; a refused read is zero-filled, a refused write changes nothing. DESIGN
CHOICE: a transposed or ranked transfer to a port, a slot or lq reads its source in this cycle, and its output moves after the added
cycles (log 92). -/
def execCopyStart (core : Nat) (s : State) : Out :=
  let c := getCore s core
  match copyStarts c s.cyc, c.copyQ with
  | true, m :: _ =>
    let outside := copyOutside m
    let refused := outside && outsideRefused s c.world m.handle m.farAddr (if m.toLocal then copySrc m else copyOut m) s.free
    let own := copyOwnSource s c.world m
    let away := outside && m.toLocal && own.isNone
    let emits := copyEmits m
    let d0 := (if m.far = 5 then s.cyc + 8 else if away then s.cyc + Config.returnDelay s.free else s.cyc) +
      (if emits then orderExtra m else 0)
    let m1 : CopyCmd := { m with start := some s.cyc, d0 := d0, lastMove := d0 - 1, own := own.map (·.2) }
    let m2 : CopyCmd :=
      if refused && m.toLocal then { m1 with status := 3, zfill := true, key := none, tr := 0 }
      else if refused then { m1 with status := 3 }
      else if emits then
        { m1 with units := copyUnits m, out := orderThree m (spadRead c core .copy s.cyc m.loc (copySrc m)) }
      else m1
    let s1 := updCopy (if outside then (freshFree s).2 else s) core fun _ => copySettle core m2
    .next (match own with | some (v, a) => queueReads s1 (.copyRead v core m.id) a (copySrc m) | none => s1)
  | _, _ => .next s

/-- One move of the copy engine. -/
def copyMove (s : State) (core : Nat) (m : CopyCmd) : State :=
  if copyUnits m ≤ m.units then copyEmit s core m
  else
    match (if m.far = 3 ∧ !m.zfill then landHead (getCore s core) m.slot s.cyc else none) with
    | some x => copyLandUnit s core m x
    | none => copyUnit s core m

/-- The engine's move, where it is of a kind. -/
def copyDo (k : CopyMove) (core : Nat) (s : State) : Out :=
  match decide (copyNext (getCore s core) s.cyc = some k), (getCore s core).copyQ with
  | true, m :: _ => .next (copyMove s core m)
  | _, _ => .next s

/-- COPY_LAND_LINE_TAKE (R372). -/
def execCopyLandLineTake (core : Nat) (s : State) : Out := copyDo .landLine core s
/-- OUTGOING_SLOT_LINE_APPEND (R372). -/
def execOutgoingSlotLineAppend (core : Nat) (s : State) : Out := copyDo .append core s
/-- COPY_LQ_ENTRY_PUSH (R373). -/
def execCopyLqEntryPush (core : Nat) (s : State) : Out := copyDo .lqPush core s

/-- The state with the running transfer completed (R374). -/
def copyComplete (s : State) (core : Nat) (m : CopyCmd) : State :=
  completeCommand (updCore s core fun c => { c with copyQ := c.copyQ.drop 1, copyFree := s.cyc }) core .copy m.id 0 m.status
    m.barrier m.count (decide (m.status ≠ 0))

/-- COPY_COMPLETION (R371, R374): the engine's step of the cycle on a running transfer: a unit moved, a gathered source opened, or its
completion. -/
def execCopyCompletion (core : Nat) (s : State) : Out :=
  match copyNext (getCore s core) s.cyc, (getCore s core).copyQ with
  | some .complete, m :: _ => .next (copyComplete s core m)
  | some .open_, m :: _ => .next (copyOpen s core m m.data)
  | some .unit, m :: _ => .next (copyMove s core m)
  | _, _ => .next s

/-! ### Inbound ports (R204) -/

/-- Whether a line is taken before another that waits at the same port. -/
def inBefore (a b : InReq) : Bool :=
  let ra := if a.party = .copy then 1 else 0
  let rb := if b.party = .copy then 1 else 0
  decide (a.cyc < b.cyc) || (decide (a.cyc = b.cyc) && (decide (a.fromIdx < b.fromIdx) ||
    (decide (a.fromIdx = b.fromIdx) && (decide (ra < rb) || (decide (ra = rb) && decide (a.id < b.id))))))

/-- The line a port takes next. -/
def inNext (c : Core) : Option InReq :=
  match c.inbound with
  | [] => none
  | r :: rs => some (rs.foldl (fun acc x => if inBefore x acc then x else acc) r)

/-- Whether a port takes a line in the cycle: one a cycle. -/
def inDue (c : Core) (cyc : Nat) : Bool := !c.inbound.isEmpty && decide (c.inTaken ≤ cyc)

/-- The state with a die access's value come back (R204). -/
def inAnswer (s : State) (target : Nat) (r : InReq) (v : Word64) : State :=
  updCore s r.fromCore fun c =>
    { c with flight := c.flight.map fun f =>
        if f.awaits = some r.id then { f with awaits := none, val := .word v false, real := s.cyc + dieLatency r.fromCore target }
        else f }

/-- The running transfer of a core after the port has taken one of its lines. -/
def inCounted (s : State) (r : InReq) (f : CopyCmd → CopyCmd) : State :=
  updCopy s r.fromCore fun m => f { m with pending := m.pending - 1, late := max m.late (s.cyc - r.cyc) }

/-- A line performed at a core's scratchpad in the running cycle, its class 6 rights held. -/
def inPerform (s : State) (target : Nat) (r : InReq) : State :=
  let c := getCore s target
  match r.kind with
  | .load size sx =>
    inAnswer s target r (ldWord size sx (spadRead c r.fromCore (.seq .c) s.cyc r.addr size))
  | .store => writeSpad s target r.fromCore r.fromIdx (.seq .c) s.cyc r.addr r.bytes 0
  | .atomic fn d swap =>
    let x := atomicOn c r.fromCore r.fromIdx (.seq .c) s.cyc r.addr fn d swap
    inAnswer (setCore s target x.1) target r x.2
  | .copyWrite =>
    inCounted (writeSpad s target r.fromCore r.fromIdx .copy s.cyc r.addr r.bytes r.cmd) r id
  | .copyRead n off =>
    match (getCore s r.fromCore).copyQ with
    | m :: _ => inCounted (copyGot s r.fromCore m off (spadRead c r.fromCore .copy s.cyc r.addr n)) r id
    | [] => s

/-- Whether a line belongs to a command that still runs: an abandoned transfer has no further effect. -/
def inLive (s : State) (r : InReq) : Bool :=
  decide (r.party ≠ .copy) || ((getCore s r.fromCore).copyQ.head?).any fun m => decide (m.id = r.cmd)

/-- The rights and the length of a line's access. -/
def inAccess (r : InReq) : Bool × Bool × Nat :=
  match r.kind with
  | .load n _ => (true, false, n)
  | .store => (false, true, r.bytes.length)
  | .atomic _ _ _ => (true, true, 8)
  | .copyWrite => (false, true, r.bytes.length)
  | .copyRead n _ => (true, false, n)

/-- INBOUND_LINE_TAKE (R204, R74): the port takes its next line, checked against class 6; a failure raises 0x26 on the issuing
core. -/
def execInboundLineTake (core : Nat) (s : State) : Out :=
  let c := getCore s core
  match inDue c s.cyc, inNext c with
  | true, some r =>
    let s1 := setCore s core { c with inbound := c.inbound.filter fun x => decide (x.id ≠ r.id), inTaken := s.cyc + 1 }
    let (rd, wr, n) := inAccess r
    if !inLive s r then .next s1
    else if phaseOk c 6 s.cyc rd wr r.addr n then .next (inPerform s1 core r)
    else if r.party = .copy then .next (copyFail s1 r.fromCore (Raise.at_ 0x26 r.addr r.addr))
    else .next (raiseOn s1 r.fromCore (.seq .c) (Raise.at_ 0x26 r.addr r.addr))
  | _, _ => .next s

end Sys2Proof.Machine
end

