-- ==== Sys2Proof/Machine/Rows.lean ====
section
/-!
DEFINITION. The row engines: ROWG, ROWS and ROWSA on tables in die scratchpad, package memory and domain memory (R27, R162 to R167,
R417 to R419).
-/

namespace Sys2Proof.Machine

open Sys2Proof

/-! ### Frames (R237, R238) -/

/-- The frame that holds a cycle. -/
def frameOf (s : State) (cyc : Nat) : Nat := cyc / 2 ^ s.frameLog2

/-- The world whose accepted flow has a core for its ring core: it is given that core in every frame while the entry stays valid
(R168). -/
def ringOwner (s : State) (p : Nat) : Option Nat :=
  (s.worlds.find? fun (e : Nat × World) => e.2.flows.any fun f => f.2.valid && decide (f.2.core = p)).map (·.1)

/-- The world that a frame gives a unit byte: a ring core's own, else the frame table's. -/
def unitWorld (s : State) (frame unit : Nat) : Nat :=
  (ringOwner s unit).getD ((smGet 0 s.frameTable (frame % 32 * 2048 + unit)).toNat % 64)

/-- The world that owns a channel in the running frame. -/
def chanWorld (s : State) (ch : Nat) : Nat := unitWorld s (frameOf s s.cyc) (512 + ch)

/-- The world that owns a die's row engine in the running frame. -/
def rowWorld (s : State) (d : Nat) : Nat := unitWorld s (frameOf s s.cyc) (1024 + d)

/-! ### The descriptor (Table 19.9) -/

/-- The fields of a row-engine descriptor. -/
structure RowDesc where
  bound : Nat
  bv : Bool
  tkind : Bool
  rb : Nat
  n : Nat
  bar : Nat
  loc : Nat
  idx : Nat
  table : Nat
  h : Nat
  stride : Nat
  trows : Nat
  fv : Bool
  cap : Nat
  nw : Nat
  wlen : Nat
  stamp : Nat
  fill : Nat
  deriving DecidableEq, Repr

/-- A field of a descriptor word. -/
def wordField (w : Word64) (lo n : Nat) : Nat := (w.extractLsb' lo n).toNat

/-- A descriptor's fields. -/
def rowDesc (ws : List Word64) : RowDesc :=
  let w (i : Nat) : Word64 := ws.getD i 0
  let rb := 64 * wordField (w 0) 13 7
  let tk := (w 0).getLsbD 20
  { bound := wordField (w 0) 44 20
    bv := (w 0).getLsbD 21
    tkind := tk
    rb := rb
    n := wordField (w 0) 0 13
    bar := wordField (w 1) 42 21
    loc := wordField (w 1) 21 21
    idx := wordField (w 1) 0 21
    table := if tk then wordField (w 2) 0 32 else wordField (w 2) 0 30
    h := wordField (w 2) 32 5
    stride := if wordField (w 3) 32 32 = 0 then rb else wordField (w 3) 32 32
    trows := wordField (w 3) 0 32
    fv := (w 4).getLsbD 58
    cap := wordField (w 4) 52 6 + 1
    nw := wordField (w 4) 44 8 + 1
    wlen := wordField (w 4) 32 12
    stamp := wordField (w 4) 0 32
    fill := wordField (w 5) 0 21 }

/-- Whether a field that every table has is out of its range, or a must-be-zero bit of one is set (R417 step 4). -/
def rowFieldsBad (ws : List Word64) (d : RowDesc) : Bool :=
  let w (i : Nat) : Word64 := ws.getD i 0
  decide (d.n = 0) || decide (4096 < d.n) || decide (d.rb = 0) || decide (4096 < d.rb) || decide (d.stride % 64 ≠ 0) ||
    decide (wordField (w 0) 22 22 ≠ 0) || (w 1).getLsbD 63 || decide (wordField (w 4) 59 5 ≠ 0) || decide (wordField (w 5) 21 43 ≠ 0) ||
    decide ((if d.tkind then wordField (w 2) 37 27 else wordField (w 2) 30 34) ≠ 0) || decide (w 6 ≠ 0) || decide (w 7 ≠ 0)

/-- Whether the fields that only a table in package memory uses are out of their ranges, or, for another table, not zero (R417 step 4). -/
def rowWindowsBad (ws : List Word64) (d : RowDesc) (package : Bool) : Bool :=
  let w (i : Nat) : Word64 := ws.getD i 0
  if package then decide (d.wlen < 40 * d.cap) else decide (w 4 ≠ 0) || decide (w 5 ≠ 0)

/-! ### Issue (R417) -/

/-- A scratchpad range of a row command: within 2^21 and class 4's set. -/
def rowRange (s : State) (rd wr : Bool) (a n : Nat) : Except Raise Unit :=
  if 2 ^ 21 < a + n || !phaseOk (getCore s s.turn.core) 4 s.cyc rd wr a n then .error (Raise.at_ 0x26 a a) else .ok ()

/-- The handle that a TKIND 1 table names. -/
def rowHandle (s : State) (d : RowDesc) : Word64 := readHandle (getCore s s.turn.core) d.h

/-- Whether a descriptor's table is one whose handle passes checks 1 and 2 of Table 4.6, so that its FRAME may be read (R107). -/
def rowHandleOk (s : State) (d : RowDesc) : Bool :=
  d.tkind && hValid (rowHandle s d) && decide (hWorld (rowHandle s d) = (getCore s s.turn.core).world) &&
    decide (hSpace (rowHandle s d) ≠ 3)

/-- Whether a descriptor's table lies in package memory. -/
def rowPackage (s : State) (d : RowDesc) : Bool := rowHandleOk s d && decide (hSpace (rowHandle s d) = 0)

/-- The bytes of a table from its row 0 to the end of its last row. -/
def tableBytes (d : RowDesc) : Nat := if d.trows = 0 then 0 else (d.trows - 1) * d.stride + d.rb

/-- Whether the die's row engine has room for one more command of the core (R417 step 8). -/
def rowRoom (s : State) (p : Nat) : Bool :=
  decide (((getRows s (p / 128)).filter fun r => decide (r.core = p) && r.start.isNone).length < 4)

/-- The checks 4 to 8 of R417, and R27's. What depends on a handle's space waits for checks 1 and 2 of Table 4.6, so that a handle that
fails them raises its own cause (R106, R107). -/
def rowChecks (op : Nat) (ws : List Word64) (d : RowDesc) (s : State) : Except Raise Unit :=
  let p := s.turn.core
  let pkg := rowPackage s d
  let dom := decide (hSpace (rowHandle s d) = 2)
  firstError [
    need (!rowFieldsBad ws d) (Raise.of 0x01),
    need ((d.tkind && !rowHandleOk s d) || !rowWindowsBad ws d pkg) (Raise.of 0x01),
    rowRange s true false d.idx (4 * d.n),
    rowRange s (decide (op ≠ 0)) (decide (op = 0)) d.loc (d.n * d.rb),
    (if d.bv then rowRange s false true (d.bar / 8 * 8) 8 else .ok ()),
    (if pkg && d.fv then rowRange s false true d.fill 1024 else .ok ()),
    need (d.tkind || decide (d.table / 2 ^ 21 < lcountOf s p)) (Raise.at_ 0x23 d.table d.table),
    (if d.tkind then
      useHandle s p d.h (rowHandle s d) d.table (tableBytes d) (some (if dom then 2 else 0)) false 0x31 (decide (op ≠ 0))
    else .ok ()),
    need (decide (rowWorld s (p / 128) = (getCore s p).world)) (Raise.of 0x23),
    need (rowRoom s p) (Raise.of 0x11)]

/-- The effect of a row-engine word at issue. -/
def rowAct (op : Nat) (a : Reg) (imm : Word32) (s : State) : Except Raise (State × Flow) :=
  match ctlDescriptor s a imm 8 with
  | .error r => .error r
  | .ok (ws, low) =>
    let d := rowDesc ws
    match rowChecks op ws d s with
    | .error r => .error r
    | .ok _ =>
      let p := s.turn.core
      let id := (freshId s).1
      let cmd : RowCmd :=
        { id := id, op := op, core := p, lidx := (getCore s p).lidx, issued := s.cyc, bound := d.bound, n := d.n, rb := d.rb,
          idx := d.idx, loc := d.loc, table := d.table, handle := if d.tkind then some (rowHandle s d) else none,
          stride := d.stride, trows := d.trows, win0 := entryOf s p + d.stamp, wlen := d.wlen, nw := d.nw, cap := d.cap,
          fillAt := if rowPackage s d && d.fv then some d.fill else none,
          barrier := if d.bv then some ⟨p, d.bar⟩ else none, start := none, finish := 0, list := [], row := 0, entries := [],
          fills := [], done := [], sums := [], times := [], lines := 0, fail := false, waits := 0, got := [], late := 0, closed := false }
      .ok (goOn (setRows (warnHereIf low warnMod (freshId s).2) (p / 128) (getRows s (p / 128) ++ [cmd])))

/-- The h register that a row-engine word reads: the one its descriptor names (R67). -/
def rowReads (a : Reg) (imm : Word32) (s : State) : List Dest :=
  match ctlDescriptor s a imm 8 with
  | .error _ => []
  | .ok (ws, _) => if (rowDesc ws).tkind then [.h (rowDesc ws).h] else []

/-- The plan of a row-engine word. -/
def rowPlan (op : Nat) (h : Hdr) (a : Reg) (imm : Word32) (s : State) : WordPlan :=
  WordPlan.plain 2 [.c] h.mbz false (destHere s a :: rowReads a imm s) [] (rowAct op a imm)

/-- ROWG (R417, R418). -/
def execRowg (h : Hdr) (a : Reg) (imm : Word32) (s : State) : Out := issueWord (rowPlan 0 h a imm s) s
/-- ROWS (R417, R418). -/
def execRows (h : Hdr) (a : Reg) (imm : Word32) (s : State) : Out := issueWord (rowPlan 1 h a imm s) s
/-- ROWSA (R417, R418). -/
def execRowsa (h : Hdr) (a : Reg) (imm : Word32) (s : State) : Out := issueWord (rowPlan 2 h a imm s) s

/-! ### The engine -/

/-- Where a command's table lies. -/
inductive TableKind where
  | scratch
  | package
  | domain
  deriving DecidableEq, Repr

/-- A command's table kind. -/
def rowKind (r : RowCmd) : TableKind :=
  match r.handle with
  | none => .scratch
  | some h => if hSpace h = 0 then .package else .domain

/-- Whether the index at a list position names a table row (R162). -/
def rowValid (r : RowCmd) (i : Nat) : Bool := decide (r.list.getD i 0 < r.trows) && decide (r.list.getD i 0 ≠ 2 ^ 32 - 1)

/-- Whether any index is out of the table without being the skip value: warn(RIDX). -/
def rowRidx (r : RowCmd) : Bool := r.list.any fun x => decide (x ≠ 2 ^ 32 - 1) && decide (r.trows ≤ x)

/-- The lines of one row. -/
def rowLines (r : RowCmd) : Nat := r.rb / 64

/-- The package address of line l of table row x; low bits of the table's offset are ignored (log 34). -/
def tableLine (r : RowCmd) (x l : Nat) : Nat :=
  (hAddr (r.handle.getD 0) + r.table + x * r.stride) / 64 * 64 + 64 * l

/-- A command's bin entries in list order, before their windows are known: channel, address, write, row and line (R165). -/
def sortedEntries (r : RowCmd) : List (Nat × Nat × Bool × Nat × Nat) :=
  (List.range r.n).flatMap fun i =>
    if !rowValid r i then []
    else
      (List.range (rowLines r)).flatMap fun l =>
        let a := tableLine r (r.list.getD i 0) l
        match r.op with
        | 0 => [(chanOf a, a, false, i, l)]
        | 1 => [(chanOf a, a, true, i, l)]
        | _ => [(chanOf a, a, false, i, l), (chanOf a, a, true, i, l)]

/-- The entries with their windows: the k-th of a channel belongs to window k / CAP (R165). -/
def windowEntries (die : Nat) (r : RowCmd) :
    List (Nat × Nat × Bool × Nat × Nat) → SMap Nat → List (Nat × BinEntry)
  | [], _ => []
  | (ch, a, w, i, l) :: rest, counts =>
    let k := smGet 0 counts ch
    (ch, ⟨a, w, r.win0 + k / r.cap * r.wlen, .rowLine die r.id i l, none⟩) ::
      windowEntries die r rest (smSet 0 counts ch (k + 1))

/-- The place of a die's row engine among writers and observers (Table 8.2). -/
def rowPlace (die : Nat) : Nat := 512 + die

/-- The state with a die's running row command changed. -/
def updRow (s : State) (die : Nat) (f : RowCmd → RowCmd) : State :=
  match getRows s die with
  | r :: rest => setRows s die (f r :: rest)
  | [] => s

/-- Bytes written by a die's row engine to a core's scratchpad in a cycle; in coherence order they stand at the logical index of the
command's core (R206). -/
def rowWrite (s : State) (die : Nat) (r : RowCmd) (target cyc a : Nat) (bs : List Byte) : State :=
  writeSpad s target (rowPlace die) r.lidx .row cyc a bs r.id

/-- Bytes written to the local array of a command from offset `off` on. -/
def writeLocal (s : State) (die : Nat) (r : RowCmd) (off : Nat) (bs : List Byte) : State :=
  rowWrite s die r r.core s.cyc (r.loc + off) bs

/-- The bytes of a local row, or a line of one, as the row engine reads them. -/
def readLocal (s : State) (die : Nat) (r : RowCmd) (off n : Nat) : List Byte :=
  spadRead (getCore s r.core) (rowPlace die) .row s.cyc (r.loc + off) n

/-- Whether a die's next row command starts in the cycle. -/
def rowStarts (s : State) (die : Nat) : Bool :=
  match getRows s die with
  | r :: _ => r.start.isNone && decide (r.issued ≤ s.cyc)
  | [] => false

/-- The state with the entries of some commands taken out of a die's sections on every channel: a section holds the entries of the
running command only (R167). -/
def dropEntries (s : State) (die : Nat) (ids : List Nat) : State :=
  let keep (e : BinEntry) : Bool := match e.who with | .rowLine _ cmd _ _ => !ids.contains cmd | _ => true
  s.chans.foldl (fun (s : State) (e : Nat × Channel) =>
    setChan s e.1 { e.2 with bin0 := smSet [] e.2.bin0 die ((smGet [] e.2.bin0 die).filter keep) }) s

/-- The state with a die's running command ended by a trap (R248): its queued entries go. -/
def rowFail (s : State) (die : Nat) (r : RowCmd) (raise : Raise) : State :=
  raiseOn (dropEntries (setRows s die ((getRows s die).drop 1)) die [r.id]) r.core .row raise

/-- ROWG's skipped local rows set to zero (R162). -/
def zeroSkipped (s : State) (die : Nat) (r : RowCmd) : State :=
  if r.op ≠ 0 then s
  else
    ((List.range r.n).filter fun i => !rowValid r i).foldl (fun s i =>
      writeLocal s die r (i * r.rb) (List.replicate r.rb 0)) s

/-- The device offset of row x of a domain table, its low bits ignored as a package table's are (log 34). -/
def domainOffset (r : RowCmd) (x : Nat) : Nat := (r.table + x * r.stride) / 64 * 64

/-- The rows of a domain table that the package's own number names, in list order: their worlds and package addresses (R295). -/
def ownRows (s : State) (r : RowCmd) : List (Nat × Nat) :=
  let h := r.handle.getD 0
  ((List.range r.n).filter (rowValid r)).filterMap fun i =>
    match domTarget s (getCore s r.core).world (hDevice h) (hDevAddr h + domainOffset r (r.list.getD i 0)) r.rb with
    | .own v a => some (v, a)
    | _ => none

/-- ROW_COMMAND_START (R162, R165, R418, R295): the index list is read, the entries of a package table are sorted, and the completion
cycle fixed; a package table whose window 0 has begun raises 0x10. DEDUCED: a scratchpad table's command of d cycles completes in
cycle start + d (R164, log 35). -/
def execRowCommandStart (die : Nat) (s : State) : Out :=
  match rowStarts s die, getRows s die with
  | true, r0 :: _ =>
    let bs := spadRead (getCore s r0.core) (rowPlace die) .row s.cyc r0.idx (4 * r0.n)
    let r : RowCmd := { r0 with list := (lanesOfBytes bs).map (·.toNat), start := some s.cyc }
    let s1 := updCore s r.core (warnIf (rowRidx r) warnRidx)
    match rowKind r with
    | .scratch => .next (updRow s1 die fun _ => { r with finish := s.cyc + 8 + ceilDiv (r.n * r.rb) 256 })
    | .package =>
      if r.win0 < s.cyc then .next (rowFail s1 die r (Raise.of 0x10))
      else
        let sorted := sortedEntries r
        let lines := ((List.range r.n).filter (rowValid r)).length * rowLines r
        .next (zeroSkipped (updRow s1 die fun _ =>
          { r with finish := r.win0 + r.nw * r.wlen - 1, entries := windowEntries die r sorted [], lines := lines,
                   fills := (List.range 512).map fun ch => sorted.countP fun e => decide (e.1 = ch) }) die r)
    | .domain =>
      let (k, s2) := freshFree s1
      let own := if r.op = 0 then ownRows s r else []
      let finish := if own.isEmpty then s.cyc + Config.returnDelay k else s.cyc + 1
      let s3 := updRow s2 die fun _ => { r with finish := finish, waits := (own.map fun e => (linesAt e.2 r.rb).length).sum }
      .next (zeroSkipped (own.foldl (fun (s : State) (e : Nat × Nat) => queueReads s (.rowRead e.1 die r.id) e.2 r.rb) s3) die r)
  | _, _ => .next s

/-! ### Scratchpad tables (R164) -/

/-- The cycle in which row i of a scratchpad table is applied: its last byte's, at 256 bytes a cycle (log 35). -/
def rowCycle (r : RowCmd) (i : Nat) : Nat := r.start.getD 0 + (ceilDiv ((i + 1) * r.rb) 256 - 1)

/-- Row i applied, or the address whose rights fail (R164, R418). -/
def applyScratchRow (s : State) (die : Nat) (r : RowCmd) (i : Nat) : Except Nat State :=
  let x := r.list.getD i 0
  let own := getCore s r.core
  let ofs := r.loc + i * r.rb
  let dieIdx := r.table / 2 ^ 21
  let target := physOf s r.core dieIdx
  let a := r.table % 2 ^ 21 + x * r.stride
  let wr := decide (r.op ≠ 0)
  if !phaseOk own 4 s.cyc wr (!wr) ofs r.rb then .error ofs
  else if !rowValid r i then .ok (if r.op = 0 then writeLocal s die r (i * r.rb) (List.replicate r.rb 0) else s)
  else if 2 ^ 21 < a + r.rb || !phaseOk (getCore s target) (if target = r.core then 4 else 6) s.cyc
      (decide (r.op ≠ 1)) wr a r.rb then .error a
  else
    let old := spadRead (getCore s target) (rowPlace die) .row s.cyc a r.rb
    let mine := readLocal s die r (i * r.rb) r.rb
    match r.op with
    | 0 => .ok (writeLocal s die r (i * r.rb) old)
    | 1 => .ok (rowWrite s die r target s.cyc a mine)
    | _ => .ok (rowWrite s die r target s.cyc a (addFp32 old mine))

/-! ### Package tables (R165 to R167) -/

/-- The section of a channel's bin 0 that serves a die. -/
def binSection (s : State) (ch die : Nat) : List BinEntry := smGet [] (getChan s ch).bin0 die

/-- The first entry that a die's row engine may append to its section of its channel's bin: its window has begun and the section
has room, behind no earlier entry of the channel. -/
def nextEntry (s : State) (die : Nat) (r : RowCmd) : Option (Nat × BinEntry) :=
  r.entries.find? fun e => decide (e.2.since ≤ s.cyc) && decide ((binSection s e.1 die).length < 64)

/-- Whether a die's row engine appends entries in the cycle. -/
def rowWindowDue (s : State) (die : Nat) : Bool :=
  match getRows s die with
  | r :: _ => r.start.isSome && decide (s.cyc ≤ r.finish) && (nextEntry s die r).isSome
  | [] => false

/-- An entry as it enters its section: a ROWS entry takes its local row's line with it (R142, log 93). -/
def entryFilled (s : State) (die : Nat) (r : RowCmd) (e : BinEntry) : BinEntry :=
  match r.op, e.who with
  | 1, .rowLine _ _ row line => { e with line := some (lineOf (readLocal s die r (row * r.rb + 64 * line) 64)) }
  | _, _ => e

/-- ROW_WINDOW_START (R167): the entries of every window that has begun enter their sections, in list order, as far as there is
room. -/
def execRowWindowStart (die : Nat) (s : State) : Out :=
  match rowWindowDue s die, getRows s die with
  | true, r :: _ =>
    let step := fun (acc : State × List (Nat × BinEntry)) (e : Nat × BinEntry) =>
      if e.2.since ≤ s.cyc ∧ (binSection acc.1 e.1 die).length < 64 then
        let c := getChan acc.1 e.1
        (setChan acc.1 e.1 { c with bin0 := smSet [] c.bin0 die (binSection acc.1 e.1 die ++ [entryFilled s die r e.2]) }, acc.2)
      else (acc.1, acc.2 ++ [e])
    let (s1, left) := r.entries.foldl step (s, [])
    .next (updRow s1 die fun r => { r with entries := left })
  | _, _ => .next s

/-- The running row command of a die, where it is the one numbered and its windows have not ended. -/
def rowById (s : State) (die cmd : Nat) : Option RowCmd :=
  match getRows s die with
  | r :: _ => if r.id = cmd ∧ r.start.isSome ∧ !r.closed then some r else none
  | [] => none

/-- A row command that one more line reached corrected: its bound and its completion move by 80 cycles (R112). -/
def rowCorrected (corr : Bool) (r : RowCmd) : RowCmd := if corr then { r with bound := r.bound + 80, late := r.late + 80 } else r

/-- The bytes [lo, hi) of local row i of a ROWG out of the lines that have come. -/
def rowGotBytes (r : RowCmd) (i lo hi : Nat) : List Byte :=
  (List.range (hi - lo)).map fun k => (lineBytes (smGet 0 r.sums (i * 64 + (lo + k) / 64))).getD ((lo + k) % 64) 0

/-- The cycle in which a ROWG's line that has come reaches its local row (Table 4.8, log 94). -/
def rowTime (r : RowCmd) (i l : Nat) : Nat := smGet 0 r.times (i * 64 + l)

/-- Where the aligned 8-byte word that lines l and l + 1 of a local row share begins and ends in the row; they are one where they share
none. -/
def sharedWord (r : RowCmd) (l : Nat) : Nat × Nat :=
  let z := r.loc % 8
  (64 * (l + 1) - z, 64 * (l + 1) + (8 - z) % 8)

/-- What line l of row i of a ROWG, just come, brings into the local row, as the row's bytes [lo, hi) and a cycle: the whole 8-byte words
of its own, and each that it shares with a neighbour that has come too, in the later of the two cycles (R219, log 91). -/
def rowPieces (r : RowCmd) (i l : Nat) : List (Nat × Nat × Nat) :=
  let t := rowTime r i l
  let come (k : Nat) : Bool := r.done.contains (i, k)
  let before := if 0 < l ∧ come (l - 1) then [((sharedWord r (l - 1)).1, (sharedWord r (l - 1)).2, max t (rowTime r i (l - 1)))] else []
  let after := if l + 1 < rowLines r ∧ come (l + 1) then [((sharedWord r l).1, (sharedWord r l).2, max t (rowTime r i (l + 1)))] else []
  let lo := if l = 0 then 0 else (sharedWord r (l - 1)).2
  let hi := if l + 1 < rowLines r then (sharedWord r l).1 else r.rb
  before ++ [(lo, hi, t)] ++ after

/-- The state with a ROWG's line just come written into its local row (R142, R219). -/
def rowPlaced (s : State) (die : Nat) (r : RowCmd) (i l : Nat) : State :=
  (rowPieces r i l).foldl (fun s p => rowWrite s die r r.core p.2.2 (r.loc + i * r.rb + p.1) (rowGotBytes r i p.1 p.2.1)) s

/-- The last cycle of a package command (R166, R418), moved by the lines that came corrected (R112). -/
def packageLast (r : RowCmd) : Nat := r.finish + r.late

/-- A line that a read window has delivered to a row engine in the running cycle (R142, R112, R118); a CONF line reaches the local row
24 cycles later (Table 4.8, log 94), a corrected one 80, and every line by the command's last cycle (R210, log 84). -/
def rowDelivered (s : State) (die cmd row line : Nat) (x : SlotLine) : State :=
  match rowById s die cmd with
  | none => s
  | some r =>
    let h := r.handle.getD 0
    let w := (getCore s r.core).world
    if x.line.ot.getLsbD 6 then s
    else
      match deliverLine s w (hConf h) false x with
      | (s1, none) => rowFail s1 die r (Raise.at_ 0x27 x.addr x.addr)
      | (s1, some (p, corr)) =>
        let s2 := updCore (updRow s1 die (rowCorrected corr)) r.core fun c => slipFixed c .c corr
        let off := row * r.rb + 64 * line
        if r.op = 0 then
          let q := rowCorrected corr r
          let t := min (packageLast q) (s.cyc + (if hConf h then 24 else 0) + if corr then 80 else 0)
          let q1 := { q with done := q.done ++ [(row, line)], sums := smSet 0 q.sums (row * 64 + line) p,
                             times := smSet 0 q.times (row * 64 + line) t }
          updRow (rowPlaced s2 die q1 row line) die fun _ => q1
        else
          let sum := lineOf (addFp32 (lineBytes p) (readLocal s2 die r off 64))
          updRow s2 die fun r =>
            { r with sums := smSet 0 r.sums (row * 64 + line) sum,
                     done := r.done ++ [(row, line)] ++ if corr then [(row, line + 128)] else [] }

/-- The line that a write window takes for a row engine's entry (R142), and the cycles by which it is stored later: ROWS stores the entry's
line, ROWSA the sum; 24 cycles for a CONF line (Table 4.8, log 94), 80 where ROWSA's line was corrected (R112). -/
def rowSupplied (s : State) (die cmd row line addr : Nat) (held : Option (BitVec 512)) : State × Option (Line × Nat) :=
  match rowById s die cmd with
  | none => (s, none)
  | some r =>
    let h := r.handle.getD 0
    let w := (getCore s r.core).world
    let bits : Option (BitVec 512) :=
      if r.op = 1 then held
      else if r.done.contains (row, line) then some (smGet 0 r.sums (row * 64 + line))
      else none
    match bits with
    | none => (s, none)
    | some b =>
      (updRow s die fun r =>
        { r with done := if r.op = 1 then r.done ++ [(row, line)] else r.done.filter (· ≠ (row, line)) ++ [(row, line + 64)] },
        some (lineSeal s w (hConf h) false addr b,
          (if hConf h then 24 else 0) + if r.done.contains (row, line + 128) then 80 else 0))

/-- Whether a line of a command has been served: read, for ROWG; written, for ROWS and ROWSA. -/
def lineServed (r : RowCmd) (i l : Nat) : Bool := r.done.contains (i, if r.op = 2 then l + 64 else l)

/-- The lines of a package command, each with its row. -/
def commandLines (r : RowCmd) : List (Nat × Nat) :=
  ((List.range r.n).filter (rowValid r)).flatMap fun i => (List.range (rowLines r)).map fun l => (i, l)

/-- The state with a die's sections emptied on every channel (R166). -/
def clearSections (s : State) (die : Nat) : State :=
  { s with chans := s.chans.filterMap fun e =>
      let c := { e.2 with bin0 := smSet [] e.2.bin0 die [] }
      if c = Channel.zero then none else some (e.1, c) }

/-! ### Completion (R166, R419) -/

/-- The state with a row command completed: its barrier, its record with a status, CR 0x033. -/
def rowComplete (s : State) (die : Nat) (r : RowCmd) (fail : Bool) (status : Nat) : State :=
  completeCommand (setRows s die ((getRows s die).drop 1)) r.core .row r.id 3 (min status 0xFFFF) r.barrier (r.n * r.rb) fail

/-- The state at the end of a package command's last window (R166): the entries not served are discarded, and what a window of the command
still brings is not taken. -/
def packageClose (s : State) (die : Nat) : State :=
  updRow (clearSections s die) die fun r => { r with entries := [], closed := true }

/-- A package command's end: unserved ROWG lines are zero, with the words that they share with lines that came (R219), and the fill array
is written (R166). -/
def packageEnd (s : State) (die : Nat) (r : RowCmd) : State :=
  let left := (commandLines r).filter fun p => !lineServed r p.1 p.2
  let s2 := if r.op = 0 then
      left.foldl (fun s p =>
        let lo := if p.2 = 0 then 0 else (sharedWord r (p.2 - 1)).1
        let hi := if p.2 + 1 < rowLines r then (sharedWord r p.2).2 else r.rb
        writeLocal s die r (p.1 * r.rb + lo) (rowGotBytes r p.1 lo hi)) s
    else s
  let s3 := match r.fillAt with
    | some a => rowWrite s2 die r r.core s.cyc a (r.fills.flatMap fun n => leBytes 2 (n % 2 ^ 16))
    | none => s2
  rowComplete s3 die r (!left.isEmpty) left.length

/-- A line delivered to a die's running command by a remote bin (R295): a corrected one makes it wait 80 cycles longer, an uncorrectable one
ends its segment with 0x27 (R112). -/
def rowGot (s : State) (die cmd addr : Nat) (x : PortGot) : State :=
  match getRows s die with
  | r :: rest =>
    if r.id ≠ cmd then s
    else if x = .broken then rowFail s die r (Raise.at_ 0x27 addr addr)
    else
      updCore (setRows s die (rowCorrected x.corrected { r with waits := r.waits - 1, got := r.got ++ [(addr, x.plain?)] } :: rest))
        r.core fun c => slipFixed c .c x.corrected
  | [] => s

/-- Row i of a domain command: read into the local array, or held in the commit buffer; the flag says that its target refused it
(R294). -/
def domainRow (s : State) (die : Nat) (r : RowCmd) (i : Nat) : State × Bool :=
  let h := r.handle.getD 0
  let w := (getCore s r.core).world
  let off := domainOffset r (r.list.getD i 0)
  let s0 := (freshFree s).2
  if outsideRefused s w h off r.rb s.free then
    (if r.op = 0 then writeLocal s0 die r (i * r.rb) (List.replicate r.rb 0) else s0, true)
  else if r.op = 0 then
    let (s1, bs, bad) :=
      match domTarget s0 w (hDevice h) (hDevAddr h + off) r.rb with
      | .own _ a => match gotBytes r.got a r.rb with | some bs => (s0, bs, false) | none => (s0, List.replicate r.rb 0, true)
      | _ => outsideRead s0 w h off r.rb
    (writeLocal s1 die r (i * r.rb) bs, bad)
  else (holdWrite s0 r.core r.id h off (readLocal s die r (i * r.rb) r.rb) (decide (r.op = 2)), false)

/-- A domain command's end. -/
def domainEnd (s : State) (die : Nat) (r : RowCmd) : State :=
  let (s1, refused) := ((List.range r.n).filter (rowValid r)).foldl (fun acc i =>
    let (s1, bad) := domainRow acc.1 die r i
    (s1, if bad then acc.2 + rowLines r else acc.2)) (s, 0)
  rowComplete s1 die r (decide (refused ≠ 0)) refused

/-- Whether a die's running row command acts in the cycle: a row of a scratchpad table, the end of its windows, or its completion. -/
def rowDue (s : State) (die : Nat) : Bool :=
  match getRows s die with
  | r :: _ =>
    r.start.isSome &&
      (match rowKind r with
      | .scratch => if r.row < r.n then decide (rowCycle r r.row ≤ s.cyc) else decide (r.finish ≤ s.cyc)
      | .package => decide (r.finish ≤ s.cyc) && (!r.closed || decide (packageLast r ≤ s.cyc))
      | .domain => decide (r.finish + r.late ≤ s.cyc) && decide (r.waits = 0))
  | [] => false

/-- ROW_COMMAND_COMPLETION (R164, R166, R418, R419): the running command's row of the cycle, the end of its windows, or its completion. -/
def execRowCommandCompletion (die : Nat) (s : State) : Out :=
  match rowDue s die, getRows s die with
  | true, r :: _ =>
    match rowKind r with
    | .scratch =>
      if r.row < r.n then
        match applyScratchRow s die r r.row with
        | .error a => .next (rowFail s die r (Raise.at_ 0x26 a a))
        | .ok s1 => .next (updRow s1 die fun r => { r with row := r.row + 1 })
      else .next (rowComplete s die r false 0)
    | .package => .next (if r.closed then packageEnd s die r else packageClose s die)
    | .domain => .next (domainEnd s die r)
  | _, _ => .next s

end Sys2Proof.Machine
end

