-- ==== Sys2Proof/Machine/Coll.lean ====
section
/-!
DEFINITION. The collective engine: COLL, the completion of an instance, its cancellation (R298 to R302, R361 to R368).
-/

namespace Sys2Proof.Machine

open Sys2Proof

/-! ### The descriptor (Table 18.10) -/

/-- A buffer of a descriptor: in memory through a handle, or in the scratchpad. -/
structure CollBuf where
  mem : Bool
  h : Nat
  off : Nat
  deriving DecidableEq, Repr

/-- The fields of a COLL descriptor. -/
structure CollDesc where
  bound : Nat
  dgroup : Nat
  square : Nat
  count : Nat
  rb : Nat
  nrows : Nat
  inb : CollBuf
  outb : CollBuf
  bv : Bool
  bar : Nat
  dbase : Nat
  rbin : Nat
  metaOut : Nat
  metaIn : Nat
  dmode : Bool
  dest : Nat
  deriving DecidableEq, Repr

/-- A buffer word. -/
def collBuf (w : Word64) : CollBuf :=
  if w.getLsbD 63 then ⟨true, wordField w 32 5, wordField w 0 32⟩ else ⟨false, 0, wordField w 0 21⟩

/-- A descriptor's fields. -/
def collDesc (ws : List Word64) : CollDesc :=
  let w (i : Nat) : Word64 := ws.getD i 0
  { bound := wordField (w 0) 24 20
    dgroup := wordField (w 0) 8 16
    square := wordField (w 0) 0 8
    count := wordField (w 1) 0 32
    rb := 64 * wordField (w 1) 16 7
    nrows := wordField (w 1) 0 13
    inb := collBuf (w 2)
    outb := collBuf (w 3)
    bv := (w 4).getLsbD 63
    bar := wordField (w 4) 0 21
    dbase := wordField (w 5) 0 32
    rbin := wordField (w 6) 42 4
    metaOut := wordField (w 6) 21 21
    metaIn := wordField (w 6) 0 21
    dmode := (w 7).getLsbD 21
    dest := wordField (w 7) 0 21 }

/-- Whether a bit that Table 18.10 does not list is set. -/
def collMbz (kind : Nat) (ws : List Word64) : Bool :=
  let w (i : Nat) : Word64 := ws.getD i 0
  let buf (x : Word64) : Bool := decide (wordField x (if x.getLsbD 63 then 37 else 21) (if x.getLsbD 63 then 26 else 42) ≠ 0)
  decide (wordField (w 0) 44 20 ≠ 0) ||
    decide ((if kind ≤ 3 then wordField (w 1) 32 32 else if kind ≤ 5 then wordField (w 1) 23 41 + wordField (w 1) 13 3 else wordField (w 1) 0 64) ≠ 0) ||
    buf (w 2) || buf (w 3) || decide (wordField (w 4) 21 42 ≠ 0) || decide (wordField (w 5) 32 32 ≠ 0) ||
    decide (wordField (w 6) 46 18 ≠ 0) || decide (wordField (w 7) 22 42 ≠ 0)

/-- Whether a size field is out of its range (R361; ranges of Table 18.10, DEDUCED, log 37). -/
def collBadSize (kind : Nat) (d : CollDesc) : Bool :=
  if kind ≤ 3 then decide (d.count % 4 ≠ 0) || decide (d.count = 0) || decide (2 ^ 21 < d.count)
  else if kind ≤ 5 then decide (d.rb = 0) || decide (4096 < d.rb) || decide (4096 < d.nrows)
  else false

/-! ### Participants (R362, R299) -/

/-- Whether a member of a group's list is a launch of this package. -/
def ownMember (s : State) (launch : Nat) (m : Nat × Nat × Nat) : Bool :=
  decide (m.1 = s.domain.getD 0) && decide (m.2.2 = launch)

/-- Whether two launches of this package have enrolled in one group (R299). -/
def sameGroup (s : State) (g a b : Nat) : Bool :=
  s.groups.any fun e => decide (e.1 = g) && e.2.2.any (ownMember s a) && e.2.2.any (ownMember s b)

/-- The members of a launch's domain group that have enrolled so far: domain number, world and launch of each; with them the group's
launch count (R299). -/
def groupMembers (s : State) (g launch : Nat) : Nat × List (Nat × Nat × Nat) :=
  ((s.groups.find? fun e => decide (e.1 = g) && e.2.2.any (ownMember s launch)).map (·.2)).getD (0, [])

/-- The launches of this package in a launch's domain group, as far as enrolled. -/
def ownLaunches (s : State) (g launch : Nat) : List Nat :=
  ((groupMembers s g launch).2.filter fun m => decide (m.1 = s.domain.getD 0)).map (·.2.2)

/-- The launches of this package in a launch's domain group, once the group is complete (R299). -/
def groupLaunches (s : State) (g launch : Nat) : Option (List Nat) :=
  let ms := (groupMembers s g launch).2
  if ms ≠ [] ∧ ms.length = (groupMembers s g launch).1 then some (ownLaunches s g launch) else none

/-- The participants of a square on the other packages of a launch's domain group whose domain numbers satisfy a test (R362). -/
def remoteCount (s : State) (g launch square : Nat) (keep : Nat → Bool) : Nat :=
  (((groupMembers s g launch).2.filter fun m => decide (m.1 ≠ s.domain.getD 0) && keep m.1).map fun m =>
    Config.remoteSquare m square).sum

/-- The cores of a launch's square, in square-rank order. -/
def squareCores (s : State) (launch square : Nat) : List Nat :=
  let l := getLaunch s launch
  (smGet [] l.squares square).map fun i => l.cores.getD i 0

/-- The launch of an instance's first local participant. -/
def collLaunch (i : Coll) : Nat := ((i.parts.head?).map (·.launch)).getD 0

/-- The local participants an instance waits for, as launch and core; none while they are not known. -/
def collMembers (s : State) (i : Coll) : Option (List (Nat × Nat)) :=
  match i.launch with
  | some n => some ((squareCores s n i.square).map fun c => (n, c))
  | none => (groupLaunches s i.dgroup (collLaunch i)).map fun ls => ls.flatMap fun n => (squareCores s n i.square).map fun c => (n, c)

/-- P: the participants of a square of a launch, over every package where it names a domain group (R298, R362). -/
def participants (s : State) (g launch square : Nat) : Nat :=
  if g = 0 then (squareCores s launch square).length
  else ((ownLaunches s g launch).map fun n => (squareCores s n square).length).sum + remoteCount s g launch square fun _ => true

/-- The global rank of an instance's first local participant: those of packages with smaller domain numbers stand before it (R298). -/
def firstRank (s : State) (i : Coll) : Nat :=
  if i.launch.isSome then 0 else remoteCount s i.dgroup (collLaunch i) i.square fun q => decide (q < s.domain.getD 0)

/-- P of an instance. -/
def collRanks (s : State) (i : Coll) : Nat :=
  i.parts.length + if i.launch.isSome then 0 else remoteCount s i.dgroup (collLaunch i) i.square fun _ => true

/-- Participants in rank order: by square rank, then by launch. -/
def insertPart (p : CollPart) : List CollPart → List CollPart
  | [] => [p]
  | x :: xs => if p.rank < x.rank ∨ (p.rank = x.rank ∧ p.launch < x.launch) then p :: x :: xs else x :: insertPart p xs

/-- An instance's descriptor as a participant gave it. -/
def partDesc (p : CollPart) : CollDesc := collDesc p.desc

/-- Whether the participants agree on COUNT, or on NROWS and ROWL (R362). -/
def collAgree (i : Coll) : Bool :=
  match i.parts with
  | [] => true
  | p :: ps =>
    ps.all fun q =>
      if i.kind ≤ 3 then decide ((partDesc p).count = (partDesc q).count)
      else decide (i.kind = 6) || (decide ((partDesc p).nrows = (partDesc q).nrows) && decide ((partDesc p).rb = (partDesc q).rb))

/-! ### Issue (R361, R364) -/

/-- A class 6 check of a scratchpad range of the issuing core; an empty range always passes. -/
def collRange (s : State) (rd wr : Bool) (a n : Nat) : Except Raise Unit :=
  if n = 0 then .ok ()
  else if 2 ^ 21 < a + n || !phaseOk (getCore s s.turn.core) 6 s.cyc rd wr a n then .error (Raise.at_ 0x26 a a)
  else .ok ()

/-- The bytes of INBUF and of OUTBUF a kind uses, for P participants. -/
def collLengths (kind : Nat) (d : CollDesc) (p : Nat) : Nat × Nat :=
  match kind with
  | 0 => (d.count, d.count)
  | 1 => (d.count, d.count)
  | 2 => (d.count, d.count)
  | 3 => (d.count, p * d.count)
  | 4 => (d.nrows * d.rb, 0)
  | 5 => (0, d.nrows * d.rb)
  | _ => (0, 0)

/-- The handle a buffer names. -/
def bufHandle (s : State) (b : CollBuf) : Word64 := if b.mem then readHandle (getCore s s.turn.core) b.h else 0

/-- The check of a buffer in memory (R361, Table 4.6): a handle of domain space, the one space that Table 4.1 gives the collective engine;
write permission where the kind writes the buffer. A buffer of which the kind uses no byte has its handle checked too. -/
def collMemory (s : State) (b : CollBuf) (n : Nat) (wr : Bool) : Except Raise Unit :=
  if !b.mem then .ok ()
  else useHandle s s.turn.core b.h (bufHandle s b) b.off n (some 2) false 0x31 (wr && decide (n ≠ 0))

/-- The records a META_OUT may receive, in bytes (R366). -/
def metaOutBytes : Nat := 8192 * 16

/-- The checks of R361 after the descriptor's, and of R364. -/
def collChecks (kind : Nat) (stamped : Bool) (d : CollDesc) (s : State) : Except Raise Unit :=
  let c := getCore s s.turn.core
  let (inN, outN) := collLengths kind d (participants s d.dgroup (c.launch.getD 0) d.square)
  let rows := decide (kind = 4) || decide (kind = 5)
  let b := getBin c.regs.bins d.rbin
  firstError [
    need (!collBadSize kind d) (Raise.of 0x01),
    need (decide (d.dgroup = 0) || stamped) (Raise.of 0x01),
    collMemory s d.inb inN false,
    collMemory s d.outb outN true,
    (if d.inb.mem then .ok () else collRange s true false d.inb.off inN),
    (if rows then collRange s true false d.metaIn (d.nrows * 16) else .ok ()),
    (if kind = 4 then collRange s true false d.dest (d.nrows * 4) else .ok ()),
    (if d.outb.mem then .ok () else collRange s false true d.outb.off outN),
    (if rows then collRange s false true d.metaOut metaOutBytes else .ok ()),
    need (!rows || (b.isRoot && (decide (b.rule = 0) || decide (2 ≤ b.rule)))) (Raise.of 0x43),
    (if kind = 4 then collRange s false true b.base (b.cap * b.rb) else .ok ()),
    need (decide ((s.colls.flatMap (·.parts)).countP (fun p => p.core = s.turn.core) < 16)) (Raise.of 0x11)]

/-- The sequence number of a core's next COLL on a group and square (R362). -/
def collSeqOf (c : Core) (g q : Nat) : Nat := ((c.regs.collSeq.find? fun e => e.1 = (g, q)).map (·.2)).getD 0

/-- A core with that number advanced; entries stay sorted as first used. -/
def bumpCollSeq (c : Core) (g q : Nat) : Core :=
  let n := collSeqOf c g q
  let rest := c.regs.collSeq.filter fun e => e.1 ≠ (g, q)
  { c with regs := { c.regs with collSeq := rest ++ [((g, q), n + 1)] } }

/-- The state with an instance's changed copy in place. -/
def setColl (s : State) (i : Coll) : State := { s with colls := s.colls.map fun x => if x.id = i.id then i else x }

/-- The base-two logarithm of P, rounded up. -/
def log2Up (p : Nat) : Nat := if p ≤ 1 then 0 else Nat.log2 (p - 1) + 1

/-- The words of a participant's list at an offset of its scratchpad, as its own core left them. -/
def partWords (s : State) (p : CollPart) (a n : Nat) : List Nat :=
  (lanesOfBytes (spadNow (getCore s p.core) s.cyc a (4 * n))).map (·.toNat)

/-- The destination rank of a row: an explicit rank, or an expert's replica by the row's token; none where it is not sent
(R366). -/
def rowDest (p : CollPart) (ranks : Nat) (entry token : Nat) : Option Nat :=
  let d := partDesc p
  let r : Option Nat :=
    if entry = 2 ^ 32 - 1 then none
    else if d.dmode then some entry
    else
      let reps := smGet [] p.table entry
      if reps = [] then none else some (reps.getD (token % reps.length) 0)
  r.bind fun r => if r < ranks then some r else none

/-- The destinations of a participant's rows. -/
def partDests (s : State) (p : CollPart) (ranks : Nat) : List (Option Nat) :=
  let d := partDesc p
  let entries := partWords s p d.dest d.nrows
  (List.range d.nrows).map fun i =>
    rowDest p ranks (entries.getD i 0) (leNat (spadNow (getCore s p.core) s.cyc (d.metaIn + 16 * i) 4))

/-- CAPACITY of a local participant's receive bin. -/
def recvCap (s : State) (p : CollPart) : Nat := (getBin (getCore s p.core).regs.bins (partDesc p).rbin).cap

/-- The rows of one sender that are sent, given the slots each receiver has given out: a row whose slot would reach CAPACITY is not
(R300). -/
def sentRows (caps : Nat → Nat) : List (Option Nat) → SMap Nat → Nat × SMap Nat
  | [], m => (0, m)
  | none :: ds, m => sentRows caps ds m
  | some q :: ds, m =>
    if smGet 0 m q < caps q then
      let r := sentRows caps ds (smSet 0 m q (smGet 0 m q + 1))
      (r.1 + 1, r.2)
    else sentRows caps ds m

/-- Whether a record of META_IN is marked DROPPED (Table 11.7). -/
def recDropped (s : State) (p : CollPart) (i : Nat) : Bool :=
  decide (leNat (spadNow (getCore s p.core) s.cyc ((partDesc p).metaIn + 16 * i + 12) 1) % 2 = 1)

/-- The largest number of row bytes that one participant of an instance of one launch sends or receives (R368): the rows that R300 sends,
the rows that a combine's receivers return. -/
def collRowBytes (s : State) (i : Coll) : Nat :=
  let ranks := i.parts.length
  let rb := ((i.parts.head?).map fun p => (partDesc p).rb).getD 0
  if i.kind = 4 then
    let caps (q : Nat) : Nat := ((i.parts[q]?).map (recvCap s)).getD 0
    let (sent, slots) := i.parts.foldl (fun (a : List Nat × SMap Nat) p =>
      let r := sentRows caps (partDests s p ranks) a.2
      (a.1 ++ [r.1], r.2)) ([], [])
    rb * ((sent ++ (List.range ranks).map (smGet 0 slots)).foldl max 0)
  else
    let kept := i.parts.map fun p => (getBin (getCore s p.core).regs.bins (partDesc p).rbin).fill
    let back := i.parts.map fun p => ((List.range (partDesc p).nrows).filter fun r => !recDropped s p r).length
    rb * ((kept ++ back).foldl max 0)

/-- The duration of an instance of one launch from its last issue (R368). -/
def collDuration (s : State) (i : Coll) : Nat :=
  let p := i.parts.length
  let count := ((i.parts.head?).map fun p => (partDesc p).count).getD 0
  if i.kind ≤ 2 then 200 + log2Up p * (192 + ceilDiv count 256)
  else if i.kind = 3 then 200 + ceilDiv (p * count) 256
  else if i.kind ≤ 5 then 200 + ceilDiv (collRowBytes s i) 256
  else 200

/-- Whether every participant an instance waits for has issued. -/
def collFull (s : State) (i : Coll) : Bool :=
  match collMembers s i with
  | none => false
  | some ms => decide (ms.length = i.parts.length) && ms.all fun m => i.parts.any fun p => p.launch = m.1 && p.core = m.2

/-- Whether an instance is cancelled: by a segment abort of a local participant, or by one on another package that has come (R368). -/
def collCancelled (s : State) (i : Coll) : Bool := i.cancelled || i.aborts.any fun t => decide (t ≤ s.cyc)

/-- The world and package address of a participant's INBUF, where the package's own number names it (R295). -/
def collOwnSource (s : State) (i : Coll) (p : CollPart) : Option (Nat × Nat × Nat) :=
  let d := partDesc p
  let n := (collLengths i.kind d (collRanks s i)).1
  if !d.inb.mem then none
  else
    match domTarget s (getCore s p.core).world (hDevice p.hIn) (hDevAddr p.hIn + d.inb.off) n with
    | .own v a => some (v, a, n)
    | _ => none

/-- The state with an instance's completion cycle fixed, and its reads through the package's own number sent to the remote bins, which it
waits for (R295). -/
def startColl (s : State) (i : Coll) (finish : Nat) : State :=
  let src := fun p => collOwnSource s i p
  let parts := i.parts.map fun p => { p with waits := ((src p).map fun x => (linesAt x.2.1 x.2.2).length).getD 0 }
  i.parts.foldl (fun s p =>
    match src p with
    | some (v, a, n) => queueReads s (.collRead v i.id p.core) a n
    | none => s) (setColl s { i with finish := some finish, parts := parts })

/-- The state with the completion cycle of every instance fixed whose last participant has issued (R368): across a domain group it
waits on the link, a free number of cycles, after those in which a write named before the issue reaches every participant (R220). -/
def settleColls (s : State) : State :=
  s.colls.foldl (fun s i =>
    if i.finish.isNone && !collCancelled s i && collFull s i && collAgree i then
      if i.launch.isSome then startColl s i (s.cyc + collDuration s i)
      else startColl (freshFree s).2 i (s.cyc + 200 + Config.returnDelay s.free)
    else s) s

/-- The earlier of two cycles, either of which may be absent. -/
def sooner (a b : Option Nat) : Option Nat :=
  match a, b with
  | some x, some y => some (min x y)
  | some x, none => some x
  | none, y => y

/-- The state with what another package may do to a domain group's instance that a COLL has joined drawn: an abort there cancels it in some
cycle, or none does (R368). -/
def drawAbort (s : State) (id : Nat) : State :=
  match s.colls.find? fun i => decide (i.id = id) with
  | some i =>
    if i.launch.isSome then s
    else setColl (freshFree s).2 { i with aborts := sooner i.aborts ((Config.remoteAborts s.free).map (s.cyc + ·)) }
  | none => s

/-- The state with a participant joined to its instance (R362); a core that is not a member finds no partners. -/
def joinColl (s : State) (p : CollPart) (d : CollDesc) (seqNo kind elem rop : Nat) (member : Bool) : State :=
  let launch := if d.dgroup = 0 then some p.launch else none
  let mine := fun i : Coll =>
    member && !collCancelled s i && i.finish.isNone && decide (i.dgroup = d.dgroup) && decide (i.square = d.square) &&
      decide (i.launch = launch) && decide (i.seqNo = seqNo) && decide (i.kind = kind) && decide (i.elem = elem) &&
      decide (i.rop = rop) && !(i.parts.any fun q => q.core = p.core) &&
      (launch.isSome || i.parts.all fun q => sameGroup s d.dgroup q.launch p.launch)
  match (if member then s.colls.find? mine else none) with
  | some i => drawAbort (setColl s { i with parts := insertPart p i.parts }) i.id
  | none =>
    let (id, s1) := freshId s
    drawAbort { s1 with colls := s1.colls ++ [⟨id, d.dgroup, d.square, if member then launch else some p.launch, seqNo, kind, elem, rop,
      [p], none, !member, none⟩] } id

/-- The replica table under which the all-to-all that a combine names resolved its rows: that of the same META_IN (R302, R367). DESIGN CHOICE:
where it names none's, the latest of the group and square, else the combine's own (log 36). -/
def tableOf (c : Core) (d : CollDesc) (own : Replicas) : Replicas :=
  let here := c.regs.collTabs.filter fun e => decide (e.1.1 = d.dgroup) && decide (e.1.2.1 = d.square)
  (((here.find? fun e => decide (e.1.2.2 = d.metaIn)).or here.head?).map (·.2)).getD own

/-- A core with the table of an all-to-all recorded, the latest first (R302). -/
def recordTable (c : Core) (d : CollDesc) (t : Replicas) : Core :=
  let key := (d.dgroup, d.square, d.metaIn)
  { c with regs := { c.regs with collTabs := (key, t) :: c.regs.collTabs.filter fun e => e.1 ≠ key } }

/-- The effect of a COLL at issue. -/
def collAct (kind elem rop : Nat) (a : Reg) (stamped : Bool) (s : State) : Except Raise (State × Flow) :=
  match ctlDescriptor s a 0 8 with
  | .error r => .error r
  | .ok (ws, low) =>
    let d := collDesc ws
    match collChecks kind stamped d s with
    | .error r => .error r
    | .ok _ =>
      let p := s.turn.core
      let c := getCore s p
      let members := smGet [] (launchOf s p).squares d.square
      let lid := c.launch.getD 0
      let member := members.contains c.lidx && (decide (d.dgroup = 0) || decide ((getLaunch s lid).dgroup.1 = d.dgroup))
      let current := if stamped then (getWorld s c.world).curReplica
        else ((runningOn s p).map fun r => r.2.2.table).getD []
      let table := if kind = 5 then tableOf c d current else current
      let (binId, s1) := freshId (warnHereIf (collMbz kind ws) warnMbz (warnHereIf low warnMod s))
      let part : CollPart :=
        ⟨p, lid, (members.findIdx? (· = c.lidx)).getD 0, s.cyc, d.bound, ws, bufHandle s d.inb, bufHandle s d.outb, binId, table, 0, []⟩
      let s2 := updCore s1 p fun c =>
        let c0 := bumpCollSeq c d.dgroup d.square
        let c1 := if kind = 4 then recordTable c0 d table else c0
        if kind = 4 then
          { c1 with
            binQ := c1.binQ ++ [{ binCommand s 5 d.rbin 0 with id := binId, start := some s.cyc }],
            regs := { c1.regs with bins := setBin c1.regs.bins d.rbin { getBin c1.regs.bins d.rbin with fill := 0 } } }
        else c1
      let s3 := joinColl s2 part d (collSeqOf c d.dgroup d.square) kind elem rop member
      .ok (goOn (settleColls (if stamped then resetSlip s3 else s3)))

/-- COLL's stamp (R363): the absolute stamp against DTIME. -/
def collStamp (a : Reg) (rel : BitVec 1) (stamp : Word32) (s : State) : Option (Nat × Nat) :=
  if stamp = 0xFFFFFFFF then none
  else if rel = 1 then
    some (((runningOn s s.turn.core).map fun r => r.2.2.dentry).getD 0 + stamp.toNat, s.dtime)
  else
    match ctlDescriptor s a 0 8 with
    | .ok (ws, _) => some ((collDesc ws).dbase + stamp.toNat, s.dtime)
    | .error _ => none

/-- The handles that a COLL word reads through its descriptor (R67). -/
def collReads (a : Reg) (s : State) : List Dest :=
  match ctlDescriptor s a 0 8 with
  | .error _ => []
  | .ok (ws, _) => [(collDesc ws).inb, (collDesc ws).outb].filterMap fun b => if b.mem then some (.h b.h) else none

/-- The plan of a COLL word. -/
def collPlan (kind elem rop : Nat) (h : Hdr) (a : Reg) (rel : BitVec 1) (stamp : Word32) (s : State) : WordPlan :=
  { WordPlan.plain 2 [.c] h.mbz (decide (2 ≤ elem) || decide (3 ≤ rop)) (destHere s a :: collReads a s) []
      (collAct kind elem rop a (decide (stamp ≠ 0xFFFFFFFF))) with
    stamp := fun s => (collStamp a rel stamp s).map fun p => (p.1 % 2 ^ 32, p.2) }

/-- COLL allred (R365). -/
def execCollAllred (h : Hdr) (a : Reg) (rel : BitVec 1) (elem rop : BitVec 2) (stamp : Word32) (s : State) : Out :=
  issueWord (collPlan 0 elem.toNat rop.toNat h a rel stamp s) s
/-- COLL reduce (R365). -/
def execCollReduce (h : Hdr) (a : Reg) (rel : BitVec 1) (elem rop : BitVec 2) (stamp : Word32) (s : State) : Out :=
  issueWord (collPlan 1 elem.toNat rop.toNat h a rel stamp s) s
/-- COLL bcast (R365). -/
def execCollBcast (h : Hdr) (a : Reg) (rel : BitVec 1) (stamp : Word32) (s : State) : Out :=
  issueWord (collPlan 2 0 0 h a rel stamp s) s
/-- COLL gather (R365). -/
def execCollGather (h : Hdr) (a : Reg) (rel : BitVec 1) (stamp : Word32) (s : State) : Out :=
  issueWord (collPlan 3 0 0 h a rel stamp s) s
/-- COLL a2a (R366). -/
def execCollA2a (h : Hdr) (a : Reg) (rel : BitVec 1) (stamp : Word32) (s : State) : Out :=
  issueWord (collPlan 4 0 0 h a rel stamp s) s
/-- COLL combine (R367). -/
def execCollCombine (h : Hdr) (a : Reg) (rel : BitVec 1) (stamp : Word32) (s : State) : Out :=
  issueWord (collPlan 5 0 0 h a rel stamp s) s
/-- COLL sync (R365). -/
def execCollSync (h : Hdr) (a : Reg) (rel : BitVec 1) (stamp : Word32) (s : State) : Out :=
  issueWord (collPlan 6 0 0 h a rel stamp s) s

/-! ### Reductions (R298) -/

/-- One node of the tree. -/
def reduceNode (elem rop : Nat) (a b : Word32) : Word32 :=
  if elem = 0 then
    (match rop with
    | 0 => rne32 (addF 0 (dec32 a) (dec32 b))
    | 1 => rne32 (minF (dec32 a) (dec32 b))
    | _ => rne32 (maxF (dec32 a) (dec32 b)))
  else
    match rop with
    | 0 => a + b
    | 1 => if a.toInt ≤ b.toInt then a else b
    | _ => if a.toInt ≤ b.toInt then b else a

/-- One level of the tree: neighbours r and r + step, an unpaired last one kept. -/
def reduceLevel (f : Word32 → Word32 → Word32) : List Lanes → List Lanes
  | x :: y :: rest => List.zipWith f x y :: reduceLevel f rest
  | xs => xs

/-- The tree over vectors of equal length: 20 levels. -/
def reduceTree (f : Word32 → Word32 → Word32) (xs : List Lanes) : Lanes :=
  ((List.range 20).foldl (fun ys _ => reduceLevel f ys) xs).headD []

/-! ### Completion -/

/-- The collective engine's place among writers and observers: on no compute die (Table 8.2). -/
def collPlace : Nat := 1000

/-- The bytes of a participant's scratchpad as the engine reads them. -/
def collRead (s : State) (core a n : Nat) : List Byte := spadRead (getCore s core) collPlace .coll s.cyc a n

/-- Bytes written to a participant's scratchpad at completion. -/
def collWrite (s : State) (i : Coll) (core a : Nat) (bs : List Byte) : State :=
  writeSpad s core collPlace 1024 .coll s.cyc a bs i.id

/-- What an instance's completion has gathered: the state, and the participants whose domain access was refused. -/
abbrev CollAcc := State × List Nat

/-- A participant's input. -/
def partInput (acc : CollAcc) (p : CollPart) (n : Nat) : CollAcc × List Byte :=
  let d := partDesc p
  if d.inb.mem then
    let s := acc.1
    let w := (getCore s p.core).world
    let s1 := (freshFree s).2
    if outsideRefused s w p.hIn d.inb.off n s.free then ((s1, acc.2 ++ [p.core]), List.replicate n 0)
    else
      let (s2, bs, bad) :=
        match domTarget s1 w (hDevice p.hIn) (hDevAddr p.hIn + d.inb.off) n with
        | .own _ a => match gotBytes p.got a n with | some bs => (s1, bs, false) | none => (s1, List.replicate n 0, true)
        | _ => outsideRead s1 w p.hIn d.inb.off n
      ((s2, if bad then acc.2 ++ [p.core] else acc.2), bs)
  else (acc, collRead acc.1 p.core d.inb.off n)

/-- Bytes written to a participant's OUTBUF: in its scratchpad, or held for the segment's end (R365). -/
def partOutput (i : Coll) (acc : CollAcc) (p : CollPart) (bs : List Byte) : CollAcc :=
  let d := partDesc p
  if bs = [] then acc
  else if d.outb.mem then
    let s := acc.1
    let w := (getCore s p.core).world
    let s1 := (freshFree s).2
    if outsideRefused s w p.hOut d.outb.off bs.length s.free then (s1, acc.2 ++ [p.core])
    else (holdWrite s1 p.core p.binId p.hOut d.outb.off bs false, acc.2)
  else (collWrite acc.1 i p.core d.outb.off bs, acc.2)

/-- The inputs of kinds 0 to 3, in global rank order: those of other packages stand before and after this package's by domain
number (R298, R362). -/
def collInputs (i : Coll) (acc : CollAcc) (n k : Nat) : CollAcc × List (List Byte) :=
  let r := i.parts.foldl (fun (a : CollAcc × List (List Byte)) p =>
    let (acc1, bs) := partInput a.1 p n
    (acc1, a.2 ++ [bs])) (acc, [])
  let first := firstRank acc.1 i
  let far (q : Nat) : List Byte := sliceBytes (Config.remoteInputs k q) 0 n
  (r.1, (List.range first).map far ++ r.2 ++
    (List.range (collRanks acc.1 i - first - i.parts.length)).map fun j => far (first + i.parts.length + j))

/-- Kinds 0 to 3 (R365). -/
def collData (i : Coll) (acc : CollAcc) (k : Nat) : CollAcc :=
  let count := ((i.parts.head?).map fun p => (partDesc p).count).getD 0
  let first := firstRank acc.1 i
  let (acc1, xs) := collInputs i acc count k
  let reduced := ((reduceTree (reduceNode i.elem i.rop) (xs.map lanesOfBytes)).flatMap fun w => leBytes 4 w.toNat).take count
  let out : List Byte :=
    match i.kind with
    | 2 => xs.headD []
    | 3 => xs.flatMap id
    | _ => reduced
  i.parts.zipIdx.foldl (fun acc e =>
    if i.kind = 1 ∧ first + e.2 ≠ 0 then acc else partOutput i acc e.1 out) acc1

/-- A row sent in an all-to-all: its sender's global rank and row, its destination, record and bytes. -/
structure SentRow where
  src : Nat
  row : Nat
  dst : Option Nat
  record : List Byte
  bytes : List Byte
  deriving DecidableEq, Repr

/-- A record with SLOT, FLAGS and SRC set (Table 11.7). -/
def setRecord (r : List Byte) (slot src : Nat) (dropped : Bool) : List Byte :=
  sliceBytes r 0 6 ++ leBytes 2 slot ++ sliceBytes r 8 4 ++ [if dropped then 1 else 0] ++ leBytes 3 src

/-- The rows a participant sends. -/
def partSends (s : State) (p : CollPart) (rank ranks : Nat) (input : List Byte) : List SentRow :=
  let d := partDesc p
  (List.range d.nrows).map fun i =>
    let rec_ := collRead s p.core (d.metaIn + 16 * i) 16
    ⟨rank, i, rowDest p ranks (leNat (collRead s p.core (d.dest + 4 * i) 4)) (leField rec_ 0 4), rec_,
      sliceBytes input (i * d.rb) d.rb⟩

/-- A receiver's rows placed (R300, R301): its slots and records written, FILL and DROP set, which a BINFILL of the cycle does not see yet
(R150, R366); under a trap rule a row without a slot
raises 0x40. With the state stands the receiver's status, 0x10000 where it has trapped. -/
def collReceive (i : Coll) (s : State) (p : CollPart) (rows : List SentRow) : State × Nat :=
  let d := partDesc p
  let b := getBin (getCore s p.core).regs.bins d.rbin
  let kept := rows.take b.cap
  let lost := rows.drop b.cap
  let s1 := kept.zipIdx.foldl (fun s e => collWrite s i p.core (b.base + e.2 * b.rb) (e.1.bytes.take b.rb)) s
  let recs := kept.zipIdx.map (fun e => setRecord e.1.record e.2 e.1.src false) ++
    lost.map (fun r => setRecord r.record 0xFFFF r.src true)
  let s2 := collWrite s1 i p.core d.metaOut ((recs.take 8192).flatMap id)
  let drop := if b.rule = 0 then min (2 ^ 32 - 1) (b.drop + lost.length) else b.drop
  let s3 := updCore s2 p.core fun c =>
    warnIf (decide (b.rule = 0) && decide (2 ^ 32 - 1 < b.drop + lost.length)) warnBcnt
      { c with binPrev := some (c.binPrev.getD c.regs.bins),
               regs := { c.regs with bins := setBin c.regs.bins d.rbin { b with fill := kept.length, drop := drop } } }
  let s4 := if b.rule ≠ 0 ∧ lost ≠ [] then
      raiseOn s3 p.core .coll { Raise.of 0x40 with detail := [d.rbin, d.rbin, b.cap] }
    else s3
  (s4, if b.rule ≠ 0 ∧ lost ≠ [] then 0x10000 else if 8192 < recs.length then 4 else 0)

/-- A row in the order of R300: by ascending sender rank, the rows of one sender as they stand. -/
def insertSent (r : SentRow) : List SentRow → List SentRow
  | [] => [r]
  | x :: xs => if r.src < x.src then r :: x :: xs else x :: insertSent r xs

/-- The rows that participants on other packages send in an instance, in the order of R300 (log 36). -/
def remoteRows (k first last ranks : Nat) : List SentRow :=
  ((Config.remoteSends k).filter fun r => decide (r.1 < first) || (decide (last ≤ r.1) && decide (r.1 < ranks))).foldl
    (fun rs r => insertSent ⟨r.1, 0, some r.2.1, sliceBytes r.2.2.1 0 16, r.2.2.2⟩ rs) []

/-- Kind 4 (R300, R301, R366): the state, and each participant's status. -/
def collA2a (i : Coll) (acc : CollAcc) (k : Nat) : CollAcc × List (Nat × Nat) :=
  let first := firstRank acc.1 i
  let ranks := collRanks acc.1 i
  let (acc1, mine) := i.parts.zipIdx.foldl (fun (a : CollAcc × List SentRow) e =>
    let (acc1, bs) := partInput a.1 e.1 ((partDesc e.1).nrows * (partDesc e.1).rb)
    (acc1, a.2 ++ partSends acc1.1 e.1 (first + e.2) ranks bs)) (acc, [])
  let last := first + i.parts.length
  let far := if i.launch.isSome then [] else remoteRows k first last ranks
  let sent := far.filter (fun r => decide (r.src < first)) ++ mine ++ far.filter (fun r => decide (last ≤ r.src))
  let (s2, statuses) := i.parts.zipIdx.foldl (fun (a : State × List (Nat × Nat)) e =>
    let (s1, st) := collReceive i a.1 e.1 (sent.filter fun r => decide (r.dst = some (first + e.2)))
    (s1, a.2 ++ [(e.1.core, st)])) (acc1.1, [])
  let s3 := i.parts.zipIdx.foldl (fun s e =>
    let d := partDesc e.1
    (mine.filter fun r => decide (r.src = first + e.2)).foldl (fun s r =>
      let slot : Option Nat :=
        match r.dst with
        | none => none
        | some q =>
          let ahead := (sent.takeWhile fun x => decide (x ≠ r)).countP fun x => decide (x.dst = some q)
          let cap := if first ≤ q ∧ q < last then ((i.parts[q - first]?).map (recvCap s)).getD 0 else Config.remoteCapacity k q
          if ahead < cap then some ahead else none
      collWrite s i e.1.core (d.metaIn + 16 * r.row) (setRecord r.record (slot.getD 0xFFFF) r.src slot.isNone)) s) s2
  ((s3, acc1.2), statuses)

/-- The rows that receivers return, each with its receiver's rank and the record that names it (R367). -/
def returnedRows (s : State) (i : Coll) : List (Nat × List Byte × List Byte) :=
  i.parts.zipIdx.flatMap fun e =>
    let p := e.1
    let d := partDesc p
    let b := getBin (getCore s p.core).regs.bins d.rbin
    (List.range b.fill).map fun k =>
      (firstRank s i + e.2, collRead s p.core (d.metaOut + 16 * k) 16, collRead s p.core (b.base + k * b.rb) d.rb)

/-- The bytes that a receiver of this package, the ranks from `first` to `last`, returns for a sender's record (R367): none where the
sender's destination list sends the row to another package. A record names its row by its own bytes; where several receivers hold equal
records, the receiver to which the list sends the row answers, else they answer in turn: DESIGN CHOICE (log 36). -/
def returnedFor (first last : Nat) (back : List (Nat × List Byte × List Byte)) (dest : Option Nat) (record : List Byte) (nth : Nat) :
    Option (List Byte) :=
  let same := back.filter fun b => decide (b.2.1 = record)
  if dest.any fun q => decide (q < first) || decide (last ≤ q) then none
  else (((same.filter fun b => decide (some b.1 = dest)) ++ same.drop nth).head?).map (·.2.2)

/-- A returned row weighted (R367). -/
def weighRow (weight : Word32) (row : List Byte) : List Byte :=
  (lanesOfBytes row).flatMap fun x => leBytes 4 (rne32 (mulF (dec32 weight) (dec32 x))).toNat

/-- Kind 5 (R367): each sender's records find the rows that came back under the same record, in the order they stand. -/
def collCombine (i : Coll) (acc : CollAcc) (k : Nat) : CollAcc :=
  let back := returnedRows acc.1 i
  let first := firstRank acc.1 i
  let last := first + i.parts.length
  i.parts.zipIdx.foldl (fun acc x =>
    let p := x.1
    let d := partDesc p
    let recs := (List.range d.nrows).map fun r => collRead acc.1 p.core (d.metaIn + 16 * r) 16
    let dests := partDests acc.1 p (collRanks acc.1 i)
    let rows := recs.zipIdx.flatMap fun e =>
      if (sliceBytes e.1 12 1).headD 0 &&& 1 = 1 then List.replicate d.rb (0 : Byte)
      else
        let nth := (recs.take e.2).countP fun x => decide (x = e.1)
        let ret := (returnedFor first last back (dests.getD e.2 none) e.1 nth).getD (Config.returnedRow k (first + x.2) e.2)
        weighRow (BitVec.ofNat 32 (leField e.1 8 4)) (sliceBytes ret 0 d.rb)
    partOutput i acc p rows) acc

/-- A participant's own completion: its barrier, its record, CR 0x034, the bin unit free again (R368). As a release, it shows the
participant the instance's results (R220, log 84). -/
def partDone (i : Coll) (status : Nat) (s : State) (p : CollPart) : State :=
  let d := partDesc p
  let s1 := updCore s p.core fun c =>
    if i.kind = 4 then { c with binQ := c.binQ.filter fun b => decide (b.id ≠ p.binId), binFree := max c.binFree (s.cyc + 1) } else c
  completeCommand s1 p.core .coll i.id 4 status (if d.bv then some ⟨p.core, d.bar⟩ else none) 64 (decide (status ≠ 0))

/-- A line of a participant's INBUF delivered by a remote bin (R295): a corrected one makes the instance wait 80 cycles longer, and with it
the bound of every participant; an uncorrectable one ends the participant's segment with 0x27 (R112). -/
def collGot (s : State) (inst core addr : Nat) (x : PortGot) : State :=
  let late := if x.corrected then 80 else 0
  let took (p : CollPart) : CollPart :=
    let q := { p with bound := p.bound + late }
    if p.core = core then { q with waits := p.waits - 1, got := p.got ++ [(addr, x.plain?)] } else q
  match s.colls.find? fun i => decide (i.id = inst) with
  | some i =>
    if x = .broken then raiseOn s core .coll (Raise.at_ 0x27 addr addr)
    else
      updCore (setColl s { i with parts := i.parts.map took, finish := i.finish.map (· + late) }) core fun c => slipFixed c .c x.corrected
  | none => s

/-- Whether an instance completes in the cycle. -/
def collDue (s : State) (i : Coll) : Bool :=
  !collCancelled s i && (i.finish.any fun f => decide (f ≤ s.cyc)) && i.parts.all fun p => decide (p.waits = 0)

/-- COLL_COMPLETION (R365 to R368). -/
def execCollCompletion (inst : Nat) (s : State) : Out :=
  match s.colls.find? (fun i => decide (i.id = inst)) with
  | none => .next s
  | some i =>
    if !collDue s i then .next s
    else
      let (k, s0) := freshFree { s with colls := s.colls.filter fun x => decide (x.id ≠ inst) }
      let (acc, statuses) : CollAcc × List (Nat × Nat) :=
        match i.kind with
        | 4 => collA2a i (s0, []) k
        | 5 => (collCombine i (s0, []) k, [])
        | 6 => ((s0, []), [])
        | _ => (collData i (s0, []) k, [])
      .next (i.parts.foldl (fun s p =>
        let st := if acc.2.contains p.core then 3 else ((statuses.find? fun e => e.1 = p.core).map (·.2)).getD 0
        if st = 0x10000 then s else partDone i st s p) acc.1)

/-- The state with a launch's participants taken out of every instance, which is cancelled (R368, R248). -/
def cancelColls (s : State) (launch : Nat) : State :=
  { s with colls := s.colls.filterMap fun i =>
      if i.parts.any fun p => decide (p.launch = launch) then
        let left := i.parts.filter fun p => decide (p.launch ≠ launch)
        if left = [] then none else some { i with parts := left, cancelled := true, finish := none }
      else some i }

/-- COLL_INSTANCE_CANCEL (R368): a participant of a cancelled instance, whose COLL has issued, ends its segment with 0x10. -/
def execCollInstanceCancel (inst core : Nat) (s : State) : Out :=
  match s.colls.find? (fun i => decide (i.id = inst)) with
  | none => .next s
  | some i =>
    if collCancelled s i && i.launch.isNone && (i.parts.any fun p => decide (p.core = core)) then
      let left := i.parts.filter fun p => decide (p.core ≠ core)
      let s1 := if left = [] then { s with colls := s.colls.filter fun x => decide (x.id ≠ inst) }
        else setColl s { i with parts := left, cancelled := true, finish := none }
      .next (raiseOn s1 core .coll (Raise.of 0x10))
    else .next s

end Sys2Proof.Machine
end

