-- ==== Sys2Proof/Machine/Channels.lean ====
section
/-!
DEFINITION. The channel sequencers: the channel words, banks and gaps, refresh, windows, and lines on their way (R124 to R145, R376,
R377, R455).
-/

namespace Sys2Proof.Machine

open Sys2Proof

/-! ### Addresses, banks, gaps (Tables 5.1, 5.4 to 5.6) -/

/-- The physical address of a line. -/
def dramAddr (row bank ch col : Nat) : Nat := row * 2 ^ 23 + bank * 2 ^ 19 + ch * 2 ^ 10 + col * 64

/-- The bank of an address. -/
def bankOf (addr : Nat) : Nat := addr / 2 ^ 19 % 16

/-- The sixteen banks. -/
def allBanks : List Nat := List.range 16

/-- A bank's state. -/
def getBank (c : Channel) (b : Nat) : BankState := smGet .closed c.banks b

/-- A channel with a bank's state replaced. -/
def setBank (c : Channel) (b : Nat) (v : BankState) : Channel := { c with banks := smSet .closed c.banks b v }

/-- LASTREF of a bank (R136). -/
def getRef (c : Channel) (b : Nat) : Nat := smGet 0 c.lastRef b

/-- Whether every bank is Closed. -/
def allClosed (c : Channel) : Bool := c.banks.isEmpty

/-- Whether a bank is Open. -/
def isOpen (c : Channel) (b : Nat) : Bool := match getBank c b with | .opened _ => true | _ => false

/-- Whether a bank is Refreshing. -/
def isRefreshing (c : Channel) (b : Nat) : Bool := match getBank c b with | .refreshing _ => true | _ => false

/-- The kinds of DRAM command. -/
def kDact : Nat := 0
/-- DPRE. -/
def kDpre : Nat := 1
/-- DRD. -/
def kDrd : Nat := 2
/-- DWR. -/
def kDwr : Nat := 3
/-- DREF.pb. -/
def kDrefPb : Nat := 4
/-- DREF. -/
def kDref : Nat := 5

/-- The minimum gap from one command to a later one (Table 5.5); 0 where none applies. -/
def gapBetween (f t : Nat) (fb tb : Nat) : Nat :=
  let same := fb = tb
  let group := fb / 4 = tb / 4
  if f = kDact ∧ (t = kDrd ∨ t = kDwr) ∧ same then 12
  else if f = kDact ∧ t = kDpre ∧ same then 27
  else if f = kDact ∧ t = kDact ∧ same then 39
  else if f = kDpre ∧ ((t = kDact ∨ t = kDrefPb) ∧ same ∨ t = kDref) then 12
  else if f = kDrd ∧ t = kDpre ∧ same then 2
  else if f = kDwr ∧ t = kDpre ∧ same then 13
  else if f = kDrefPb ∧ t = kDact ∧ same then 224
  else if f = kDref ∧ (t = kDact ∨ t = kDrefPb) then 280
  else if (f = kDact ∨ f = kDrefPb) ∧ (t = kDact ∨ t = kDrefPb) ∧ ¬same then (if group then 3 else 2)
  else if f = t ∧ (t = kDrd ∨ t = kDwr) then (if group then 2 else 1)
  else if f = kDwr ∧ t = kDrd then 16
  else if f = kDrd ∧ t = kDwr then 16
  else 0

/-- Whether Table 5.5 allows a command at a cycle: every gap, and tFAW. -/
def gapsOk (c : Channel) (kind bank cyc : Nat) : Bool :=
  c.recent.all (fun r => decide (r.cyc + gapBetween r.kind kind r.bank bank ≤ cyc)) &&
    (!(kind = kDact || kind = kDrefPb) ||
      decide ((c.recent.filter fun r => (r.kind = kDact || r.kind = kDrefPb) && decide (cyc < r.cyc + 16)).length < 4))

/-- A channel with a command noted. -/
def note (c : Channel) (kind bank cyc : Nat) : Channel := { c with recent := c.recent ++ [⟨kind, bank, cyc⟩] }

/-- A channel with its old commands forgotten: no gap is longer than 280 cycles. -/
def forget (cyc : Nat) (c : Channel) : Channel := { c with recent := c.recent.filter fun r => decide (cyc < r.cyc + 320) }

/-- A channel with one bank precharged in a cycle; a Closed bank is left alone (R455). -/
def precharge (cyc : Nat) (c : Channel) (b : Nat) : Channel :=
  if isOpen c b then note (setBank c b .closed) kDpre b cyc else c

/-- A channel with an all-bank refresh issued in a cycle (R136). -/
def refreshAll (c : Channel) (cyc : Nat) : Channel :=
  note (allBanks.foldl (fun c b =>
    { setBank c b (.refreshing (cyc + 280)) with lastRef := smSet 0 c.lastRef b cyc }) c) kDref 0 cyc

/-! ### Running a program (R125 to R132) -/

/-- The word at an index of the command memory. -/
def chanMem (c : Channel) (i : Nat) : Word64 := smGet 0 c.mem i

/-- DELTA of a channel word. -/
def chanDelta (w : Word64) : Nat := (w.extractLsb' 12 10).toNat

/-- A running program moved on from its word, which issued in a cycle: to the next word, or back to a loop's first (R132). -/
def chanAdvance (c : Channel) (cyc : Nat) : Channel :=
  match c.run with
  | none => c
  | some r =>
    let (pc, loop) : Nat × Option (Nat × Nat × Nat) :=
      match r.loop with
      | some (first, len, left) =>
        if r.pc + 1 = first + len then (if 1 < left then (first, some (first, len, left - 1)) else (r.pc + 1, none))
        else (r.pc + 1, r.loop)
      | none => (r.pc + 1, none)
    { c with run := some { r with pc := pc, loop := loop, next := cyc + chanDelta (chanMem c pc) } }

/-- The image index of the word a channel's program is at. -/
def chanIndex (run : ChanRun) : Nat := run.pc - run.mem0 + run.word0

/-- The state with a channel's program ended by a trap (R134, R145): the record names the channel, the word and its cycle. -/
def chanTrap (s : State) (ch : Nat) (run : ChanRun) (r : Raise) : State :=
  let s1 := setChan s ch { getChan s ch with run := none }
  takeTrap s1 run.launch none ch 9 true { r with detail := [ch, chanIndex run, s.cyc] }

/-- The issue of a channel word of the turn's channel: its checks and its effect, then the program moves on. A channel that runs no
program issues nothing. -/
def chanWord (act : State → Nat → Channel → ChanRun → Except Raise State) (s : State) : Out :=
  let ch := s.turn.chan
  let c := getChan s ch
  match c.run with
  | none => .next s
  | some run =>
    match act s ch c run with
    | .error r => .next (chanTrap s ch run r)
    | .ok s1 => .next (setChan s1 ch (chanAdvance (getChan s1 ch) s.cyc))

/-- A check of a bank's state, then of the gaps (R134). -/
def chanCheck (stateOk gapOk : Bool) (v : State) : Except Raise State :=
  if !stateOk then .error (Raise.of 0x52) else if !gapOk then .error (Raise.of 0x50) else .ok v

/-- DACT (R130, R134). -/
def execDact (_delta : BitVec 10) (bank : BitVec 4) (row : BitVec 16) (s : State) : Out :=
  chanWord (fun s ch c _ =>
    let b := bank.toNat
    chanCheck (decide (getBank c b = .closed)) (gapsOk c kDact b s.cyc)
      (setChan s ch (note (setBank c b (.opened row.toNat)) kDact b s.cyc))) s

/-- DPRE of one bank (R134, R455). -/
def execDpre (_delta : BitVec 10) (bank : BitVec 4) (s : State) : Out :=
  chanWord (fun s ch c _ =>
    let b := bank.toNat
    chanCheck (!isRefreshing c b) (!isOpen c b || gapsOk c kDpre b s.cyc) (setChan s ch (precharge s.cyc c b))) s

/-- DPRE of every Open bank (R455). -/
def execDpreAll (_delta : BitVec 10) (s : State) : Out :=
  chanWord (fun s ch c _ =>
    chanCheck (allBanks.all fun b => !isRefreshing c b) (allBanks.all fun b => !isOpen c b || gapsOk c kDpre b s.cyc)
      (setChan s ch (allBanks.foldl (precharge s.cyc) c))) s

/-- The physical core of a logical index of a launch. -/
def launchCore (s : State) (launch i : Nat) : Nat := (getLaunch s launch).cores.getD i 0

/-- The lines of a landing slot and of earlier DRDs still in flight to it (R131). -/
def landCount (s : State) (core slot : Nat) : Nat :=
  (landSlot (getCore s core) slot).length +
    (s.chans.map fun e => (e.2.flight.filter fun f => decide (f.core = core) && decide (f.slot = slot)).length).sum

/-- DRD (R130, R131, R377): the line is read at issue and appended at i + 22. -/
def execDrd (_delta : BitVec 10) (bank : BitVec 4) (row : BitVec 16) (col : BitVec 4) (core : BitVec 9) (slot : BitVec 3)
    (s : State) : Out :=
  chanWord (fun s ch c run =>
    let b := bank.toNat
    let p := launchCore s run.launch core.toNat
    let line := readLine s (dramAddr row.toNat b ch col.toNat) (s.cyc + 22)
    match chanCheck (decide (getBank c b = .opened row.toNat)) (gapsOk c kDrd b s.cyc)
        (setChan s ch (note { c with flight := c.flight ++ [⟨s.cyc + 22, p, slot.toNat, line, run.launch, chanIndex run, s.cyc⟩] }
          kDrd b s.cyc)) with
    | .error r => .error r
    | .ok s1 => if 64 ≤ landCount s p slot.toNat then .error (Raise.of 0x10) else .ok s1) s

/-- DWR (R130, R131, R377): the head line of the outgoing slot is taken at issue and written at i + 8. -/
def execDwr (_delta : BitVec 10) (bank : BitVec 4) (row : BitVec 16) (col : BitVec 4) (core : BitVec 9) (slot : BitVec 3)
    (s : State) : Out :=
  chanWord (fun s ch c run =>
    let b := bank.toNat
    let p := launchCore s run.launch core.toNat
    let addr := dramAddr row.toNat b ch col.toNat
    if getBank c b ≠ .opened row.toNat then .error (Raise.of 0x52)
    else if !gapsOk c kDwr b s.cyc then .error (Raise.of 0x50)
    else
      match outHead (getCore s p) slot.toNat s.cyc with
      | none => .error (Raise.of 0x10)
      | some x =>
        if x.addr ≠ addr then .error (Raise.at_ 0x21 addr x.addr)
        else
          .ok (setChan (updCore s p fun k => popOut k slot.toNat s.cyc) ch
            (note { c with writes := c.writes ++ [(s.cyc + 8, addr, x.line)] } kDwr b s.cyc))) s

/-- DREF (R134, R136). -/
def execDref (_delta : BitVec 10) (s : State) : Out :=
  chanWord (fun s ch c _ => chanCheck (allClosed c) (gapsOk c kDref 0 s.cyc) (setChan s ch (refreshAll c s.cyc))) s

/-- DREF of one bank (R134, R136). -/
def execDrefPb (_delta : BitVec 10) (bank : BitVec 4) (s : State) : Out :=
  chanWord (fun s ch c _ =>
    let b := bank.toNat
    chanCheck (decide (getBank c b = .closed)) (gapsOk c kDrefPb b s.cyc)
      (setChan s ch (note { setBank c b (.refreshing (s.cyc + 224)) with lastRef := smSet 0 c.lastRef b s.cyc }
        kDrefPb b s.cyc))) s

/-- DNOP (R130). -/
def execDnop (_delta : BitVec 10) (s : State) : Out := chanWord (fun s _ _ _ => .ok s) s

/-- DNOP with `.end` (R126, R135): the program ends. -/
def execDnopEnd (_delta : BitVec 10) (s : State) : Out :=
  chanWord (fun s ch c _ => chanCheck (allClosed c) true (setChan s ch { c with run := none })) s

/-- DLOOP (R132): the next LENW words run REP times. -/
def execDloop (lenw : BitVec 11) (rep : BitVec 16) (s : State) : Out :=
  chanWord (fun s ch c run =>
    .ok (setChan s ch { c with run := some { run with loop := some (run.pc + 1, lenw.toNat, rep.toNat) } })) s

/-! ### Windows (R141, R142, R167) -/

/-- The section of bin 0 that a window serves: the lowest die whose row engine belongs to the channel's world and whose head entry's
window has begun. -/
def bin0Die (s : State) (ch : Nat) : Option Nat :=
  (List.range 4).find? fun d =>
    decide (rowWorld s d = chanWorld s ch) &&
      (match binSection s ch d with | e :: _ => decide (e.since ≤ s.cyc) | [] => false)

/-- The bin entry a port's request becomes (R142, R294). -/
def portEntry (s : State) (r : RemoteReq) : BinEntry :=
  ⟨((getWorld s r.target).cbase + r.offset) / 64 * 64, r.wdata.isSome, s.cyc, .port r, none⟩

/-- The state with a window opened on an entry: its three commands are noted. -/
def openWindow (s : State) (ch : Nat) (e : BinEntry) : State :=
  let c := getChan s ch
  let b := bankOf e.addr
  let c1 := note (note (note c kDact b s.cyc) (if e.write then kDwr else kDrd) b (s.cyc + 12)) kDpre b (s.cyc + 27)
  setChan s ch { c1 with windows := c1.windows ++ [⟨s.cyc, e, none, false⟩] }

/-- The state with a window opened on bin 1's head, if it has one. -/
def openRemote (s : State) (ch : Nat) : State :=
  let c := getChan s ch
  match c.bin1 with
  | e :: rest => refillBin1 (openWindow (setChan s ch { c with bin1 := rest }) ch e) ch
  | [] => s

/-- DIND (R134, R141). -/
def execDind (_delta : BitVec 10) (slot : BitVec 3) (s : State) : Out :=
  chanWord (fun s ch c _ =>
    chanCheck (allClosed c) true
      (if slot = 0 then
        match bin0Die s ch with
        | none => s
        | some d =>
          match binSection s ch d with
          | e :: rest => openWindow (setChan s ch { c with bin0 := smSet [] c.bin0 d rest }) ch e
          | [] => s
      else openRemote s ch)) s

/-- What a window does next, and when: its DRD or DWR 12 cycles after its start, a read's delivery at 34. -/
def windowNext (w : Window) : Nat := if w.line.isNone then w.start + 12 else w.start + 34

/-- Whether a window acts in the cycle. -/
def windowActs (w : Window) (cyc : Nat) : Bool := !w.done && decide (windowNext w ≤ cyc)

/-- Whether a window of a channel acts in the cycle. -/
def windowDue (c : Channel) (cyc : Nat) : Bool := c.windows.any fun w => windowActs w cyc

/-- The answer to a port's request, so many cycles after the running one. -/
def portReply (s : State) (r : RemoteReq) (code : Nat) (bs : List Byte) (late : Nat) : State :=
  { s with outbox := s.outbox ++
      [⟨0x14, r.target, s.cyc + late, [BitVec.ofNat 8 code] ++ leBytes 2 r.pkg ++ [BitVec.ofNat 8 r.world] ++ leBytes 8 r.tag ++ bs⟩] }

/-- The line that a write window takes for its requester, where it stores one, with the cycles by which it does so later, and the reply to a
port (R142). A port's page that no
port may reach, and a stored cellar line, are refused (R115, R118). DESIGN CHOICE: a port's write is answered at its DWR, since no rule
gives the cycle (log 95). A committed write of the own package changes the bytes it names of the line it finds (R295, log 51); DESIGN
CHOICE: over an uncorrectable line it stores the other bytes as zeros under a fresh MAC, and an addition is dropped (log 115). -/
def windowSupplied (s : State) (e : BinEntry) : State × Option (Line × Nat) :=
  let shut (world : Nat) : Bool := !portInside s world e.addr || (readLine s e.addr s.cyc).line.ot.getLsbD 6
  match e.who with
  | .rowLine die cmd row line => rowSupplied s die cmd row line e.addr e.line
  | .port r =>
    if shut r.target then (portReply s r 1 [] 0, none)
    else (portReply s r 0 [] 0, some (lineSeal s r.target false false e.addr (r.wdata.getD 0), 0))
  | .commit world _ off bs add =>
    if shut world then (s, none)
    else
      let (s1, old) := portLine s world (readLine s e.addr s.cyc)
      match old.plain?, add with
      | none, true => (s1, none)
      | p, _ => (s1, some (lineSeal s1 world false false e.addr (mergeCommit (p.getD 0) off bs add), correctedLate old))
  | .copyRead _ _ _ => (s, none)
  | .rowRead _ _ _ => (s, none)
  | .collRead _ _ _ => (s, none)

/-- The state with the line a read window has read delivered to its requester (R142, R118, R294, R295). -/
def windowDelivered (s : State) (e : BinEntry) (x : SlotLine) : State :=
  match e.who with
  | .rowLine die cmd row line => rowDelivered s die cmd row line x
  | .port r =>
    match portLine s r.target x with
    | (s1, .got p corr) => portReply s1 r 0 (lineBytes p) (correctedLate (.got p corr))
    | (s1, _) => portReply s1 r 1 [] 0
  | .copyRead world core cmd =>
    let (s1, p) := portLine s world x
    copyDelivered s1 core cmd x.addr p
  | .rowRead world die cmd =>
    let (s1, p) := portLine s world x
    rowGot s1 die cmd x.addr p
  | .collRead world inst core =>
    let (s1, p) := portLine s world x
    collGot s1 inst core x.addr p
  | .commit _ _ _ _ _ => s

/-- DIND_LINE_DELIVERY (R141, R142, R118, R294, R295): a window's DRD reads its line, its DWR takes the entry's line, or the line read
reaches its requester. -/
def execDindLineDelivery (ch : Nat) (s : State) : Out :=
  let c := getChan s ch
  match c.windows.find? (fun w => windowActs w s.cyc) with
  | none => .next s
  | some w =>
    let drop := fun s : State => setChan s ch { getChan s ch with
      windows := (getChan s ch).windows.map fun v => if v = w then { v with done := true } else v }
    let store := fun (s : State) (l : Line × Nat) =>
      setChan s ch { getChan s ch with writes := (getChan s ch).writes ++ [(s.cyc + 8 + l.2, w.entry.addr, l.1)] }
    match w.entry.write, w.line with
    | true, _ =>
      let (s1, l) := windowSupplied (drop s) w.entry
      .next (match l with | some l => store s1 l | none => s1)
    | false, none =>
      let x := readLine s w.entry.addr s.cyc
      .next (setChan s ch { c with windows := c.windows.map fun v => if v = w then { v with line := some x } else v })
    | false, some x => .next (windowDelivered (drop s) w.entry x)

/-! ### Lines landing (R130, R118) -/

/-- A channel on which no program of a launch runs any more. -/
def endProgram (c : Channel) (launch : Nat) : Channel :=
  { c with run := match c.run with | some r => if r.launch = launch then none else some r | none => none }

/-- DRD_LINE_LANDING (R130, R118, R145): a line due is appended to its landing slot; a sealed line bound for slots 0 to 6 raises 0x30, is
discarded, and ends its launch's program on the channel. -/
def execDrdLineLanding (ch : Nat) (s : State) : Out :=
  let c := getChan s ch
  match c.flight with
  | f :: rest =>
    if s.cyc < f.due then .next s
    else
      let s1 := setChan s ch { c with flight := rest }
      let s2 := setChan s ch (endProgram { c with flight := rest } f.launch)
      if f.line.line.ot.getLsbD 6 && decide (f.slot ≠ 7) then
        .next (takeTrap s2 f.launch none ch 9 true { Raise.at_ 0x30 f.line.addr f.line.addr with detail := [ch, f.word, f.issued] })
      else .next (updCore s1 f.core fun k => pushLand k f.slot { f.line with cyc := s.cyc })
  | [] => .next s

/-! ### Refresh (R134, R136 to R140) -/

/-- REFRESH_COMPLETE (R134). -/
def execRefreshComplete (ch bank : Nat) (s : State) : Out :=
  let c := getChan s ch
  match getBank c bank with
  | .refreshing t => if t ≤ s.cyc then .next (setChan s ch (setBank c bank .closed)) else .next s
  | _ => .next s

/-- Whether a bank's refresh has come due under a running program (R137). -/
def refreshMissed (c : Channel) (bank cyc : Nat) : Bool := c.run.isSome && decide (getRef c bank + 3120 ≤ cyc)

/-- REFRESH_DEADLINE_MISSED (R137). No word failed. DESIGN CHOICE: the record names the word that would have issued next, and the deadline's
cycle (R145, log 96). -/
def execRefreshDeadlineMissed (ch bank : Nat) (s : State) : Out :=
  let c := getChan s ch
  match c.run with
  | some run => if refreshMissed c bank s.cyc then .next (chanTrap s ch run (Raise.of 0x51)) else .next s
  | none => .next s

/-- The first cycle G of the running frame's edge gap (R237). -/
def gapStart (s : State) : Nat := (frameOf s s.cyc + 1) * 2 ^ s.frameLog2 - 1024

/-- Whether the cycle lies in an edge gap. -/
def inGap (s : State) : Bool := decide (gapStart s ≤ s.cyc)

/-- Whether a channel is in a lead-in (R139). -/
def inLeadIn (c : Channel) (cyc : Nat) : Bool :=
  match c.leadIn with
  | some e => decide (e ≤ cyc + 320)
  | none => false

/-- The Open bank that may be precharged in the cycle: the first that Table 5.5 allows (R145); in the seal the lowest one once Table 5.5
allows it, and one bank a cycle (R140). -/
def closable (sealing : Bool) (c : Channel) (cyc : Nat) : Option Nat :=
  if sealing then
    (allBanks.find? (isOpen c)).filter fun b =>
      gapsOk c kDpre b cyc && c.recent.all fun r => !(decide (r.kind = kDpre) && decide (r.cyc = cyc))
  else allBanks.find? fun b => isOpen c b && gapsOk c kDpre b cyc

/-- The earliest LASTREF of a channel's banks. -/
def oldestRef (c : Channel) : Nat := (allBanks.map (getRef c)).foldl min (getRef c 0)

/-- Whether an idle channel may issue an all-bank refresh in the cycle: a window leaves its banks Closed 39 cycles after its start (R141). -/
def refreshReady (c : Channel) (cyc : Nat) : Bool :=
  allClosed c && gapsOk c kDref 0 cyc && (c.windows.all fun w => decide (w.start + 39 ≤ cyc)) && c.recent.all fun r => decide (r.cyc < cyc)

/-- Whether a launch's segment runs and no trap has ended it. -/
def runsFreely (s : State) (n : Nat) : Bool := (getLaunch s n).run.any fun r => r.trap.isNone

/-- Whether an idle channel wants a refresh: in the seal, one at its start (R140); otherwise before a deadline comes within 320
cycles, but not where it would run into a lead-in (R138, log 38). -/
def refreshWanted (s : State) (c : Channel) : Bool :=
  if inGap s then decide (oldestRef c < gapStart s)
  else
    decide (oldestRef c + 2800 ≤ s.cyc) &&
      (match c.leadIn with | some e => decide (s.cyc + 580 ≤ e) | none => true)

/-- Whether a channel's own part of the seal or of R138 acts in the cycle: the seal ends a program still running; an idle channel
precharges an Open bank, or refreshes. -/
def idleDue (s : State) (c : Channel) : Bool :=
  if c.run.isSome then inGap s
  else (closable (inGap s) c s.cyc).isSome || (refreshWanted s c && refreshReady c s.cyc)

/-- What stands for the package manager in a trap's logical index: past every core and channel (log 43). -/
def managerIdx : Nat := 512

/-- IDLE_CHANNEL_REFRESH (R138, R140, R145, R137): at the seal's start a program still running is ended, and its segment with it by 0x13
(R127); one bank precharged as soon as Table 5.5 allows, in ascending order; then DREF. -/
def execIdleChannelRefresh (ch : Nat) (s : State) : Out :=
  let c := getChan s ch
  if !idleDue s c then .next s
  else
    match c.run with
    | some run =>
      let s1 := setChan s ch { c with run := none }
      .next (if runsFreely s run.launch then takeTrap s1 run.launch none managerIdx 0 true (Raise.of 0x13) else s1)
    | none =>
    match closable (inGap s) c s.cyc with
    | some b => .next (setChan s ch (precharge s.cyc c b))
    | none => .next (setChan s ch (refreshAll c s.cyc))

/-- Whether an idle channel serves its remote bin in the cycle: outside the seal, which its DREF ends, over by the frame's end, where every
bank is Closed (R140), and outside every lead-in, no window running, no refresh wanted (R138). -/
def remoteDue (s : State) (c : Channel) : Bool :=
  c.run.isNone && decide (s.cyc + 40 ≤ gapStart s + if inGap s then 1024 else 0) && !refreshWanted s c && allClosed c && c.windows.isEmpty &&
    (match c.leadIn with | some e => decide (s.cyc + 360 ≤ e) | none => true) &&
    (match c.bin1 with | e :: _ => gapsOk c kDact (bankOf e.addr) s.cyc | [] => false)

/-- IDLE_REMOTE_WINDOW (R138). -/
def execIdleRemoteWindow (ch : Nat) (s : State) : Out :=
  if remoteDue s (getChan s ch) then .next (openRemote s ch) else .next s

/-- Whether a channel's lead-in refresh is due: E − 300 (R139). -/
def leadInDue (c : Channel) (cyc : Nat) : Bool :=
  match c.leadIn with
  | some e => decide (e ≤ cyc + 300) && decide (oldestRef c + 300 < e)
  | none => false

/-- LEAD_IN_REFRESH (R139): the DREF of a lead-in, whatever the banks were. -/
def execLeadInRefresh (ch : Nat) (s : State) : Out :=
  let c := getChan s ch
  if leadInDue c s.cyc then .next (setChan s ch (refreshAll c s.cyc)) else .next s

/-- A channel at the end of a cycle: DWR lines written from the next on (Table 8.2), windows of 40 cycles over (R141), old commands
forgotten. -/
def settleChan (s : State) (ch : Nat) : State :=
  let c := getChan s ch
  let due := c.writes.filter fun w => decide (w.1 ≤ s.cyc)
  let s1 := due.foldl (fun s w => writeLine s w.2.1 w.2.2) s
  setChan s1 ch (forget s.cyc { c with
    writes := c.writes.filter fun w => decide (s.cyc < w.1), windows := c.windows.filter fun w => decide (s.cyc < w.start + 39) })

end Sys2Proof.Machine
end

