-- ==== Sys2Proof/Machine/Image.lean ====
section
/-!
DEFINITION. Launch records and images: their layouts (Tables 9.2, 9.5, 9.14), the package manager's reads of world memory, and the
admission checks of Table 9.3 (R22, R25, R61, R119, R128, R191, R223, R225, R230, R231).
-/

namespace Sys2Proof.Machine

open Sys2Proof

/-! ### Reading a world's memory (R223) -/

/-- The handle of a translation (Table 4.3). -/
def transHandle (world : Nat) (t : Trans) : Word64 := handleWord t.pid t.frame 0 world t.conf t.sealed_ t.w t.size true

/-- The n bytes at an offset of a translated page; a line that cannot be read gives zeros. -/
def transBytes (s : State) (world : Nat) (t : Trans) (off n : Nat) : State × List Byte :=
  let h := transHandle world t
  if hSpace h = 0 then
    match plainBytes s world t.conf (hAddr h + off) n with
    | (s1, some bs) => (s1, bs)
    | (s1, none) => (s1, List.replicate n 0)
  else
    match outsideRead s world h off n with
    | (s1, bs, _) => (s1, bs)

/-- The pieces of [va, va + n) that each lie in one page of the smallest size. -/
def vaPieces (va n : Nat) : List (Nat × Nat) :=
  (List.range (if n = 0 then 0 else (va + n - 1) / 4096 - va / 4096 + 1)).map fun k =>
    let a := max va ((va / 4096 + k) * 4096)
    (a, min (va + n) ((va / 4096 + k + 1) * 4096) - a)

/-- The n bytes from a virtual address of a world on, as the package manager reads them, and the first address that is not mapped;
unmapped bytes are zeros. -/
def readVa (s : State) (world va n : Nat) : State × List Byte × Option Nat :=
  (vaPieces va n).foldl (fun acc p =>
    match lookupTrans (getWorld acc.1 world).table p.1 with
    | none => (acc.1, acc.2.1 ++ List.replicate p.2 0, some (acc.2.2.getD p.1))
    | some t =>
      let (s1, bs) := transBytes acc.1 world t (p.1 - t.va) p.2
      (s1, acc.2.1 ++ bs, acc.2.2)) (s, [], none)

/-- Whether a world's table maps an address. -/
def mapsVa (s : State) (world va : Nat) : Bool := (lookupTrans (getWorld s world).table va).isSome

/-! ### The launch record (Table 9.2) -/

/-- HDR. -/
def recHdr (r : List Byte) : Nat := leField r 0 4
/-- PRIO. -/
def recPrio (r : List Byte) : Nat := bitsOf (recHdr r) 9 8
/-- PRODV. -/
def recProdv (r : List Byte) : Bool := bitOf (recHdr r) 13
/-- INDV. -/
def recIndv (r : List Byte) : Bool := bitOf (recHdr r) 14
/-- HAZ. -/
def recHaz (r : List Byte) : Bool := bitOf (recHdr r) 15
/-- LCOUNT. -/
def recLcount (r : List Byte) : Nat := leField r 4 2
/-- LID. -/
def recLid (r : List Byte) : Nat := leField r 8 8
/-- IMAGE. -/
def recImage (r : List Byte) : Nat := leField r 16 8
/-- SQTAB. -/
def recSqtab (r : List Byte) : Nat := leField r 24 8
/-- WSET. -/
def recWset (r : List Byte) : Nat := leField r 32 8
/-- WCOUNT. -/
def recWcount (r : List Byte) : Nat := leField r 40 4
/-- PROD. -/
def recProd (r : List Byte) : Nat := leField r 48 8
/-- ICNT. -/
def recIcnt (r : List Byte) : Nat := leField r 56 8
/-- COMPL. -/
def recCompl (r : List Byte) : Nat := leField r 64 8
/-- TREC. -/
def recTrec (r : List Byte) : Nat := leField r 72 8
/-- The four RINGS words. -/
def recRings (r : List Byte) : List Nat := (List.range 4).map fun k => leField r (80 + 4 * k) 4
/-- The valid ring attachments: flow, port and logical index. -/
def ringsOf (r : List Byte) : List (Nat × Nat × Nat) :=
  ((recRings r).filter fun w => bitOf w 15).map fun w => (bitsOf w 9 0, bitsOf w 11 10, bitsOf w 24 16)
/-- DGRP: the group, 0 for none, and its launch count; a count field of 0 stands for 1,024. -/
def recDgrp (r : List Byte) : Nat × Nat :=
  let w := leField r 96 8
  (bitsOf w 15 0, if bitsOf w 25 16 = 0 then 1024 else bitsOf w 25 16)
/-- LWORD0 to LWORD15. -/
def recLwords (r : List Byte) : List Word64 := (List.range 16).map fun k => BitVec.ofNat 64 (leField r (128 + 8 * k) 8)

/-- Whether a must-be-zero field of Table 9.2 is not zero. -/
def recMbz (r : List Byte) : Bool :=
  decide (bitsOf (recHdr r) 12 10 ≠ 0) || decide (bitsOf (recHdr r) 31 16 ≠ 0) || decide (leField r 6 2 ≠ 0) ||
    decide (leField r 44 4 ≠ 0) || ((recRings r).any fun w => decide (bitsOf w 14 12 ≠ 0) || decide (bitsOf w 31 25 ≠ 0)) ||
    decide (leField r 96 8 / 2 ^ 26 ≠ 0) || decide (leNat (sliceBytes r 104 24) ≠ 0)

/-- The square table's used entries: members in ascending order (Table 9.2). -/
def parseSquares (bs : List Byte) : SMap (List Nat) :=
  ((List.range 256).map fun q =>
    let w := leField bs (64 * q) 64
    (q, (List.range 512).filter fun i => bitOf w i)).filter fun e => !e.2.isEmpty

/-! ### The image (Tables 9.5, 9.14) -/

/-- SIZE of an image. -/
def imgSize (i : List Byte) : Nat := leField i 8 4
/-- TICKLOG2; 0 means 10. -/
def imgTick (i : List Byte) : Nat := if leField i 6 1 = 0 then 10 else leField i 6 1
/-- NSEG. -/
def imgNseg (i : List Byte) : Nat := leField i 12 2
/-- A code region: offset and bytes. -/
def imgCode (i : List Byte) (q : Nat) : Nat × Nat := (leField i (20 + 8 * q) 4, leField i (24 + 8 * q) 4)
/-- The channel-program region. -/
def imgChan (i : List Byte) : Nat × Nat := (leField i 52 4, leField i 56 4)
/-- The pattern region. -/
def imgPat (i : List Byte) : Nat × Nat := (leField i 60 4, leField i 64 4)
/-- The hazard table, its length in bytes. -/
def imgHaz (i : List Byte) : Nat × Nat := (leField i 68 4, 4 * leField i 72 4)
/-- The control-memory data. -/
def imgCtl (i : List Byte) : Nat × Nat := (leField i 76 4, leField i 80 4)
/-- The image data. -/
def imgMem (i : List Byte) : Nat × Nat := (leField i 84 4, leField i 88 4)

/-- The parcels of a stream's code region. -/
def codeParcels (i : List Byte) (q : Nat) : List Word32 := parcelsOfBytes (sliceBytes i (imgCode i q).1 (imgCode i q).2)

/-- One segment-table entry at an offset, and the offset after it (Table 9.5). -/
def parseSegment (i : List Byte) (a : Nat) : Segment × Nat :=
  let nen := leField i (a + 6) 2
  let chtab := leField i (a + 24) 4
  ({ cost := leField i a 4
     slipa := leField i (a + 4) 2
     entries := (List.range 4).map fun q => leField i (a + 8 + 4 * q) 4
     chans := (List.range (leField i (a + 28) 4)).map fun k => (leField i (chtab + 4 * k) 2, leField i (chtab + 4 * k + 2) 2)
     energy := (List.range nen).map fun j =>
       (leField i (a + 32 + 8 * j) 2, leField i (a + 34 + 8 * j) 2, leField i (a + 36 + 8 * j) 4) },
   a + 32 + 8 * nen)

/-- The segment table from an offset on, and the offset after it. -/
def parseSegments (i : List Byte) : Nat → Nat → List Segment × Nat
  | 0, a => ([], a)
  | n + 1, a =>
    let (g, b) := parseSegment i a
    let (gs, c) := parseSegments i n b
    (g :: gs, c)

/-- The segments of an image. -/
def imgSegments (i : List Byte) : List Segment := (parseSegments i (imgNseg i) (leField i 16 4)).1

/-- The regions of an image, the header among them: offset and bytes, empty ones left out. -/
def imgRegions (i : List Byte) : List (Nat × Nat) :=
  let t := leField i 16 4
  let table := (t, (parseSegments i (imgNseg i) t).2 - t)
  ([(0, 256), table] ++ ((List.range 4).map (imgCode i)) ++ [imgChan i, imgPat i, imgHaz i, imgCtl i, imgMem i]).filter
    fun r => decide (r.2 ≠ 0)

/-- Whether two regions overlap. -/
def regionsClash (x y : Nat × Nat) : Bool := decide (x.1 < y.1 + y.2) && decide (y.1 < x.1 + x.2)

/-- Whether any two regions of a list overlap. -/
def anyClash : List (Nat × Nat) → Bool
  | [] => false
  | r :: rs => rs.any (regionsClash r) || anyClash rs

/-- Whether the image's header or layout is malformed (R231). DESIGN CHOICE: NSEG 0, which Table 9.14's range leaves out and no rule refuses,
is malformed (log 108). -/
def headerBad (i : List Byte) : Bool :=
  decide (leField i 0 4 ≠ 0x47454943) || decide (leField i 4 2 ≠ 1) || decide (imgNseg i = 0) || decide (leField i 14 2 ≠ 0) ||
    decide (leNat (sliceBytes i 92 164) ≠ 0) ||
    ((imgRegions i).any fun r => decide (imgSize i < r.1 + r.2) || decide (r.1 % 64 ≠ 0)) || anyClash (imgRegions i) ||
    decide (65536 < (imgCtl i).2) ||
    (imgSegments i).any fun g => g.energy.any fun e => decide (e.2.1 ≠ 0)

/-! ### Streams (R22, R61, R225) -/

/-- The words of a code from a position on: position, parcels from it. -/
def wordsFrom : Nat → Nat → List Word32 → List (Nat × List Word32)
  | 0, _, _ => []
  | _ + 1, _, [] => []
  | f + 1, p, w :: ws => (p, w :: ws.take 5) :: wordsFrom f (p + parcelsOf w) ((w :: ws).drop (parcelsOf w))

/-- Whether a word is SEGEND. HALT counts as one only for the end of a running segment (R232, R233, R382). -/
def isSegend (w : Word32) : Bool := decide (lenOf w = 0) && decide (opOf w = 0x35)

/-- The words of a stream from a position on to its region's end. -/
def wordsAt (ps : List Word32) (at_ : Nat) : List (Nat × List Word32) := wordsFrom ps.length at_ (ps.drop at_)

/-- Where a stream segment ends, its SEGEND included (R22): its first one from its entry on, the region's end where none stands. DESIGN
CHOICE: the first, where more than one stands (log 107). -/
def segmentStop (ps : List Word32) (entry : Nat) : Nat :=
  ((wordsAt ps entry).find? fun e => (e.2.head?).any isSegend).elim (max entry ps.length) fun e => e.1 + 1

/-- Whether a stream segment is longer than 32 KiB (R22): 8,192 parcels. -/
def streamTooLong (ps : List Word32) (entry : Nat) : Bool := decide (8192 < segmentStop ps entry - entry)

/-- The words of a stream that belong to a segment, within the 32 KiB that the instruction store holds (R22): those up to its SEGEND, and
those up to the next higher entry of another segment. DEDUCED: what stands behind an early SEGEND or HALT is the segment's too (log 107). -/
def heldWords (ps : List Word32) (entry : Nat) (entries : List Nat) : List (Nat × List Word32) :=
  let next := (entries.filter fun e => decide (entry < e)).foldl min (entry + 8192)
  let top := min (entry + 8192) (max next (segmentStop ps entry))
  (wordsAt ps entry).takeWhile fun e => decide (e.1 < top)

/-- The loops of a stretch of code: each LOOP's position and its last word's. -/
def loopsOf (ws : List (Nat × List Word32)) : List (Nat × Nat) :=
  ws.filterMap fun e =>
    match decode e.2 with
    | .ok (.loop _ _ off) => some (e.1, branchTo e.1 off)
    | _ => none

/-- Whether loops nest deeper than four (R61). -/
def loopsTooDeep (ls : List (Nat × Nat)) : Bool :=
  ls.any fun l => decide (4 ≤ (ls.filter fun k => decide (k.1 < l.1) && decide (l.1 ≤ k.2)).length)

/-- Whether some word of a stream satisfies a test, of those that its region holds from its start on or from a segment's entry on, in step
with which its words are fetched (R22). -/
def anyWord (ps : List Word32) (entries : List Nat) (test : List Word32 → Bool) : Bool :=
  ((0 :: entries).dedup).any fun e => (wordsAt ps e).any fun w => test w.2

/-- Whether a word is of 192 bits and its opcode reserved (R225). -/
def wideReserved (w : List Word32) : Bool := (w.head?).any fun w => decide (lenOf w = 3) && decide (opOf w < 1 ∨ 4 < opOf w)

/-- Whether a stream's code nests loops deeper than four, anywhere from its region's start or from a segment's entry on: what follows an
early SEGEND or HALT belongs to the stream too (R61). -/
def nestsTooDeep (ps : List Word32) (entries : List Nat) : Bool :=
  ((0 :: entries).dedup).any fun e => loopsTooDeep (loopsOf (wordsAt ps e))

/-- The entries of an image's segments into a stream. -/
def streamEntries (i : List Byte) (q : Nat) : List Nat := (imgSegments i).map fun g => g.entries.getD q 0

/-- Whether an image's streams are malformed. -/
def streamsBad (i : List Byte) : Bool :=
  (List.range 4).any fun q =>
    let ps := codeParcels i q
    let entries := streamEntries i q
    anyWord ps entries wideReserved || entries.any (streamTooLong ps) || nestsTooDeep ps entries

/-! ### Channel programs (R128, R119) -/

/-- The words of an image's channel-program region from an index on, up to a channel program's `.end`; none where the region ends
before one. -/
def programFrom (i : List Byte) : Nat → Nat → Option (List Word64)
  | 0, _ => none
  | n + 1, k =>
    let w := BitVec.ofNat 64 (leField i ((imgChan i).1 + 8 * k) 8)
    match decodeChannel w with
    | .ok (.dnopEnd _) => some [w]
    | _ => (programFrom i n (k + 1)).map (w :: ·)

/-- A channel program of an image by its entry word. -/
def imgProgram (i : List Byte) (k : Nat) : Option (List Word64) := programFrom i ((imgChan i).2 / 8 - k) k

/-- Whether a line lies in a cellar page of a world (R119). -/
def cellarLine (s : State) (world addr : Nat) : Bool := (getWorld s world).table.any fun t => t.sealed_ && transCovers t addr

/-- Whether a loop body, or the words after a DIND, break R128: the word at an index of a program. -/
def chanPlaceBad (ws : List Word64) (k : Nat) : Bool :=
  let small (j : Nat) : Bool := decide (chanDelta (ws.getD j 0) < 40)
  let isLoop (j : Nat) : Bool := match decodeChannel (ws.getD j 0) with | .ok (.dloop _ _) => true | _ => false
  match decodeChannel (ws.getD k 0) with
  | .ok (.dind _ _) => decide (k + 1 < ws.length) && small (k + 1)
  | .ok (.dloop lenw rep) =>
    let n := lenw.toNat
    decide (n = 0) || decide (rep = 0) || decide (ws.length < k + 1 + n) ||
      ((List.range n).any fun j => isLoop (k + 1 + j)) ||
      (match decodeChannel (ws.getD (k + n) 0) with
      | .ok (.dind _ _) => decide (1 < rep.toNat) && small (k + 1)
      | _ => false)
  | _ => false

/-- Whether a word of a channel program on a channel breaks R128 or R119 by itself. -/
def chanWordBad (s : State) (world lcount ch : Nat) (w : Word64) : Bool :=
  let wd := getWorld s world
  match decodeChannel w with
  | .error _ => true
  | .ok i =>
    match i with
    | .dloop _ _ => decide (chanDelta w ≠ 0)
    | .dact _ _ row =>
      decide (chanDelta w = 0) || decide (49152 ≤ row.toNat) || decide (row.toNat * 2 ^ 23 < wd.cbase) ||
        decide (wd.cbase + wd.csize < (row.toNat + 1) * 2 ^ 23)
    | .drd _ _ _ _ core _ => decide (chanDelta w = 0) || decide (lcount ≤ core.toNat)
    | .dwr _ bank row col core _ =>
      decide (chanDelta w = 0) || decide (lcount ≤ core.toNat) ||
        cellarLine s world (dramAddr row.toNat bank.toNat ch col.toNat)
    | .dind _ slot => decide (chanDelta w = 0) || decide (1 < slot.toNat)
    | _ => decide (chanDelta w = 0)

/-- Whether a segment's channel entry is malformed. -/
def chanEntryBad (s : State) (world lcount : Nat) (i : List Byte) (e : Nat × Nat) : Bool :=
  match imgProgram i e.2 with
  | none => true
  | some ws =>
    decide (512 ≤ e.1) || ws.any (chanWordBad s world lcount e.1) || (List.range ws.length).any (chanPlaceBad ws)

/-! ### Patterns (R191) -/

/-- The pattern directory's entries: first word and word count. -/
def patDirectory (i : List Byte) : List (Nat × Nat) :=
  (List.range 8).map fun p => (leField i ((imgPat i).1 + 4 * p) 2, leField i ((imgPat i).1 + 4 * p + 2) 2)

/-- The pattern words. -/
def patWords (i : List Byte) : List Word32 := parcelsOfBytes (sliceBytes i ((imgPat i).1 + 32) ((imgPat i).2 - 32))

/-- Whether the pattern region is malformed. -/
def patternsBad (i : List Byte) : Bool :=
  decide ((imgPat i).2 ≠ 0) &&
    (decide ((imgPat i).2 < 32) || decide (32 + 4 * 256 < (imgPat i).2) ||
      (patDirectory i).any fun e => decide (((imgPat i).2 - 32) / 4 < e.1 + e.2))

/-! ### Table 9.3 -/

/-- Whether an image is malformed (reason 0x01). -/
def imageBad (s : State) (world lcount : Nat) (i : List Byte) : Bool :=
  headerBad i || patternsBad i || streamsBad i ||
    (imgSegments i).any fun g =>
      decide (g.cost = 0) || decide (g.slipa = 0) || g.chans.any (chanEntryBad s world lcount i)

/-- The translations of a launch's working set, as the world's table maps it (R105); each once. -/
def wsetTrans (s : State) (world : Nat) (vas : List Nat) : List Trans :=
  (vas.filterMap (lookupTrans (getWorld s world).table)).dedup

/-- The logical index an energy entry names, if it names a core's island (Table 9.5). -/
def energyIndex (island : Nat) : Option Nat := if 1024 ≤ island ∧ island < 1040 then none else some (island / 2)

/-- The flow that a ring attachment names, where it is valid for the world (R168). -/
def ringFlow (s : State) (world flow port : Nat) : Option NetFlow :=
  match (getWorld s world).flows.find? (fun e => decide (e.1 = flow)) with
  | some (_, f) => if f.valid && decide (bitsOf (leField f.entry 0 1) 5 4 = port) then some f else none
  | none => none

/-- Whether the world that owns a table names another world of this package and it names the first, or both are one (R296, R299). -/
def worldsMutual (s : State) (v w : Nat) : Bool :=
  decide (v = w) ||
    match s.domain with
    | some p => namesBack s v p w && namesBack s w p v
    | none => false

/-- Whether a member of a domain group stands with a world of this package: their tables name each other; a remote world's own table
is its package's (log 21). -/
def memberMutual (s : State) (world : Nat) (m : Nat × Nat × Nat) : Bool :=
  if m.1 = s.domain.getD 0 then worldsMutual s world m.2.1 else namesBack s world m.1 m.2.1

/-- Whether a world's enrolment in g joins a domain group (R299). -/
def groupMine (s : State) (world g : Nat) (e : Nat × Nat × List (Nat × Nat × Nat)) : Bool :=
  decide (e.1 = g) && e.2.2.any (memberMutual s world)

/-- The members that an enrolment finds in the groups it joins: those that came before in groups of their own are one with it (R299). -/
def membersOf (s : State) (mine : Nat × Nat × List (Nat × Nat × Nat) → Bool) : List (Nat × Nat × Nat) :=
  (s.groups.filter mine).flatMap fun e => e.2.2

/-- Whether an enrolment with count n is refused by the groups it joins: one of another count, or more than n members (R299). -/
def joinBad (s : State) (mine : Nat × Nat × List (Nat × Nat × Nat) → Bool) (n : Nat) : Bool :=
  (s.groups.any fun e => mine e && decide (e.2.1 ≠ n)) || (s.groups.any mine && decide (n ≤ (membersOf s mine).length))

/-- The state with a member, by its place among the group's, added to the groups it joins, which are one from then on (R299). DEDUCED: so an
enrolment merges two groups that it finds (log 128). -/
def joinGroups (s : State) (mine : Nat × Nat × List (Nat × Nat × Nat) → Bool) (g n : Nat) (m : Nat → Nat × Nat × Nat) : State :=
  let old := membersOf s mine
  { s with groups := (s.groups.filter fun e => !mine e) ++ [(g, n, old ++ [m old.length])] }

/-- The state with a launch's enrolment added to its group. -/
def enrol (s : State) (world g n : Nat) (m : Nat × Nat × Nat) : State := joinGroups s (groupMine s world g) g n fun _ => m

/-- Whether an enrolment in g with count n is refused (R299). -/
def groupBad (s : State) (world g n : Nat) : Bool := decide (g ≠ 0) && joinBad s (groupMine s world g) n

/-- The dies of the n blocks of 128 logical indices: logical index i stands on die ⌊i / 128⌋ (R226, R203). -/
def diesFor (n : Nat) : List (List Nat) := [List.range n]

/-- The logical indices of block b of a launch of n cores. -/
def blockOf (n b : Nat) : List Nat := (List.range (min 128 (n - 128 * b))).map (128 * b + ·)

/-- The cores of a die that a list holds. -/
def coresOnDie (ps : List Nat) (d : Nat) : List Nat := ps.filter fun p => decide (p / 128 = d)

/-- The dies of a launch's blocks, where a launch of n cores finds room among some cores, its ring cores on their indices. -/
def mappings (n : Nat) (free : List Nat) (rings : List (Nat × Nat)) : List (List Nat) :=
  (diesFor (ceilDiv n 128)).filter fun ds =>
    ds.zipIdx.all (fun e => decide ((blockOf n e.2).length ≤ (coresOnDie free e.1).length)) &&
      rings.all fun r => decide (ds.getD (r.1 / 128) 4 = r.2 / 128) && free.contains r.2

/-- The cores that the frame table gives a world in a frame. -/
def worldCores (s : State) (frame world : Nat) : List Nat :=
  (List.range 512).filter fun p => decide (unitWorld s frame p = world)

/-- The world that a unit byte of a frame-table entry names once the rewrites under way are done (R238). -/
def comingWorld (s : State) (e unit : Nat) : Nat :=
  ((s.rewrites.find? fun r => decide (r.1 = unit) && r.2.2.contains (e % 32)).map fun r => r.2.1).getD (unitWorld s e unit)

/-- Whether some frame-table entry gives a world n cores with the die grouping of R203 (reason 0x05); rewrites under way count. -/
def placeable (s : State) (world n : Nat) : Bool :=
  decide (n ≠ 0) && decide (n ≤ 512) && (List.range 32).any fun e =>
    !(mappings n ((List.range 512).filter fun p => decide (comingWorld s e p = world)) []).isEmpty

/-- Reasons 0x02 to 0x04 and 0x01 of Table 9.3, of an image that can be read. -/
def imageReason (s : State) (world : Nat) (r img : List Byte) : Option Nat :=
  let segs := imgSegments img
  if imageBad s world (recLcount r) img then some 1
  else if segs.any fun g => decide (2 ^ s.frameLog2 < g.cost + 1024) then some 2
  else if decide (imgTick img < 4) || decide (20 < imgTick img) || decide (s.frameLog2 < imgTick img) ||
      (List.range segs.length).any fun k => decide (2 ^ 22 < Config.commitBytes img k) then some 3
  else none

/-- Reason 0x04 of Table 9.3, but for an image that cannot be read. -/
def contextBad (s : State) (world : Nat) (r : List Byte) (squares : SMap (List Nat)) (segs : List Segment) : Bool :=
  let n := recLcount r
  let rings := ringsOf r
  (squares.any fun e => e.2.any fun i => decide (n ≤ i)) ||
    ((List.range 512).any fun i => decide (4 < (squares.filter fun e => e.2.contains i).length)) ||
    (rings.any fun a => (ringFlow s world a.1 a.2.1).isNone || decide (n ≤ a.2.2)) ||
    decide (rings.map (·.2.2) ≠ (rings.map (·.2.2)).dedup) ||
    groupBad s world (recDgrp r).1 (recDgrp r).2 ||
    segs.any fun g => g.energy.any fun e => (energyIndex e.1).any fun i => decide (n ≤ i)

/-- The addresses of a working-set list (Table 9.2). -/
def wsetAddrs (bs : List Byte) (count : Nat) : List Nat := (List.range count).map fun k => leField bs (16 * k) 8

/-- The image at a launch record's IMAGE address, its SIZE bytes. -/
def readImage (s : State) (world : Nat) (r : List Byte) : State × List Byte × Option Nat :=
  let (s1, head, _) := readVa s world (recImage r) 256
  readVa s1 world (recImage r) (max 256 (imgSize head))

/-- What admission reads of a launch: the state, image, squares and working set. -/
structure Admission where
  state : State
  image : List Byte
  squares : SMap (List Nat)
  wset : List Nat
  deriving DecidableEq, Repr

/-- The reads of an admission. -/
def admissionReads (s : State) (world : Nat) (r : List Byte) : Admission :=
  let (s1, img, _) := readImage s world r
  let (s2, sq, _) := readVa s1 world (recSqtab r) 16384
  let (s3, ws, _) := readVa s2 world (recWset r) (16 * recWcount r)
  ⟨s3, img, parseSquares sq, wsetAddrs ws (recWcount r)⟩

/-- The first failing check of Table 9.3; `lidUsed` that an unfinished launch holds the LID, `prodKnown` that PROD names a launch. A
check that needs what is not mapped does not fail by that. -/
def refusal (a : Admission) (world : Nat) (r : List Byte) (lidUsed prodKnown : Bool) : Option Nat :=
  let s := a.state
  let mapped := mapsVa s world (recImage r)
  let segs := if mapped then imgSegments a.image else []
  match (if mapped then imageReason s world r a.image else none) with
  | some 1 => some 1
  | some 2 => some 2
  | other =>
    if other = some 3 ∨ 1024 < (wsetTrans s world a.wset).length then some 3
    else if contextBad s world r (if mapsVa s world (recSqtab r) then a.squares else []) segs then some 4
    else if !placeable s world (recLcount r) then some 5
    else if recMbz r || decide (recHdr r % 256 ≠ 1) || lidUsed || !mapped || !mapsVa s world (recSqtab r) ||
        !mapsVa s world (recWset r) || (recIndv r && !mapsVa s world (recIcnt r)) then some 6
    else if recProdv r && !prodKnown then some 7
    else none

end Sys2Proof.Machine
end

