-- ==== Sys2Proof/Machine/Frames.lean ====
section
/-!
DEFINITION. Frames, edge gaps and launches between their segments: completion records, casks, the state sealed at a frame edge,
placement, admission, and the start of a frame (R16, R105, R106, R112, R120, R122, R125, R168, R225 to R245, R288, R296, R297,
R299, R304, R309, R311). An edge gap's actions are performed at its first cycle G and at G + 320 (log 12).
-/

namespace Sys2Proof.Machine

open Sys2Proof

/-- A map with the value at a key put in place of any other. -/
def mapPut {α : Type} (m : SMap α) (k : Nat) (v : α) : SMap α :=
  m.filter (fun e => decide (e.1 < k)) ++ [(k, v)] ++ m.filter (fun e => decide (k < e.1))

/-! ### Cores between segments -/

/-- What a core keeps for its world when no launch holds it, until the next edge gap: its scratchpad (R36, R122, Table 9.8). -/
def bareCore (c : Core) : Core := { Core.zero with spad := c.spad, recent := c.recent, world := c.world }

/-- The state with the cores that a launch occupies left to their world. -/
def releaseCores (s : State) (n : Nat) : State :=
  (getLaunch s n).cores.foldl (fun s p => if (getCore s p).launch = some n then updCore s p bareCore else s) s

/-- The channels that a launch's next or running segment names. -/
def launchChans (l : Launch) : List (Nat × Nat) := ((l.segs[l.seg]?).map (·.chans)).getD []

/-- The state with a launch's lines in flight dropped. -/
def dropLines (s : State) (n : Nat) : State :=
  s.chans.foldl (fun (s : State) (e : Nat × Channel) =>
    if e.2.flight.any fun f => decide (f.launch = n) then
      setChan s e.1 { getChan s e.1 with flight := (getChan s e.1).flight.filter fun f => decide (f.launch ≠ n) }
    else s) s

/-- The state with a launch's channel programs ended and its lines in flight dropped (R127, R145). -/
def stopChannels (s : State) (n : Nat) : State :=
  let l := getLaunch s n
  let s1 := match l.phase with
    | .placed _ =>
      (launchChans l).foldl (fun (s : State) (e : Nat × Nat) => setChan s e.1 { getChan s e.1 with leadIn := none }) s
    | _ => s
  dropLines (s1.chans.foldl (fun (s : State) (e : Nat × Channel) => setChan s e.1 (endProgram (getChan s e.1) n)) s1) n

/-! ### The end of a launch (R229, R299) -/

/-- The completion record (R229). -/
def completionRecord (l : Launch) (status flags cyc : Nat) : List Byte :=
  leBytes 8 (recLid l.record) ++ leBytes 2 status ++ leBytes 2 flags ++ leBytes 4 l.done ++ leBytes 4 l.replays ++ leBytes 8 cyc ++
    List.replicate 36 0

/-- Whether a launch has ended. -/
def launchEnded (l : Launch) : Bool := match l.phase with | .ended _ => true | _ => false

/-- Whether a domain group has no unfinished launch on this package, and whether it has members on others. -/
def groupIdle (s : State) (e : Nat × Nat × List (Nat × Nat × Nat)) : Bool × Bool :=
  let own := e.2.2.filter fun m => decide (m.1 = s.domain.getD 0)
  (own.all fun m => launchEnded (getLaunch s m.2.2), decide (own.length < e.2.2.length))

/-- The groups with those dissolved whose members were all launches of this package and have ended (R299). -/
def dissolveGroups (s : State) : State :=
  { s with groups := s.groups.filter fun e => !((groupIdle s e).1 && !(groupIdle s e).2) }

/-- The groups with those dissolved whose last member launch has ended on another package, as this package learns in an edge gap
(R299, log 69). -/
def dissolveFar (s : State) : State :=
  s.groups.foldl (fun (t : State) e =>
    if (groupIdle s e).1 && (groupIdle s e).2 then
      let t1 := (freshFree t).2
      if Config.groupOver t.free then { t1 with groups := t1.groups.filter fun x => decide (x ≠ e) } else t1
    else t) s

/-- The state with the scratchpads kept that a launch's cores had when they were sealed away: a core gated since holds them for its world as
one that was not (R245, R308). -/
def keepIdle (s : State) (l : Launch) : State :=
  l.images.foldl (fun (s : State) (e : Nat × Sealed) =>
    match l.cores[e.1]? with
    | none => s
    | some p =>
      if (getCore s p).launch.isSome ∨ e.2.spad = [] then s
      else updWorld s l.world fun w => { w with idle := mapPut w.idle p e.2.spad }) s

/-- The state with a launch ended: its completion record written and MSI-X vector 0 signalled (R229), its units freed. -/
def completeLaunch (s : State) (n status flags cyc : Nat) : State :=
  let l := getLaunch s n
  let s1 := stopChannels (releaseCores (keepIdle s l) n) n
  let s2 := hostWrite s1 l.world (recCompl l.record) (completionRecord l status flags cyc)
  let s3 := setLaunch s2 n { l with
    phase := .ended status, run := none, images := [], commits := [], endCyc := cyc, endFrame := frameOf s cyc }
  dissolveGroups (reply s3 0 l.world [])

/-- ORIGIN of a trap (Table 9.10). -/
def trapOrigin (t : Trap) : Nat :=
  if t.lidx = managerIdx then Config.managerOrigin else t.lidx % 2 ^ 16 + t.party % 256 * 2 ^ 16

/-- The trap record's header (Table 9.10): the cause, and the second one. DEDUCED: TCYC is the CYC of the trap, as the table names it;
R324's example counts from its segment's E (log 97). -/
def trapHeader (l : Launch) (seg : Nat) (t : Trap) (multi : Bool) (second : Nat) : List Byte :=
  let restart := decide (t.cause = 0x10) || decide (t.cause = 0x13) || decide (t.cause = 0x20) || decide (t.cause = 0x22)
  leBytes 8 (t.cause + (if restart then 2 ^ 8 else 0) + (if multi then 2 ^ 9 else 0)) ++ leBytes 8 (recLid l.record) ++
    leBytes 8 t.cyc ++ leBytes 4 seg ++ leBytes 4 (trapOrigin t) ++ leBytes 8 t.first ++
    leBytes 8 t.faddr ++ ((List.range 8).flatMap fun k => leBytes 8 (t.detail.getD k 0)) ++ leBytes 8 t.user ++
    leBytes 8 second ++ List.replicate 384 0

/-- The state with a launch ended by a trap (R229, R250): the trap record, then the completion record. -/
def endByTrap (s : State) (n seg : Nat) (t : Trap) (multi : Bool) (second flags : Nat) (sections : SMap (List Byte)) : State :=
  let l := getLaunch s n
  let base := recTrec l.record
  let s1 := hostWrite s l.world base (trapHeader l seg t multi second)
  let s2 := (List.range l.lcount).foldl (fun s i =>
    hostWrite s l.world (base + 512 + 20480 * i) (sliceBytes (smGet [] sections i) 0 20480)) s1
  completeLaunch s2 n t.cause (flags + (if multi then 4 else 0)) s.cyc

/-! ### Casks (R241 to R243, R309 to R311) -/

/-- An island's weight (R309). -/
def islandWeight (i : Nat) : Nat := if 1024 ≤ i then 32 else if i % 2 = 0 then 4 else 1

/-- An island's refill at a frame start, halved while the package throttles (R309, R311). -/
def islandRefill (log2 throttle i : Nat) : Nat := islandWeight i * 5000 * 2 ^ log2 / 2 ^ 16 / 2 ^ throttle

/-- Every island. -/
def allIslands : List Nat := List.range 1040

/-- A balance as the 48 signed bits of a cask hold it (R241); DESIGN CHOICE: one that leaves their range wraps (log 98). -/
def cask48 (x : Int) : Int := signed 48 (x % 2 ^ 48).toNat

/-- An island's balance after a frame start's refill, capped at twice the refill (R241). -/
def refilled (s : State) (throttle i : Nat) : Int :=
  let r : Int := islandRefill s.frameLog2 throttle i
  cask48 (min (smGet 0 s.casks i + r) (2 * r))

/-- The casks after a frame start's refill. -/
def refillCasks (s : State) (throttle : Nat) : SMap Int :=
  allIslands.foldl (fun m i => smSet 0 m i (refilled s throttle i)) s.casks

/-- The throttle step of the coming frame (R311): one more halving where the threshold has been reached since the last frame start or still
is, one fewer after a whole frame below 90 °C. -/
def nextThrottle (s : State) : Nat :=
  if s.reached || decide (95 ≤ s.hottest) then min 4 (s.throttle + 1) else if s.cool then s.throttle - 1 else s.throttle

/-- A segment's energy entries with the islands they name (Table 9.5). -/
def segmentDebits (l : Launch) (g : Segment) : List (Nat × Nat) :=
  g.energy.map fun e =>
    match energyIndex e.1 with
    | none => (e.1, e.2.2)
    | some i => (2 * l.cores.getD i 0 + e.1 % 2, e.2.2)

/-- The energy that a list of entries gives an island. -/
def energyOf (ds : List (Nat × Nat)) (i : Nat) : Nat := ((ds.filter fun d => decide (d.1 = i)).map (·.2)).sum

/-- An island's balance at a placement (R242): in an edge gap, what the coming frame start's refill will leave, less what is already
placed for that frame (Table 12.3). -/
def balanceAt (s : State) (i : Nat) : Int :=
  if inGap s then refilled s (nextThrottle s) i - energyOf s.owed i else smGet 0 s.casks i

/-- Whether every island a segment names holds its cost (R242). -/
def casksHold (s : State) (l : Launch) (g : Segment) : Bool :=
  (segmentDebits l g).all fun d => decide ((d.2 : Int) ≤ balanceAt s d.1)

/-- The state with an amount taken from a cask. -/
def debitCask (s : State) (i : Nat) (n : Int) : State := { s with casks := smSet 0 s.casks i (cask48 (smGet 0 s.casks i - n)) }

/-- The state with a placed segment's costs debited: in an edge gap, once the coming frame's refill is in (R242, Table 12.3). -/
def chargePlacement (s : State) (ds : List (Nat × Nat)) : State :=
  if inGap s then { s with owed := s.owed ++ ds } else ds.foldl (fun s d => debitCask s d.1 d.2) s

/-- The islands metered for a segment run: those its entries name, the two of each of its cores, and the sixteen of the uncore, each of which
holds what the firmware configuration records of the channels and engines that the run uses (R36, R309, R310, log 22). -/
def meteredIslands (l : Launch) (r : SegRun) : List Nat :=
  (r.debits.map Prod.fst ++ (l.cores.flatMap fun p => [2 * p, 2 * p + 1]) ++ (List.range 16).map (1024 + ·)).dedup

/-- The state with a segment run's metered energy settled against its declared cost, one reading for each island, and overruns above 3 %
logged (R242, R243, R310). -/
def settleEnergy (s : State) (n : Nat) (r : SegRun) : State :=
  let l := getLaunch s n
  (meteredIslands l r).foldl (fun s i =>
    let m := Config.meteredEnergy s.free
    let declared := energyOf r.debits i
    let s1 := debitCask (freshFree s).2 i ((m : Int) - declared)
    if m * 100 > declared * 103 then
      reply (updWorld s1 l.world fun w => { w with powerLog := w.powerLog ++ [[l.world, recLid l.record, r.seg, i]] }) 3 l.world []
    else s1) s

/-! ### Sealing and restoring (R122, R245, R246, Table 9.8) -/

/-- The sealed image of a core between segments. -/
def sealCore (c : Core) (cyc : Nat) : Sealed :=
  ⟨c.regs, settleAll c cyc, c.ctl, c.ctlTag, c.committed, c.bBuf, c.live, c.revoked⟩

/-- Whether a launch that holds cores has no segment in the frame that begins. -/
def waitsHeld (l : Launch) : Bool := match l.phase with | .waiting => true | _ => false

/-- The state with a core's state sealed: for the launch still to run that holds it, or, where none does, its scratchpad for its world (R122,
R245). -/
def sealedAway (s : State) (p : Nat) : State :=
  let c := getCore s p
  match c.launch with
  | none => if settleAll c s.cyc = [] then s else updWorld s c.world fun w => { w with idle := mapPut w.idle p (settleAll c s.cyc) }
  | some n =>
    let l := getLaunch s n
    setLaunch s n { l with images := mapPut l.images c.lidx (sealCore c s.cyc) }

/-- The state with one core sealed and zeroed where the coming frame gives it to another world (R122, R245): for the launch still to run
that holds it, or, where none does, its scratchpad for its world. -/
def edgeCore (next : Nat) (s : State) (p : Nat) : State :=
  let c := getCore s p
  let owner := unitWorld s next p
  if owner = c.world then s
  else
    setCore (sealedAway s p) p { Core.zero with world := owner }

/-- The state with a core's storage sealed and lost where no segment has it in the coming frame: its islands are gated in that frame (R28,
R36, R245, R308). A ring core takes packets in every frame and is not gated (R168). -/
def gateCore (s : State) (p : Nat) : State :=
  let c := getCore s p
  if (ringOwner s p).isSome || c.launch.any (fun n => !waitsHeld (getLaunch s n)) then s
  else setCore (sealedAway s p) p { Core.zero with world := c.world }

/-- Whether a world's interface state allows a translation to be installed (Table 11.2). -/
def transAllowed (w : World) (t : Trans) : Bool := !(t.conf || t.sealed_) || decide (w.tdisp = .run)

/-- The translations a core of a launch is loaded with (R105, R106). DESIGN CHOICE: those installed before a replay are kept beside a full
working set, past the 1,024 entries of R25 (log 109). -/
def cacheLoad (s : State) (l : Launch) (i : Nat) : List Trans :=
  let w := getWorld s l.world
  ((wsetTrans s l.world l.wset ++ (l.installs.filter fun e => decide (e.1 = i)).map (·.2)).dedup).filter (transAllowed w)

/-- A core as a launch first finds it (Table 1.2, R57): the image's control-memory data loaded, every word static; its scratchpad as its
world left it in the last frame, or as it was sealed for its world (R245), or zero (R122, R308). -/
def firstCore (c : Core) (idle : Option (List Host.Cell)) (world : Nat) (img : List Byte) : Core :=
  { (match idle with
    | some m => { Core.zero with spad := m }
    | none => if c.world = world then bareCore c else Core.zero) with
    ctl := memWrite [] 0 (sliceBytes img (imgCtl img).1 (imgCtl img).2) }

/-- A core restored from its sealed image. -/
def restoredCore (im : Sealed) : Core :=
  { Core.zero with
    regs := im.regs, spad := im.spad, ctl := im.ctl, ctlTag := im.ctlTag, committed := im.committed, bBuf := im.bBuf,
    live := im.live, revoked := im.revoked }

/-- A flow-table entry's fields (Table 11.10). -/
def flowCtl (e : List Byte) : Nat := leField e 0 1
/-- RINGLOG2. -/
def flowRingLog2 (e : List Byte) : Nat := leField e 1 1
/-- KSLOT. -/
def flowKslot (e : List Byte) : Nat := leField e 2 2
/-- CTXID. -/
def flowCtx (e : List Byte) : Nat := leField e 4 4
/-- RCORE. -/
def flowRcore (e : List Byte) : Nat := bitsOf (leField e 8 8) 8 0
/-- RB, the row bytes. -/
def flowRb (e : List Byte) : Nat := 64 * bitsOf (leField e 8 8) 15 9
/-- RCAP. -/
def flowRcap (e : List Byte) : Nat := bitsOf (leField e 8 8) 28 16
/-- RBASE. -/
def flowRbase (e : List Byte) : Nat := bitsOf (leField e 8 8) 49 29
/-- OVF. -/
def flowOvf (e : List Byte) : Nat := leField e 16 8
/-- CNT. -/
def flowCnt (e : List Byte) : Nat := leField e 24 8

/-- The ranges of a core's scratchpad that the ports write: the ring regions of the world's valid flows whose ring core it is, each with
its two bins and its status line (R168). -/
def ringRanges (w : World) (p : Nat) : List (Nat × Nat) :=
  (w.flows.filter fun (f : Nat × NetFlow) => f.2.valid && decide (f.2.core = p)).map fun f =>
    (flowRbase f.2.entry, flowRbase f.2.entry + 2 * flowRcap f.2.entry * flowRb f.2.entry + 64)

/-- A scratchpad with its ring regions as the ports have written them (R168). -/
def keepRings (old : List Host.Cell) (rings : List (Nat × Nat)) (m : List Host.Cell) : List Host.Cell :=
  rings.foldl (fun m r =>
    m.filter (fun x => decide (x.1 < r.1)) ++ old.filter (fun x => decide (r.1 ≤ x.1) && decide (x.1 < r.2)) ++
      m.filter (fun x => decide (r.2 ≤ x.1))) m

/-- The state with a launch's cores holding its state and their translation caches loaded; a ring's region stays as its port has written it
since (R168). -/
def makeResident (s : State) (n : Nat) : State :=
  let l := getLaunch s n
  l.cores.zipIdx.foldl (fun s e =>
    let c := getCore s e.1
    let idle := ((getWorld s l.world).idle.find? fun x => decide (x.1 = e.1)).map (·.2)
    let c1 :=
      if c.launch = some n then c
      else
        let c2 := match l.images.find? (fun x => decide (x.1 = e.2)) with
          | some (_, im) => restoredCore im
          | none => firstCore c idle l.world l.image
        let rings := if c.world = l.world then ringRanges (getWorld s l.world) e.1 else []
        { c2 with spad := keepRings (settleAll c s.cyc) rings c2.spad }
    setCore (updWorld s l.world fun w => { w with idle := w.idle.filter fun x => decide (x.1 ≠ e.1) }) e.1
      { c1 with launch := some n, lidx := e.2, world := l.world, tcache := cacheLoad s l e.2 }) s

/-! ### Placement (R27, R30, R139, R235, R240, R242, R297) -/

/-- Whether an image holds a row-engine command (R27): C's stream alone accepts one. -/
def hasRowWords (img : List Byte) : Bool :=
  anyWord (codeParcels img 0) (streamEntries img 0) fun w =>
    match decode w with
    | .ok (.rowg _ _ _) => true
    | .ok (.rows _ _ _) => true
    | .ok (.rowsa _ _ _) => true
    | _ => false

/-- Whether a word is a COLL. -/
def isColl : Instr → Bool
  | .collAllred .. => true
  | .collReduce .. => true
  | .collBcast .. => true
  | .collGather .. => true
  | .collA2a .. => true
  | .collCombine .. => true
  | .collSync .. => true
  | _ => false

/-- Whether a segment holds a COLL: one stands in its stretch of C's stream, be it behind an early SEGEND or HALT (R297, log 107). -/
def hasColl (img : List Byte) (segs : List Segment) (g : Segment) : Bool :=
  (heldWords (codeParcels img 0) (g.entries.getD 0 0) (segs.map fun x => x.entries.getD 0 0)).any fun e =>
    match decode e.2 with
    | .ok i => isColl i
    | .error _ => false

/-- Whether a frame gives a launch's world every core of the launch, every channel of a segment and, where the image holds row-engine
commands, every row engine it needs (R27, R30, R235). -/
def frameGives (s : State) (l : Launch) (g : Segment) (frame : Nat) : Bool :=
  (l.cores.all fun p => decide (unitWorld s frame p = l.world)) &&
    (g.chans.all fun e => decide (unitWorld s frame (512 + e.1) = l.world)) &&
    (!hasRowWords l.image || l.cores.all fun p => decide (unitWorld s frame (1024 + p / 128) = l.world))

/-- The next free index of a channel's command memory. -/
def chanFill (c : Channel) : Nat := match c.mem.getLast? with | some e => e.1 + 1 | none => 0

/-- The words of a segment's program on a channel. -/
def chanProgram (l : Launch) (word : Nat) : List Word64 := (imgProgram l.image word).getD []

/-- Where a channel's command memory holds a launch's program, by its entry word in the image. -/
def progBase (c : Channel) (n word : Nat) : Option Nat :=
  (c.progs.find? fun x => decide (x.1 = n) && decide (x.2.1 = word)).map fun x => x.2.2

/-- Whether a segment's programs are held or have room in their channels' command memories (R125). -/
def progsFit (s : State) (n : Nat) (l : Launch) (g : Segment) : Bool :=
  g.chans.all fun e =>
    let c := getChan s e.1
    (progBase c n e.2).isSome || decide (chanFill c + (chanProgram l e.2).length ≤ 2048)

/-- Whether a segment's channels are free for it (R139). Command memories are loaded in edge gaps only: there its programs must fit, in a
frame they must be held already (R125). -/
def chansFree (s : State) (n : Nat) (l : Launch) (g : Segment) : Bool :=
  (g.chans.all fun e => (getChan s e.1).run.isNone && (getChan s e.1).leadIn.isNone) &&
    if inGap s then progsFit s n l g else g.chans.all fun e => (progBase (getChan s e.1) n e.2).isSome

/-- The first tick cycle from a cycle on (R15, R235). -/
def tickFrom (log2 cyc : Nat) : Nat := ceilDiv cyc (2 ^ log2) * 2 ^ log2

/-- The first cycle of the edge gap of a frame (R237). -/
def gapOf (s : State) (frame : Nat) : Nat := (frame + 1) * 2 ^ s.frameLog2 - 1024

/-- The first cycle in which a bank of an idle channel may be precharged (R145, Table 5.5). -/
def closeFrom (c : Channel) (cyc bank : Nat) : Nat :=
  (c.recent.map fun r => r.cyc + gapBetween r.kind kDpre r.bank bank).foldl max cyc

/-- The first cycle in which an idle channel may issue an all-bank DREF: its Open banks precharged as soon as Table 5.5 allows and 12 cycles
more, its refreshes complete, and Table 5.5 kept (R134, R138, R145). -/
def refreshFrom (c : Channel) (cyc : Nat) : Nat :=
  let banks := c.banks.map fun (e : Nat × BankState) =>
    match e.2 with
    | .opened _ => closeFrom c cyc e.1 + 12
    | .refreshing t => t
    | .closed => 0
  (banks ++ c.recent.map fun r => r.cyc + gapBetween r.kind kDref r.bank 0).foldl max cyc

/-- The first entry cycle for which a channel can keep the lead-in: the windows in progress on it are over 320 cycles before, and the DREF
of the lead-in, 300 cycles before, is one that the channel may issue (R138, R139). -/
def leadLow (c : Channel) (cyc : Nat) : Nat := (c.windows.map fun w => w.start + 40 + 320).foldl max (refreshFrom c cyc + 300)

/-- Whether an idle channel keeps its deadlines up to the lead-in of an entry cycle (R138, R139): the lead-in's DREF comes by the oldest of
them, or a refresh before it is complete by then. -/
def leadKeeps (cyc e : Nat) (c : Channel) : Bool :=
  decide (e ≤ oldestRef c + 3420) || decide (refreshFrom c cyc + 580 ≤ e)

/-- The first tick cycle from one given that lets every channel keep its deadlines; each step settles one channel. -/
def leadTick (log2 cyc : Nat) (cs : List Channel) : Nat → Nat → Nat
  | 0, e => e
  | k + 1, e =>
    match cs.find? fun c => !leadKeeps cyc e c with
    | none => e
    | some c => leadTick log2 cyc cs k (tickFrom log2 (max e (refreshFrom c cyc + 580)))

/-- The entry cycle that a frame has for a launch's next segment from a cycle on, if any (R138, R235, R242, R297). -/
def entryIn (s : State) (n : Nat) (l : Launch) (g : Segment) (frame lo : Nat) : Option Nat :=
  let cs := g.chans.map fun x => getChan s x.1
  let e := leadTick l.tick s.cyc cs cs.length (tickFrom l.tick ((cs.map fun c => leadLow c s.cyc).foldl max lo))
  if frameGives s l g frame && chansFree s n l g && casksHold s l g && (s.locked || !hasColl l.image l.segs g) &&
      decide (e + g.cost ≤ gapOf s frame) then some e
  else none

/-- The virtual address of the first unmapped byte that the instruction stores of a launch's next segment need (R256). -/
def codeHole (s : State) (l : Launch) (g : Segment) : Option Nat :=
  ((List.range 4).filterMap fun q =>
    let (off, size) := imgCode l.image q
    let a := off + 4 * g.entries.getD q 0
    (readVa s l.world (recImage l.record + a) (min (4 * 8192) (off + size - a))).2.2).head?

/-- The state with a segment's programs that are not yet held loaded into the command memories of their channels (R125). -/
def loadPrograms (s : State) (n : Nat) (l : Launch) (g : Segment) : State :=
  g.chans.foldl (fun s e =>
    let c := getChan s e.1
    let k := chanFill c
    if (progBase c n e.2).isSome then s
    else setChan s e.1 { c with
      mem := c.mem ++ (chanProgram l e.2).zipIdx.map (fun w => (k + w.2, w.1)), progs := c.progs ++ [(n, e.2, k)] }) s

/-- The state with a placed segment's programs loaded, and the lead-ins of its channels begun (R125, R139). -/
def loadChannels (s : State) (n : Nat) (l : Launch) (g : Segment) (entry : Nat) : State :=
  g.chans.foldl (fun (s : State) e => setChan s e.1 { getChan s e.1 with leadIn := some entry }) (loadPrograms s n l g)

/-- The state with the programs of a launch's further segments loaded for the coming frame, as far as they fit: any of them may be placed
in it (R125, R235). -/
def loadFurther (frame n : Nat) (l : Launch) : State → List Segment → State
  | s, [] => s
  | s, g :: gs =>
    if progsFit s n l g && g.chans.all fun e => decide (unitWorld s frame (512 + e.1) = l.world) then
      loadFurther frame n l (loadPrograms s n l g) gs
    else s

/-- The state with the further segments' programs of a world's launches that hold cores loaded (R125). -/
def loadAhead (frame : Nat) (s : State) (n : Nat) : State :=
  let l := getLaunch s n
  loadFurther frame n l s (l.segs.drop (match l.phase with | .placed _ => l.seg + 1 | _ => l.seg))

/-- The image offset of parcel 0 of the word of a segment's streams that holds an image offset. -/
def wordOffset (img : List Byte) (g : Segment) (a : Nat) : Nat :=
  (((List.range 4).filterMap fun q =>
    let (off, size) := imgCode img q
    let e := g.entries.getD q 0
    if a < off + 4 * e ∨ off + size ≤ a then none
    else
      let ps := codeParcels img q
      ((wordsFrom ps.length e (ps.drop e)).filter fun w => decide (off + 4 * w.1 ≤ a)).getLast?.map fun w => off + 4 * w.1).head?).getD a

/-- The state with a launch ended because a page of its code is not mapped (R256): FIRST is the image address of parcel 0 of the word that
needs the page, FADDR the first byte not mapped. -/
def endByFetch (s : State) (n va : Nat) (img : List Byte) (g : Segment) : State :=
  let l := getLaunch s n
  let a := va - recImage l.record
  endByTrap s n l.seg ⟨0x03, s.cyc, managerIdx, 0, true, none, wordOffset img g a, a, [], 0⟩ false 0 0 []

/-- The state with a launch's next segment placed at an entry cycle: its image read again, its cores loaded, its energy debited
(R242, R256); or the launch ended where its code is not mapped. -/
def placeAt (s : State) (n entry : Nat) (g : Segment) : State :=
  let l := getLaunch s n
  let (s1, img, _) := readImage s l.world l.record
  match codeHole s1 l g with
  | some va => endByFetch s1 n va img g
  | none =>
    let l1 := { l with image := img, phase := .placed entry }
    let s2 := makeResident (setLaunch s1 n l1) n
    loadChannels (chargePlacement s2 (segmentDebits l1 g)) n l1 g entry

/-- The state with a launch's next segment placed in a frame from a cycle on, where the frame has a place for it; the flag says
whether it was placed or ended. -/
def tryPlace (s : State) (n frame lo : Nat) : State × Bool :=
  let l := getLaunch s n
  match l.segs[l.seg]? with
  | none => (s, false)
  | some g =>
    match entryIn s n l g frame lo with
    | none => (s, false)
    | some e => (placeAt s n e g, true)

/-- The numbers of a world's launches in the order of their records, then of their places in their lists. -/
def insertLaunch (s : State) (n : Nat) : List Nat → List Nat
  | [] => [n]
  | m :: ms => if (getLaunch s n).order < (getLaunch s m).order then n :: m :: ms else m :: insertLaunch s n ms

/-- A world's launches that satisfy a test, in order. -/
def worldLaunches (s : State) (world : Nat) (ok : Launch → Bool) : List Nat :=
  (s.launches.filter fun e => decide (e.2.world = world) && ok e.2).foldl (fun acc e => insertLaunch s e.1 acc) []

/-- The cores of a world in a frame that no unfinished launch of it holds. -/
def freeCores (s : State) (world frame : Nat) : List Nat :=
  let held := (s.launches.filter fun e => decide (e.2.world = world) && !launchEnded e.2).flatMap fun e => e.2.cores
  (worldCores s frame world).filter fun p => !held.contains p

/-- A list rotated by n places. -/
def rotateList {α : Type} (l : List α) (n : Nat) : List α := if l = [] then [] else l.drop (n % l.length) ++ l.take (n % l.length)

/-- The ring cores a launch's attachments ask for: logical index and core (R168). -/
def ringCores (s : State) (l : Launch) : List (Nat × Nat) :=
  (ringsOf l.record).filterMap fun a => (ringFlow s l.world a.1 a.2.1).map fun f => (a.2.2, f.core)

/-- The cores of logical indices under an assignment of dies: ring cores where they are asked for, the others in order. -/
def fillCores (rings : List (Nat × Nat)) : List Nat → List Nat → List Nat
  | [], _ => []
  | i :: is, pool =>
    match rings.find? (fun r => decide (r.1 = i)) with
    | some r => r.2 :: fillCores rings is pool
    | none => pool.headD 0 :: fillCores rings is (pool.drop 1)

/-- The mapping the package manager picks for a launch in a frame, by two free values (R30, R203, log 24). -/
def pickMapping (s : State) (l : Launch) (frame : Nat) : Option (List Nat) :=
  let free := freeCores s l.world frame
  let rings := ringCores s l
  let rowOk := fun d : Nat => !hasRowWords l.image || decide (unitWorld s frame (1024 + d) = l.world)
  let ms := (mappings l.lcount free rings).filter fun ds => ds.all rowOk
  match ms[Config.placeCore s.free % ms.length]? with
  | none => none
  | some ds =>
    some (ds.zipIdx.flatMap fun e =>
      fillCores rings (blockOf l.lcount e.2)
        (rotateList ((coresOnDie free e.1).filter fun p => !(rings.any fun r => decide (r.2 = p)))
          (Config.placeCore (s.free + 1))))

/-- The state with a new launch mapped and placed at a frame's start, where that frame has room (R240). -/
def placeNew (frame start : Nat) (s : State) (n : Nat) : State :=
  let l := getLaunch s n
  match pickMapping s l frame with
  | none => s
  | some cores =>
    let s1 := setLaunch { s with free := s.free + 2 } n { l with cores := cores }
    match tryPlace s1 n frame start with
    | (s2, true) => s2
    | (_, false) => s

/-- Whether a launch waits in its world's lists: admitted and not mapped yet (R240). -/
def inLists (l : Launch) : Bool := match l.phase with | .admitted => true | _ => false

/-- The state with a list's head, passed over in the frame, counted, and moved up after eight (R240). -/
def passOver (s : State) (n : Nat) : State :=
  let l := getLaunch s n
  if l.passed + 1 < 8 then setLaunch s n { l with passed := l.passed + 1 }
  else if l.prio = 3 then setLaunch s n { l with passed := 0 }
  else
    let (k, s1) := freshId s
    setLaunch s1 n { l with passed := 0, prio := l.prio + 1, order := k }

/-- The state with the heads of a world's lists counted as passed over, given the lists before the placements, by falling level. -/
def countPassed (s : State) (lists : List (List Nat)) : State :=
  let placed (n : Nat) : Bool := !inLists (getLaunch s n)
  (List.range lists.length).foldl (fun t k =>
    match lists.getD k [] with
    | n :: rest => if !placed n && (rest ++ (lists.drop (k + 1)).flatMap id).any placed then passOver t n else t
    | [] => t) s

/-- The state with a world's segments placed for a coming frame (R240). -/
def placeWorld (frame start : Nat) (s : State) (world : Nat) : State :=
  let s1 := (worldLaunches s world waitsHeld).foldl (fun s n => (tryPlace s n frame start).1) s
  let lists := [3, 2, 1, 0].map fun k => worldLaunches s1 world fun l => inLists l && decide (l.prio = k)
  let s2 := countPassed ((lists.flatMap id).foldl (placeNew frame start) s1) lists
  (worldLaunches s2 world fun l => !l.cores.isEmpty && !launchEnded l).foldl (loadAhead frame) s2

/-! ### Admission (R225 to R228, R292, R299) -/

/-- The latest launch of a world with a LID that was admitted, and ended if at all within the last 4,096 frames (reason 0x07). DESIGN CHOICE:
the 4,096 frames bound a launch that finished like one that a trap ended (R225, log 123). -/
def producerOf (s : State) (world lid : Nat) : Option Launch :=
  ((s.launches.filter fun e =>
    decide (e.2.world = world) && decide (recLid e.2.record = lid) &&
      match e.2.phase with
      | .fetched => false
      | .ended st => decide (st < 0x100 ∨ st = 0x201) && decide (frameOf s s.cyc ≤ e.2.endFrame + 4096)
      | _ => true).map (·.2)).getLast?

/-- Whether another unfinished launch of the world, fetched earlier or admitted already, holds the LID. -/
def lidInUse (s : State) (n : Nat) : Bool :=
  let l := getLaunch s n
  s.launches.any fun e => decide (e.1 ≠ n) && decide (e.2.world = l.world) && !launchEnded e.2 &&
    decide (recLid e.2.record = recLid l.record) && (decide (e.1 < n) || decide (e.2.phase ≠ .fetched))

/-- The state with a launch admitted (R226): its context fixed, its image measured (R292), its enrolment announced (R299). -/
def admitLaunch (a : Admission) (n : Nat) : State :=
  let (order, s) := freshId a.state
  let l := getLaunch s n
  let r := l.record
  let (s1, count, _) := if recIndv r then readVa s l.world (recIcnt r / 8 * 8) 8 else (s, [], none)
  let lw := recLwords r
  let lwords := if recIndv r then lw.take 15 ++ [BitVec.ofNat 64 (leNat count)] else lw
  let bytes := a.image.take (imgSize a.image)
  let s2 := updWorld s1 l.world fun w =>
    { w with imageLog := BitVec.ofNat 256 (beNat (sha256 (beBytes 32 w.imageLog.toNat ++ sha256 bytes))) }
  let s3 := setLaunch s2 n { l with
    phase := .admitted, order := order, prio := recPrio r, image := a.image, segs := imgSegments a.image, tick := imgTick a.image,
    lcount := recLcount r, lwords := lwords, squares := a.squares, haz := recHaz r, wset := a.wset, admitCyc := s.cyc,
    dgroup := recDgrp r }
  if recIndv r && decide (leNat count = 0) then completeLaunch s3 n 0 0 s.cyc
  else if (recDgrp r).1 = 0 then s3
  else
    let me := s3.domain.getD 0
    let s4 := enrol s3 l.world (recDgrp r).1 (recDgrp r).2 (me, l.world, n)
    settleColls (reply s4 0x15 l.world (leBytes 2 (recDgrp r).1 ++ leBytes 2 (recDgrp r).2 ++ leBytes 2 me))

/-- Whether a launch ended otherwise than by its final SEGEND (R227). -/
def abnormalEnd (l : Launch) : Bool := match l.phase with | .ended st => decide (st ≠ 0) | _ => false

/-- The state with a fetched launch admitted, refused, or left to wait for its producer (R225 to R228). DESIGN CHOICE: the checks of Table 9.3
come before the producer's fate, so that a consumer that fails both ends with a refusal and not with 0x0207 (R227, log 105). -/
def admission (s : State) (n : Nat) : State :=
  let l := getLaunch s n
  let r := l.record
  let prod := if recProdv r then producerOf s l.world (recProd r) else none
  let ready := match prod with | some p => launchEnded p | none => true
  if !ready then s
  else
    let a := admissionReads s l.world r
    match refusal a l.world r (lidInUse s n) prod.isSome with
    | some k => completeLaunch a.state n (0x100 + k) 0 s.cyc
    | none =>
      if prod.any abnormalEnd then completeLaunch a.state n 0x207 0 s.cyc else admitLaunch a n

/-! ### The host's tables taken in (R168, R288, R296, R304) -/

/-- An entry with RCORE and VALID written by the package manager. -/
def flowWith (e : List Byte) (core : Nat) (valid : Bool) : List Byte :=
  let ctl := flowCtl e / 2 * 2 + (if valid then 1 else 0)
  let ring := leField e 8 8 / 2 ^ 9 * 2 ^ 9 + core % 2 ^ 9
  leBytes 1 ctl ++ sliceBytes e 1 7 ++ leBytes 8 ring ++ sliceBytes e 16 16

/-- The cores that a world can hold in every frame as ring cores: its own or world 0's in each entry, no flow's yet (R304, log 24). -/
def ringCandidates (s : State) (world : Nat) : List Nat :=
  (List.range 512).filter fun p =>
    (ringOwner s p).isNone && (List.range 32).all fun e => decide (comingWorld s e p = world) || decide (comingWorld s e p = 0)

/-- Whether an entry's own fields allow its acceptance (R304, R168). -/
def flowFieldsOk (s : State) (world : Nat) (e : List Byte) : Bool :=
  let k := getKey s (flowKslot e)
  decide (k.world = some world) && (k.key.any fun x => decide (x.1 = 32)) &&
    decide (flowRbase e + 2 * flowRcap e * flowRb e + 64 ≤ 2 ^ 21) && decide (12 ≤ flowRingLog2 e) && decide (flowRingLog2 e ≤ 20) &&
    decide (1 ≤ flowRcap e) && decide (flowRcap e ≤ 4096) && decide (64 ≤ flowRb e) && decide (flowRb e ≤ 4096) &&
    decide (bitsOf (flowCtl e) 3 2 ≠ 3)

/-- The state with flow f of a world's window taken in (R304): accepted with a designated ring core, which is the world's in every frame
from then on (R168), refused, or removed. DESIGN CHOICE: bin 0 fills first (log 119). -/
def takeFlow (world : Nat) (s : State) (f : Nat) : State :=
  let w := getWorld s world
  let e := memRead w.flowWindow (32 * f) 32
  let old := w.flows.find? fun x => decide (x.1 = f)
  let put (e : List Byte) (v : Option NetFlow) (s : State) : State :=
    updWorld s world fun w => { w with
      flowWindow := memWrite w.flowWindow (32 * f) e,
      flows := match v with
        | some n => mapPut w.flows f n
        | none => w.flows.filter fun x => decide (x.1 ≠ f) }
  let same := old.any fun x => decide (flowWith x.2.entry 0 true = flowWith e 0 true)
  if flowCtl e % 2 = 0 then (if old.isSome then put e none s else s)
  else if same then s
  else
    let cs := ringCandidates s world
    match cs[Config.placeCore s.free % cs.length]? with
    | none => put (flowWith e 0 false) none s
    | some p =>
      if !flowFieldsOk s world e then put (flowWith e 0 false) none s
      else
        let e1 := flowWith e p true
        put e1 (some ⟨e1, true, p, 0, 0, 0, none, 0, 0, 0, [], false, false, s.cyc + 1, [], none, []⟩) (freshFree s).2

/-- The flow numbers a world's window or table lists. -/
def listedFlows (w : World) : List Nat :=
  ((w.flowWindow.map fun (e : Host.Cell) => e.1 / 32) ++ w.flows.map fun (e : Nat × NetFlow) => e.1).dedup

/-- The state with the units of newly enabled worlds to be rewritten in every entry of the frame table (R238, R277). -/
def takeUnits (s : State) : State :=
  s.worlds.foldl (fun (s : State) (e : Nat × World) =>
    let w := getWorld s e.1
    setWorld { s with
      rewrites := (s.rewrites.filter fun r => !w.units.contains r.1) ++ w.units.map fun u => (u, e.1, List.range 32) } e.1
      { w with units := [] }) s

/-- The state with the coming frame's entry of the frame table rewritten, the only one that this edge gap may rewrite (R238). -/
def rewriteEntry (s : State) (frame : Nat) : State :=
  let e := frame % 32
  { s with
    frameTable := s.rewrites.foldl (fun m r =>
      if r.2.2.contains e then smSet 0 m (e * 2048 + r.1) (BitVec.ofNat 8 r.2.1) else m) s.frameTable
    rewrites := (s.rewrites.map fun r => (r.1, r.2.1, r.2.2.filter fun k => decide (k ≠ e))).filter fun r => !r.2.2.isEmpty }

/-- The state with the tables and keys that take effect at the start of an edge gap taken in (R238, R288, R296, R304). -/
def takeTables (s0 : State) : State :=
  let s := rewriteEntry (takeUnits s0) (frameOf s0 s0.cyc + 1)
  let s1 := s.keys.foldl (fun (s : State) (e : Nat × KeySlot) =>
      match (getKey s e.1).pending with
      | some k => setKey s e.1 { getKey s e.1 with key := some k, empty := true, last := 0, pending := none, log := [] }
      | none => s) s
  let s2 := s1.worlds.foldl (fun (s : State) (e : Nat × World) => updWorld s e.1 fun w => { w with
      sealKey := match w.sealPending with | some k => some k | none => w.sealKey, sealPending := none,
      domain := w.domainNext }) s1
  s2.worlds.foldl (fun (s : State) (e : Nat × World) => (listedFlows e.2).foldl (takeFlow e.1) s) s2

/-- The state with corrected lines written back where the stored line is still the one that was corrected (R112). -/
def writeBack (s : State) : State :=
  s.fixes.foldl (fun s f =>
    let x := readLine s f.1 s.cyc
    if (List.range 576).any (fun i => decide (flipLine x.line i = f.2)) then writeLine s f.1 f.2 else s) { s with fixes := [] }

/-! ### EDGE_GAP and FRAME_START -/

/-- Whether the package's DTIME is set by its link in edge gaps: it belongs to a domain and is not its source (R16, R297). -/
def dtimeFollows (s : State) : Bool := s.domain.isSome && !s.source

/-- Whether frames run (Table 12.5). -/
def framesRun (s : State) : Bool := decide (s.boot = .running) && !s.off

/-- Whether the first or the second part of an edge gap is due: `gapDone` is one more than the cycle of the last part performed. -/
def edgePart (s : State) : Option Bool :=
  let g := gapStart s
  if !framesRun s || decide (s.cyc < g) then none
  else if s.gapDone ≤ g then some false
  else if g + 320 ≤ s.cyc ∧ s.gapDone ≤ g + 320 then some true
  else none

/-- The state with the package's offset from the time source measured, once a frame, for the coming frame's placements: within 12 cycles
it is locked (R297, log 26). -/
def measureLock (s : State) : State :=
  if dtimeFollows s then
    { (freshFree s).2 with locked := decide (-12 ≤ Config.linkOffset s.free) && decide (Config.linkOffset s.free ≤ 12) }
  else { s with locked := true }

/-- The cores that something has touched, ring cores among them. -/
def edgeCores (s : State) : List Nat :=
  (s.cores.map (·.1) ++ s.worlds.flatMap fun (e : Nat × World) => e.2.flows.map fun f => f.2.core).dedup

/-- EDGE_GAP (R239, Table 9.7): at G corrections are written back, the coming entry of the frame table rewritten, keys, domain tables and
flows taken in, DTIME corrected, launches admitted; at G + 320 cores sealed and zeroed, command memories cleared, the lock measured,
segments placed for the coming frame and their programs loaded, and the islands gated that it gives to no launch. -/
def execEdgeGap (s : State) : Out :=
  match edgePart s with
  | none => .next s
  | some false =>
    let s1 := takeTables (writeBack { s with gapDone := gapStart s + 1 })
    let s2 := if dtimeFollows s1 then { (freshFree s1).2 with dtime := s1.dtime + Config.dtimeAdvance s1.free } else s1
    let waiting := s2.worlds.flatMap fun e =>
      worldLaunches s2 e.1 fun l => match l.phase with | .fetched => true | _ => false
    .next (waiting.foldl admission (dissolveFar s2))
  | some true =>
    let next := frameOf s s.cyc + 1
    let s0 : State := { s with gapDone := gapStart s + 321 }
    let s1 := s0.keys.foldl (fun (s : State) (e : Nat × KeySlot) => setKey s e.1 { getKey s e.1 with log := [] })
      (s0.chans.foldl (fun (s : State) (e : Nat × Channel) => setChan s e.1 { getChan s e.1 with mem := [], progs := [] }) s0)
    let s2 := measureLock ((edgeCores s1).foldl (edgeCore next) s1)
    let s3 := (s2.worlds.map (·.1)).foldl (placeWorld next (next * 2 ^ s2.frameLog2)) s2
    .next ((s3.cores.map (·.1)).foldl gateCore s3)

/-- Whether a frame starts in the cycle and has not been begun (R237, Table 12.5 step 6). -/
def frameStartDue (s : State) : Bool :=
  decide (0 < s.cyc) && decide (s.cyc % 2 ^ s.frameLog2 = 0) && decide (s.frameDone ≤ s.cyc) && !s.off &&
    (match s.boot with | .running => true | .step n => decide (5 ≤ n) | _ => false)

/-- FRAME_START (R241, R242, R309, R311, R314): casks are refilled, what the placed segments cost is debited, and the first frame start
begins step 6 of the boot. -/
def execFrameStart (s : State) : Out :=
  if !frameStartDue s then .next s
  else
    let t := nextThrottle s
    let s1 := { s with
      boot := .running, frameDone := s.cyc + 1, throttle := t, cool := decide (s.hottest < 90), reached := false, owed := [],
      casks := refillCasks s t }
    .next (s.owed.foldl (fun s d => debitCask s d.1 d.2) s1)

end Sys2Proof.Machine
end

