-- ==== Sys2Proof/Machine/Trellis.lean ====
section
/-!
DEFINITION. The trellis: the pattern words, the run of a pattern program, and the enumeration an MMAP takes from it (R191 to
R198, R408, R456).
-/

namespace Sys2Proof.Machine

open Sys2Proof

/-- A g register. -/
def getG (t : Trellis) (g : Nat) : GReg := smGet GReg.zero t.g g

/-- A trellis with a g register replaced. -/
def setG (t : Trellis) (g : Nat) (v : GReg) : Trellis := { t with g := smSet GReg.zero t.g g v }

/-- A trellis whose program has met a fault: its later words do nothing (R196). -/
def patFault (t : Trellis) (cause : Nat) : Trellis := { t with run := { t.run with cause := some cause } }

/-- A pattern word's effect where its conditions hold, and fault 0x62 where they do not. -/
def patNeed (b : Bool) (t next : Trellis) : Trellis := if b then next else patFault t 0x62

/-- PDIM (R192, R408). -/
def patPdim (g : Nat) (pr pc order : Nat) (t : Trellis) : Trellis :=
  patNeed (decide (pr ≤ 11) && decide (pc ≤ 11)) t (setG t g ⟨some (2 ^ pr, 2 ^ pc), order, 1, 0, none⟩)

/-- The columns of row r under PBAND: ⌊r·PC/PR⌋ + off + d·t, wrapped or cut at PC (R192). -/
def bandRow (pr pc step off w : Nat) (wrap : Bool) (r : Nat) : List Nat :=
  let cols := (List.range w).map fun t => r * pc / pr + off + step * t
  if wrap then cols.map (· % pc) else cols.filter fun c => decide (c < pc)

/-- Whether a list holds no number twice. -/
def noRepeats : List Nat → Bool
  | [] => true
  | x :: xs => !xs.contains x && noRepeats xs

/-- The constructors of a pattern: on a g register with dimensions, and conditions and rows given by them (R192, R408). DESIGN CHOICE:
dimensions that only a PKRON has given count as given (Table 7.9, R193, R456, log 113). -/
def patBuild (g : Nat) (ok : Nat → Nat → Bool) (rows : GReg → Nat → Nat → Option (List (List Nat))) (t : Trellis) :
    Trellis :=
  let r := getG t g
  match r.dims with
  | none => patFault t 0x62
  | some (pr, pc) =>
    if ok pr pc then
      match rows r pr pc with
      | some p => setG t g { r with pat := some p }
      | none => patFault t 0x62
    else patFault t 0x62

/-- PBAND (R192): a duplicate column within one row faults (Table 7.9). -/
def patPband (g w : Nat) (wrap : Bool) (t : Trellis) : Trellis :=
  patBuild g (fun _ pc => decide (1 ≤ w) && decide (w ≤ pc)) (fun r pr pc =>
    let rows := (List.range pr).map (bandRow pr pc r.step r.off w wrap)
    if rows.all noRepeats then some rows else none) t

/-- PDIL (R192, R408): the offset is bounded by PC where the register has dimensions (DEDUCED, log 32). -/
def patPdil (g off d : Nat) (t : Trellis) : Trellis :=
  let r := getG t g
  patNeed (decide (1 ≤ d) && r.dims.all fun p => decide (off < p.2)) t (setG t g { r with step := d, off := off })

/-- PBLK (R192): (r, c) nonzero iff the blocks agree. -/
def patPblk (g b : Nat) (t : Trellis) : Trellis :=
  patBuild g (fun pr pc => decide (1 ≤ b) && decide (pr % b = 0) && decide (b * pc % pr = 0)) (fun _ pr pc =>
    let bw := b * pc / pr
    some ((List.range pr).map fun r => (List.range bw).map fun i => r / b * bw + i)) t

/-- A row in ascending order of column, or as generated (R195). -/
def orderRow (order : Nat) (r : List Nat) : List Nat :=
  if order = 0 then r.foldl (fun acc c => acc.filter (· < c) ++ [c] ++ acc.filter (c < ·)) [] else r

/-- A register's rows in its order. -/
def enumRows (g : GReg) : List (List Nat) := (g.pat.getD []).map (orderRow g.order)

/-- PKRON (R193, R195): dimensions above 2,048 raise 0x61. -/
def patPkron (g a b : Nat) (t : Trellis) : Trellis :=
  let ga := getG t a
  let gb := getG t b
  match ga.pat, gb.pat, ga.dims, gb.dims with
  | some _, some _, some (pra, pca), some (prb, pcb) =>
    if 2048 < pra * prb ∨ 2048 < pca * pcb then patFault t 0x61
    else
      let rows := (enumRows ga).flatMap fun ra => (enumRows gb).map fun rb =>
        ra.flatMap fun ca => rb.map fun cb => ca * pcb + cb
      setG t g { getG t g with dims := some (pra * prb, pca * pcb), order := ga.order, pat := some rows }
  | _, _, _, _ => patFault t 0x62

/-- The candidate u of row r (R194). -/
def hashCand (seed r u pc : Nat) : Nat :=
  let v0 : Word32 := BitVec.ofNat 32 (seed * 2 ^ 24 + r * 2 ^ 12 + u)
  let v1 := v0 ^^^ (v0 >>> 13)
  let v2 := v1 * 0x5BD1E995#32
  (v2 ^^^ (v2 >>> 15)).toNat % pc

/-- Row r's columns, from candidate u on: the accepted ones so far last first, n candidates left (R194). -/
def hashRow (seed r pc h : Nat) : Nat → Nat → List Nat → Option (List Nat)
  | 0, _, acc => if acc.length = h then some acc.reverse else none
  | n + 1, u, acc =>
    if acc.length = h then some acc.reverse
    else
      let c := hashCand seed r u pc
      hashRow seed r pc h n (u + 1) (if acc.contains c then acc else c :: acc)

/-- Every row of a PHASH, or none where one cannot be filled. -/
def hashRows (seed pc h : Nat) : List Nat → Option (List (List Nat))
  | [] => some []
  | r :: rs =>
    match hashRow seed r pc h (4 * pc) 0 [], hashRows seed pc h rs with
    | some x, some xs => some (x :: xs)
    | _, _ => none

/-- PHASH (R194). -/
def patPhash (g h seed : Nat) (t : Trellis) : Trellis :=
  patBuild g (fun _ pc => decide (1 ≤ h) && decide (h ≤ pc)) (fun _ pr pc => hashRows seed pc h (List.range pr)) t

/-- PEMIT (R195, Table 7.9). -/
def patPemit (g r : Nat) (t : Trellis) : Trellis :=
  let x := getG t g
  patNeed (decide (1 ≤ r) && decide (r ≤ 512) && x.pat.isSome && (enumRows x).all fun row => decide (row.length ≤ r)) t
    { t with run := { t.run with emitted := some (g, r), rows := enumRows x, dims := x.dims.getD (0, 0), inv := none } }

/-- The transposed enumeration: for each column, its rows in ascending order with their value indices (R195). -/
def transposeRows (rows : List (List Nat)) (pc r : Nat) : List (List (Nat × Nat)) :=
  let entries : List (Nat × Nat × Nat) :=
    rows.zipIdx.flatMap fun row => row.1.zipIdx.map fun c => (c.1, row.2, row.2 * r + c.2)
  (List.range pc).map fun c => entries.filterMap fun e => if e.1 = c then some e.2 else none

/-- PINV (R195, R408): unequal column counts raise 0x60. -/
def patPinv (g : Nat) (t : Trellis) : Trellis :=
  match t.run.emitted with
  | none => patFault t 0x62
  | some (n, r) =>
    if n ≠ g then patFault t 0x62
    else
      let inv := transposeRows t.run.rows t.run.dims.2 r
      if inv.all fun c => decide (c.length = (inv.headD []).length) then { t with run := { t.run with inv := some inv } }
      else patFault t 0x60

/-- PEND (R408, Table 7.9). -/
def patPend (g : Nat) (t : Trellis) : Trellis :=
  patNeed (decide (g = 0) && t.run.emitted.isSome) t { t with run := { t.run with ended := true } }

/-- The state with the turn's trellis changed by a pattern word; a program that has faulted or ended does nothing more. -/
def patHere (f : Trellis → Trellis) (s : State) : Out :=
  .next (updCore s s.turn.core fun c =>
    { c with regs := { c.regs with trellis :=
      (if c.regs.trellis.run.ended || c.regs.trellis.run.cause.isSome then c.regs.trellis else f c.regs.trellis) } })

/-- PDIM (R408). -/
def execPdim (g : BitVec 3) (pr pc : BitVec 4) (order : BitVec 1) (s : State) : Out :=
  patHere (patPdim g.toNat pr.toNat pc.toNat order.toNat) s
/-- PBAND (R192). -/
def execPband (g : BitVec 3) (w : BitVec 11) (wrap : BitVec 1) (s : State) : Out :=
  patHere (patPband g.toNat w.toNat (wrap = 1)) s
/-- PDIL (R408). -/
def execPdil (g : BitVec 3) (off : BitVec 11) (d : BitVec 6) (s : State) : Out :=
  patHere (patPdil g.toNat off.toNat d.toNat) s
/-- PBLK (R192). -/
def execPblk (g : BitVec 3) (b : BitVec 11) (s : State) : Out := patHere (patPblk g.toNat b.toNat) s
/-- PKRON (R193). -/
def execPkron (g a b : BitVec 3) (s : State) : Out := patHere (patPkron g.toNat a.toNat b.toNat) s
/-- PHASH (R194). -/
def execPhash (g : BitVec 3) (h : BitVec 11) (seed : BitVec 6) (s : State) : Out :=
  patHere (patPhash g.toNat h.toNat seed.toNat) s
/-- PEMIT (R195). -/
def execPemit (g : BitVec 3) (r : BitVec 10) (s : State) : Out := patHere (patPemit g.toNat r.toNat) s
/-- PINV (R195). -/
def execPinv (g : BitVec 3) (s : State) : Out := patHere (patPinv g.toNat) s
/-- PEND (R408). -/
def execPend (g : BitVec 3) (s : State) : Out := patHere (patPend g.toNat) s

/-! ### Running a program (R197) -/

/-- One word of a program: a word that is no pattern word faults with 0x62 (Table 7.9). -/
def patWord (w : Word32) (t : Trellis) : Trellis :=
  match decodePattern w with
  | .ok (.pdim g pr pc o) => patPdim g.toNat pr.toNat pc.toNat o.toNat t
  | .ok (.pband g w x) => patPband g.toNat w.toNat (x = 1) t
  | .ok (.pdil g off d) => patPdil g.toNat off.toNat d.toNat t
  | .ok (.pblk g b) => patPblk g.toNat b.toNat t
  | .ok (.pkron g a b) => patPkron g.toNat a.toNat b.toNat t
  | .ok (.phash g h x) => patPhash g.toNat h.toNat x.toNat t
  | .ok (.pemit g r) => patPemit g.toNat r.toNat t
  | .ok (.pinv g) => patPinv g.toNat t
  | .ok (.pend g) => patPend g.toNat t
  | _ => patFault t 0x62

/-- The words of a program from a place on, at most n of them; a program without PEND faults (Table 7.9). -/
def patRun : Nat → Nat → Trellis → Trellis
  | 0, _, t => if t.run.ended || t.run.cause.isSome then t else patFault t 0x62
  | n + 1, k, t => if t.run.ended || t.run.cause.isSome then t else patRun n (k + 1) (patWord (smGet 0 t.mem k) t)

/-- The trellis as an MMAP with program p and direction pt finds it (R197): the program runs where either differs from the
current ones. -/
def selectPat (p : Nat) (pt : Bool) (t : Trellis) : Trellis :=
  if t.cur = some p ∧ t.pt = pt then t
  else
    let t1 : Trellis := { t with cur := some p, pt := pt, pos := 0, run := PatRun.zero }
    match t.table[p]? with
    | none => patFault t1 0x62
    | some (first, count) =>
      if count = 0 then patFault t1 0x62
      else
        let t2 := patRun 256 first t1
        if pt && t2.run.cause.isNone && t2.run.inv.isNone then patFault t2 0x62 else t2

/-- Enumeration rows of the current direction. -/
def patRows (t : Trellis) : Nat := if t.pt then t.run.dims.2 else t.run.dims.1

/-- KP: the B rows an MMAP reaches. -/
def patKp (t : Trellis) : Nat := if t.pt then t.run.dims.1 else t.run.dims.2

/-- Slots: R, or the common column count C. -/
def patSlots (t : Trellis) : Nat :=
  if t.pt then ((t.run.inv.getD []).headD []).length else (t.run.emitted.map (·.2)).getD 0

/-- NB for operands of K rows: 1 where the run faulted or the quotient is not 1, 2 or 4 (R198). -/
def patNb (t : Trellis) (k : Nat) : Nat :=
  let q := patKp t / k
  if t.run.cause.isNone && decide (patKp t % k = 0) && (q = 1 || q = 2 || q = 4) then q else 1

/-- Output row i's entries in slot order: A's value index and B's row (R198). -/
def patEntries (t : Trellis) (i : Nat) : List (Nat × Nat) :=
  let e := 128 * t.pos + i
  if t.pt then ((t.run.inv.getD []).getD e []).map fun p => (p.2, p.1)
  else
    let r := (t.run.emitted.map (·.2)).getD 0
    (t.run.rows.getD e []).zipIdx.map fun p => (i * r + p.2, p.1)

/-- The shape checks of Table 7.10, `fmt` the format code, `buffer` B's first buffer where BSRC = 0. -/
def patShapeOk (t : Trellis) (k fmt : Nat) (buffer : Option Nat) : Bool :=
  let q := patKp t / k
  decide (0 < patRows t) && decide (patRows t % 128 = 0) && decide (patKp t % k = 0) && (q = 1 || q = 2 || q = 4) &&
    decide (patSlots t ≤ k) && buffer.all (fun b => decide (b + q ≤ 4)) &&
    (!t.pt || (decide (t.run.dims.1 * (t.run.emitted.map (·.2)).getD 0 ≤ 128 * k) && (fmt = 0 || fmt = 1 || fmt = 6)))

/-- POS after a completed step (R198). -/
def advancePos (t : Trellis) : Trellis :=
  let n := patRows t / 128
  { t with pos := if n = 0 then 0 else (t.pos + 1) % n }

end Sys2Proof.Machine
end

