-- ==== Sys2Proof/Machine/Tiles.lean ====
section
/-!
DEFINITION. The arithmetic of a tile step: formats, operand and scale layouts, and the new value of a tile (R84, R91 to R94,
R171 to R176, R195, R198, R395, R396).
-/

namespace Sys2Proof.Machine

open Sys2Proof

/-! ### Fields of a matrix word (Table 10.9) -/

/-- AFMT. -/
def mwAfmt (w : MatWord) : Nat := (w.p1.extractLsb' 0 4).toNat
/-- BFMT as the word holds it. -/
def mwBfmtRaw (w : MatWord) : Nat := (w.p1.extractLsb' 4 4).toNat
/-- MODE: late. -/
def mwLate (w : MatWord) : Bool := w.p1.getLsbD 8
/-- ZERO: overwrite. -/
def mwZero (w : MatWord) : Bool := w.p1.getLsbD 9
/-- TA. -/
def mwTa (w : MatWord) : Bool := w.p1.getLsbD 10
/-- TB. -/
def mwTb (w : MatWord) : Bool := w.p1.getLsbD 11
/-- PAT. -/
def mwPat (w : MatWord) : Nat := (w.p1.extractLsb' 12 3).toNat
/-- PT. -/
def mwPt (w : MatWord) : Bool := w.p1.getLsbD 15
/-- SCALESEL. -/
def mwSsel (w : MatWord) : Nat := (w.p1.extractLsb' 16 5).toNat
/-- The row stride in bytes; 0 means the row length. -/
def mwStride (w : MatWord) : Nat := 64 * (w.p3.extractLsb' 0 16).toNat
/-- The scale offset in bytes. -/
def mwSoff (w : MatWord) : Nat := 64 * (w.p3.extractLsb' 16 16).toNat

/-- The class of a format code (R172). -/
def fmtClass (f : Nat) : Nat := if f < 2 then 0 else if f < 4 then 1 else if f < 6 then 2 else 3

/-- BFMT as the engine reads it: AFMT where the classes differ (R172). -/
def mwBfmt (w : MatWord) : Nat := if fmtClass (mwBfmtRaw w) = fmtClass (mwAfmt w) then (mwBfmtRaw w) else (mwAfmt w)

/-- K of a format (Table 7.1). -/
def fmtK (f : Nat) : Nat := if f < 2 then 128 else if f < 4 then 256 else if f < 6 then 512 else 256

/-- Bits of an element (Table 7.1). -/
def fmtBits (f : Nat) : Nat := if f < 2 then 16 else if f < 4 then 8 else if f < 6 then 4 else 8

/-- Whether a format has block scales (Table 7.1). -/
def fmtScaled (f : Nat) : Bool := decide (2 ≤ f) && decide (f < 6)

/-- Bytes of a scale entry: a block word for E2M1X (R81, R176). -/
def scaleBytes (f : Nat) : Nat := if f = 5 then 2 else 1

/-- Bytes of one operand's scale array (R176). -/
def scaleArray (f : Nat) : Nat := 128 * (fmtK f / 32) * scaleBytes f

/-- Stored rows and row bytes of an operand (Table 7.2): `long` where a row holds K elements. -/
def rowLayout (long : Bool) (f : Nat) : Nat × Nat := if long then (128, 256) else (fmtK f, 16 * fmtBits f)

/-! ### Elements -/

/-- Element i of a packed array (R84). -/
def elemCode (bits : Nat) (d : Array Nat) (i : Nat) : Nat :=
  if bits = 16 then d.getD (2 * i) 0 + 256 * d.getD (2 * i + 1) 0
  else if bits = 8 then d.getD i 0
  else if i % 2 = 0 then d.getD (i / 2) 0 % 16 else d.getD (i / 2) 0 / 16

/-- Scale entry i: a byte, or a block word (R80, R81). -/
def scaleEntry (f : Nat) (d : Array Nat) (i : Nat) : Nat :=
  if f = 5 then d.getD (2 * i) 0 + 256 * d.getD (2 * i + 1) 0 else d.getD i 0

/-- The exact value of a code under its scale (R80, R81, R90); INT8 as its integer. -/
def elemVal (f scale code : Nat) : FVal :=
  match f with
  | 0 => decodeF bf16 code
  | 1 => decodeF fp16 code
  | 2 => decodeMx e4m3 scale code
  | 3 => decodeMx e5m2 scale code
  | 4 => decodeMx e2m1 scale code
  | 5 => decodeE2M1X code scale
  | _ => intF (signed 8 code)

/-- Operand images of 32 KiB with their scale arrays. -/
structure OperandImages where
  data : Array (Array Nat)
  scale : Array (Array Nat)

/-- Bytes cut into images of n bytes. -/
def imagesOf (n count : Nat) (bs : List Byte) : Array (Array Nat) :=
  ((chunkBytes n count bs).map fun c => (natsOf c).toArray).toArray

/-- Output row i's terms: position, A's element index and B's row; MMA takes K consecutive ones (R195, R198). -/
def rowTerms (w : MatWord) (t : Option Trellis) (i : Nat) : List (Nat × Nat × Nat) :=
  let k := fmtK (mwAfmt w)
  match t with
  | none => (List.range k).map fun q => (q, if (mwTa w) then q * 128 + i else i * k + q, q)
  | some tr => (patEntries tr i).zipIdx.map fun e => (e.2, e.1.1, e.1.2)

/-- A's decoded terms of output row i: position, value and B's row (R173, R176). -/
def aTerms (w : MatWord) (t : Option Trellis) (a : OperandImages) (i : Nat) : List (Nat × FVal × Nat) :=
  let f := (mwAfmt w)
  let d := a.data.getD 0 #[]
  let sc := a.scale.getD 0 #[]
  (rowTerms w t i).map fun e =>
    (e.1, elemVal f (scaleEntry f sc (i * (fmtK f / 32) + e.1 / 32)) (elemCode (fmtBits f) d e.2.1), e.2.2)

/-- B's decoded row c: row c mod K of operand ⌊c/K⌋ (R173, R176, R198). -/
def bRow (w : MatWord) (b : OperandImages) (c : Nat) : Array FVal :=
  let f := (mwBfmt w)
  let k := fmtK f
  let d := b.data.getD (c / k) #[]
  let sc := b.scale.getD (c / k) #[]
  let r := c % k
  ((List.range 128).map fun j =>
    elemVal f (scaleEntry f sc (r / 32 * 128 + j))
      (elemCode (fmtBits f) d (if (mwTb w) then j * k + r else r * 128 + j))).toArray

/-- The products of one element put into their groups of 32 positions (R91). -/
def groupTerms (g : Nat) (ps : List (Nat × FVal)) : List (List FVal) :=
  (List.range g).map fun n => ps.filterMap fun p => if p.1 / 32 = n then some p.2 else none

/-- The sum of INT8 products. -/
def intSum (ps : List (Nat × FVal)) : Int :=
  ps.foldl (fun acc p => match p.2 with | .fin n m e => acc + scaledTo n m e 0 | _ => acc) 0

/-- One element of a tile step, and whether an INT8 sum left the INT32 range (R92 to R94). -/
def tileElem (w : MatWord) (ps : List (Nat × FVal)) (c : Word32) : Word32 × Bool :=
  if (mwAfmt w) = 6 then
    let v := intSum ps + (if (mwZero w) then 0 else c.toInt)
    (BitVec.ofInt 32 v, decide (v < -(2 ^ 31)) || decide (2 ^ 31 ≤ v))
  else
    let acc := if (mwZero w) then none else some (dec32 c)
    let gs := groupTerms (fmtK (mwAfmt w) / 32) ps
    (rne32 (if (mwLate w) then lateSum acc gs else fusedSum acc gs), false)

/-- The new tile of a step and whether warn(IOVF) is raised (R395, R396): `t` is the trellis of an MMAP. -/
def tileStep (w : MatWord) (t : Option Trellis) (a b : OperandImages) (nb : Nat) (old : SMap Word32) :
    SMap Word32 × Bool :=
  let brows : Array (Array FVal) := ((List.range (nb * fmtK (mwBfmt w))).map (bRow w b)).toArray
  let rows := (List.range 128).map fun i =>
    let ts := aTerms w t a i
    let oldRow := ((old.filter fun e => decide (128 * i ≤ e.1) && decide (e.1 < 128 * (i + 1))))
    (List.range 128).map fun j =>
      tileElem w (ts.map fun x => (x.1, mulF x.2.1 ((brows.getD x.2.2 #[]).getD j (.fin false 0 0))))
        (smGet 0 oldRow (128 * i + j))
  let all := rows.flatten.zipIdx
  (all.filterMap fun e => if e.1.1 = 0 then none else some (e.2, e.1.1), all.any fun e => e.1.2)

/-! ### Tiles -/

/-- A tile's words. -/
def getTile (c : Core) (t : Nat) : SMap Word32 := smGet [] c.tiles t

/-- A core with a tile replaced; its retirement image is no longer that of its last write (R181). -/
def setTile (c : Core) (t : Nat) (v : SMap Word32) : Core :=
  { c with tiles := smSet [] c.tiles t v, retireFresh := smSet false c.retireFresh t false }

/-- Row q of a tile (R431). -/
def tileRow (v : SMap Word32) (q : Nat) : Lanes :=
  let row := v.filter fun e => decide (128 * q ≤ e.1) && decide (e.1 < 128 * (q + 1))
  packLanes (tabulate fun j => smGet 0 row (128 * q + j))

/-- A tile with the active words of a row replaced (R431). -/
def setTileRow (v : SMap Word32) (q : Nat) (active : BitVec 128) (l : Lanes) : SMap Word32 :=
  let row := mergeLanes active l (tileRow v q)
  (v.filter fun e => decide (e.1 < 128 * q)) ++
    (row.zipIdx.filterMap fun e => if e.1 = 0 then none else some (128 * q + e.2, e.1)) ++
    (v.filter fun e => decide (128 * (q + 1) ≤ e.1))

/-- Whether the engine still holds a tile step that writes a tile. -/
def stepPending (c : Core) (t : Nat) : Bool := c.matQ.any fun m => decide (m.op ≤ 2) && decide (m.w.acc.toNat = t)

/-- Whether every tile step writing a tile has ended its 16-cycle drain (Table 2.1, R52). -/
def tileDrained (c : Core) (t cyc : Nat) : Bool := !stepPending c t && decide (smGet 0 c.drain t ≤ cyc)

/-- Whether, besides, every earlier TWR and TZERO on a tile has taken effect (R429, R431). -/
def tileQuiet (c : Core) (t cyc : Nat) : Bool := tileDrained c t cyc && c.tileQ.all fun x => decide (x.tile ≠ t)

/-- TOPKC's entries: index and score entries by rank, then the four mask entries (R183, R184). -/
def topkcEntries (v : SMap Word32) (rows k : Nat) : List Lanes :=
  let grid : Array Lanes := ((List.range rows).map (tileRow v)).toArray
  let ranked : Array (List (Word32 × Nat)) := ((List.range 128).map fun j =>
    topK k ((List.range rows).map fun i => laneAt (grid.getD i []) j)).toArray
  let pick (q j : Nat) : Option (Word32 × Nat) := (ranked.getD j [])[q]?
  ((List.range k).flatMap fun q =>
    [packLanes (tabulate fun j => ((pick q j).map fun p => BitVec.ofNat 32 p.2).getD 0xFFFFFFFF),
      packLanes (tabulate fun j => ((pick q j).map (·.1)).getD 0xFF800000)]) ++
    (List.range 4).map fun m => packLanes (tabulate fun j =>
      BitVec.ofNat 32 ((ranked.getD j []).foldl
        (fun acc p => if p.2 / 32 = m then acc + 2 ^ (p.2 % 32) else acc) 0))

/-! ### Tile words (Tables 20.2, 20.3) -/

/-- The tile that IMM32 names. -/
def tileOf (w : VecWord) : Nat := (w.imm.extractLsb' 8 3).toNat

/-- A tile word's form: TYPE must be zero, RND and SAT are ignored with warn(MOD). -/
def tileForm (w : VecWord) (a dst : Bool) (imm : Nat) : VecForm :=
  ⟨a, false, false, dst, false, true, imm,
    (if w.ty ≠ 0 then [warnMbz] else []) ++ rndMod w ++ satMod w, 0, 6, none, []⟩

/-- warn(MOD) for a nonzero MASK that is ignored. -/
def maskMod (w : VecWord) : List Nat := if w.mask ≠ 0 then [warnMod] else []

/-- TRD (R431, R179). -/
def execTrd (w : VecWord) (s : State) : Out :=
  let f := tileForm w false true 0x77F
  issueWord { vecPlan w f (fun _ => .of []) with
    stall := fun s => waitIf (!tileQuiet (getCore s s.turn.core) (tileOf w) s.cyc) (.tile (tileOf w)) <|> vecStall w f s
    act := fun s =>
      let c := getCore s s.turn.core
      .ok (goOn (deliverLanes s w.dst.toNat 6 (activeMask c w.mask.toNat false) false
        (tileRow (getTile c (tileOf w)) (w.imm.toNat % 128)))) } s

/-- The state with a TWR or TZERO handed to the engine: it takes effect no earlier than 2 cycles after its issue (R179). -/
def queueTileWrite (s : State) (t : Nat) (row : Option Nat) (l : Lanes) (active : BitVec 128) : State :=
  updCore (freshId s).2 s.turn.core fun c =>
    { c with tileQ := c.tileQ ++ [⟨(freshId s).1, t, row, packLanes l, active, s.cyc + 2⟩] }

/-- TWR (R431, R179). -/
def execTwr (w : VecWord) (s : State) : Out :=
  let f := tileForm w true false 0x77F
  issueWord { vecPlan w f (fun _ => .of []) with
    act := fun s =>
      let x := vecArgs w f s
      .ok (goOn (queueTileWrite (popSources w f s) (tileOf w) (some (w.imm.toNat % 128)) x.a x.active)) } s

/-- TZERO (R431, R179): MASK is ignored, so no m register is read (R67). -/
def execTzero (w : VecWord) (s : State) : Out :=
  let f := tileForm w false false 0x700
  issueWord { vecPlan w { f with warns := f.warns ++ maskMod w } (fun _ => .of []) with
    reads := []
    act := fun s => .ok (goOn (queueTileWrite s (tileOf w) none [] 0)) } s

/-- TOPKC (R429, R183, R184): 2k + 4 entries are claimed at issue, without stalling X; MASK is ignored, so no m register is read (R67). -/
def execTopkc (w : VecWord) (s : State) : Out :=
  let rows := w.imm.toNat % 128 + 1
  let k := w.fn.toNat % 32 + 1
  let f : VecForm :=
    { tileForm w false true 0x77F with
      fnZero := false, bad := decide (w.dst ≠ 34) || decide (32 ≤ w.fn.toNat),
      warns := (tileForm w false true 0x77F).warns ++ maskMod w }
  issueWord { vecPlan w f (fun _ => .of []) with
    reads := []
    stall := fun s => waitIf (!tileQuiet (getCore s s.turn.core) (tileOf w) s.cyc) (.tile (tileOf w))
    act := fun s =>
      let tag := (freshId s).1
      .ok (goOn (updCore (freshId s).2 s.turn.core fun c =>
        { c with sq := claimQ c.sq tag (2 * k + 4),
                 topkQ := c.topkQ ++ [⟨tag, s.cyc + 2 * rows + k, topkcEntries (getTile c (tileOf w)) rows k⟩] })) } s

/-- Whether the column select unit pushes an entry in the cycle (R429). -/
def topkcDue (c : Core) (cyc : Nat) : Bool :=
  match c.topkQ with
  | t :: _ => decide (t.next ≤ cyc) && claimReady c.sq t.tag 8 cyc
  | [] => false

/-- TOPKC_ENTRY_PUSH (R429): one entry a cycle; the next TOPKC pushes no earlier than the cycle after the last push. -/
def execTopkcEntryPush (core : Nat) (s : State) : Out :=
  let c := getCore s core
  if !topkcDue c s.cyc then .next s
  else
    match c.topkQ with
    | t :: rest =>
      let c1 : Core := { c with sq := fillQ c.sq t.tag (t.entries.headD []) s.cyc }
      let q : List TopkCmd :=
        if t.entries.length ≤ 1 then
          (match rest with | u :: us => { u with next := max u.next (s.cyc + 1) } :: us | [] => [])
        else { t with next := s.cyc + 1, entries := t.entries.drop 1 } :: rest
      .next (setCore s core { c1 with topkQ := q })
    | [] => .next s

end Sys2Proof.Machine
end

