-- ==== Sys2Proof/Machine/Matrix.lean ====
section
/-!
DEFINITION. The matrix engine: MMA, MMAP, MRET and MDRAIN at issue, its queue, the load pipe, tile steps, retirement, drains and
tile writes (R40, R46, R47, R52, R174 to R182, R394 to R399, R406).
-/

namespace Sys2Proof.Machine

open Sys2Proof

/-! ### Issue -/

/-- Checks 1 and 2 of Table 4.6. -/
def handleValid (s : State) (core h : Nat) (w : Word64) (off : Nat) : Except Raise Unit :=
  let c := getCore s core
  if !hValid w && hCause w = 1 then .error (Raise.at_ 0x22 off (smGet 0 c.regs.hva h))
  else if !hValid w || hWorld w ≠ c.world || hSpace w = 3 then .error (Raise.at_ 0x20 off off)
  else .ok ()

/-- Whether a handle is of package space (R174, R176). -/
def packageOnly (w : Word64) (off : Nat) : Except Raise Unit :=
  if hSpace w = 0 then .ok () else .error (Raise.at_ 0x20 off off)

/-- The trellis that an MMAP issuing now will find once the engine's earlier MMAPs have completed (R197, R198). -/
def trellisAhead (c : Core) : Trellis :=
  (c.matQ.filter fun m => m.op = 2).foldl (fun t m => advancePos (selectPat (mwPat m.w) (mwPt m.w) t)) c.regs.trellis

/-- The layout of a tile step's handle operand: its format, stored rows, row bytes and stride (R173, R174). -/
def handleLayout (op : Nat) (w : MatWord) (isA : Bool) : Nat × Nat × Nat × Nat :=
  let f := if isA then mwAfmt w else mwBfmt w
  let long := if isA then decide (op = 2) || !mwTa w else mwTb w
  let (rows, rb) := rowLayout long f
  (f, rows, rb, if mwStride w = 0 then rb else mwStride w)

/-- The addresses of an operand's lines, row by row. -/
def operandLines (base rows rb stride : Nat) : List Nat :=
  (List.range rows).flatMap fun r => (List.range (rb / 64)).map fun i => base + r * stride + 64 * i

/-- The addresses of the lines of a range. -/
def rangeLines (base len : Nat) : List Nat := (List.range (ceilDiv len 64)).map fun i => base + 64 * i

/-- The handle operand of a tile step: whether it is A, and its register. -/
def handleOperand (w : MatWord) : Option (Bool × Nat) :=
  if w.asrc = 1 then some (true, w.asel.toNat) else if w.bsrc = 1 then some (false, w.bsel.toNat) else none

/-- What a tile step's handle checks give: the handles, NB, and the distinct lines it needs. -/
structure MatPlan where
  hOp : Word64
  hSc : Word64
  nb : Nat
  need : List Nat
  deriving DecidableEq, Repr

/-- The handle checks of a tile step (R394 steps 4 to 6). -/
def matHandles (s : State) (op : Nat) (w : MatWord) : Except Raise MatPlan :=
  let p := s.turn.core
  let c := getCore s p
  match handleOperand w with
  | none => .ok ⟨0, 0, 1, []⟩
  | some (isA, reg) =>
    let (f, rows, rb, stride) := handleLayout op w isA
    let h := readHandle c reg
    let scaled := fmtScaled (mwAfmt w)
    let sreg := if mwSsel w = 0 then reg else mwSsel w
    let hs := readHandle c sreg
    let off := w.p2.toNat
    let nb := if op = 2 ∧ !isA then patNb (selectPat (mwPat w) (mwPt w) (trellisAhead c)) (fmtK (mwAfmt w)) else 1
    let len := (rows * nb - 1) * stride + rb
    let slen := scaleArray f * nb
    let scaleLines := if scaled then rangeLines (hAddr hs + mwSoff w) slen else []
    do
      handleValid s p reg h off
      if scaled then handleValid s p sreg hs (mwSoff w)
      packageOnly h off
      if off % 64 ≠ 0 then .error (Raise.at_ 0x21 off off)
      if scaled then packageOnly hs (mwSoff w)
      useHandle s p reg h off len (some 0) (!isA) 0x34 false
      if scaled then useHandle s p sreg hs (mwSoff w) slen (some 0) false 0x34 false
      .ok ⟨h, hs, nb, (operandLines (hAddr h + off) (rows * nb) rb stride ++ scaleLines).eraseDups⟩

/-- Whether a selecting field of a tile step is reserved (R171, R174). -/
def stepBad (w : MatWord) : Bool :=
  decide (2 ≤ w.asrc.toNat) || decide (2 ≤ w.bsrc.toNat) || (w.asrc = 0 && decide (3 < w.asel.toNat)) ||
    (w.bsrc = 0 && decide (3 < w.bsel.toNat)) || (w.asrc = 1 && w.bsrc = 1) || decide (7 ≤ mwAfmt w) ||
    decide (7 ≤ mwBfmtRaw w)

/-- The must-be-zero bits every matrix word has (Table 10.9). -/
def matTops (w : MatWord) : Bool := decide (w.top0 ≠ 0) || decide (w.top5 ≠ 0)

/-- The warnings of a tile step's fields (R172, R176, R178, R198). -/
def stepWarns (op : Nat) (w : MatWord) : List Nat :=
  (if matTops w || decide (w.p1.extractLsb' 21 11 ≠ 0) || (op = 1 && (decide (mwPat w ≠ 0) || mwPt w)) ||
      (op = 2 && mwTa w) || (fmtScaled (mwAfmt w) && decide (mwSsel w ≠ 0) && (handleOperand w).isNone)
    then [warnMbz] else []) ++
    (if fmtClass (mwBfmtRaw w) ≠ fmtClass (mwAfmt w) then [warnMfmt] else [])

/-- Whether an MRET or MDRAIN sets a field its entry does not name (R268, Table 19.3). -/
def unusedMat (op : Nat) (w : MatWord) : Bool :=
  matTops w || decide (w.asrc ≠ 0) || decide (w.asel ≠ 0) || decide (w.bsrc ≠ 0) || decide (w.bsel ≠ 0) || decide (w.p3 ≠ 0) ||
    (if op = 3 then decide (w.acc ≠ 0) || decide (w.p1.extractLsb' 8 24 ≠ 0) || decide (w.p2 ≠ 0)
     else decide (w.p1 ≠ 0) || decide (w.p2.extractLsb' 16 16 ≠ 0))

/-- The tiles MRET's MASK names, in ascending order (R397). -/
def maskTiles (w : MatWord) : List Nat := (List.range 8).filter fun t => w.p1.getLsbD t

/-- MDRAIN's ROW0. -/
def drainRow0 (w : MatWord) : Nat := (w.p2.extractLsb' 0 8).toNat
/-- MDRAIN's N. -/
def drainCount (w : MatWord) : Nat := (w.p2.extractLsb' 8 8).toNat

/-- The absolute stamp of a matrix word and the count it is compared with; none where it issues when ready (R40). -/
def matStamp (w : MatWord) (s : State) : Option (Nat × Nat) :=
  if w.stamp = 0xFFFFFFFF then none else some (entryOf s s.turn.core + w.stamp.toNat, s.cyc)

/-- Whether the engine has room for one more waiting word (R177). -/
def matRoom (c : Core) : Bool := decide ((c.matQ.filter fun m => m.start.isNone).length < 4)

/-- The state with a matrix word handed to the engine. -/
def queueMat (s : State) (op : Nat) (w : MatWord) (p : MatPlan) : State :=
  updCore (freshId s).2 s.turn.core fun c =>
    { c with matQ := c.matQ ++
        [⟨(freshId s).1, op, s.cyc, w.bound.toNat, w, p.hOp, p.hSc, p.nb, none, p.need, [], 0, none, [], [], [], [], []⟩] }

/-- The effect of a matrix word at issue (R394). -/
def matAct (op : Nat) (w : MatWord) (s : State) : Except Raise (State × Flow) :=
  let s0 := if w.stamp = 0xFFFFFFFF then s else resetSlip s
  if !matRoom (getCore s s.turn.core) then .error (Raise.of 0x11)
  else if op = 4 ∧ (drainCount w = 0 ∨ 128 < drainCount w ∨ 128 < drainRow0 w + drainCount w) then .error (Raise.of 0x01)
  else
    match (if op ≤ 2 then matHandles s op w else .ok ⟨0, 0, 1, []⟩) with
    | .error r => .error r
    | .ok p => .ok (goOn (queueMat s0 op w p))

/-- The h registers a matrix word reads: its operand's handle, and the one SCALESEL names where it is used (R67, R176). -/
def matReads (op : Nat) (w : MatWord) : List Dest :=
  match handleOperand w with
  | some (_, r) =>
    if 2 < op then []
    else if fmtScaled (mwAfmt w) && decide (mwSsel w ≠ 0) then [.h r, .h (mwSsel w)] else [.h r]
  | none => []

/-- The plan of a matrix word: MRET and MDRAIN stall until the tiles they name have drained (Table 2.1). -/
def matPlan (op : Nat) (w : MatWord) : WordPlan where
  len := 6
  accepts := [.x]
  bad := decide (op ≤ 2) && stepBad w
  warns := if op ≤ 2 then stepWarns op w else if unusedMat op w then [warnMbz] else []
  reads := matReads op w
  writes := []
  stall := fun s =>
    let c := getCore s s.turn.core
    let ts := if op = 3 then maskTiles w else if op = 4 then [w.acc.toNat] else []
    (ts.find? fun t => !tileDrained c t s.cyc).map .tile
  stamp := matStamp w
  act := matAct op w

/-- MMA (R395). -/
def execMma (w : MatWord) (s : State) : Out := issueWord (matPlan 1 w) s
/-- MMAP (R396). -/
def execMmap (w : MatWord) (s : State) : Out := issueWord (matPlan 2 w) s
/-- MRET (R397). -/
def execMret (w : MatWord) (s : State) : Out := issueWord (matPlan 3 w) s
/-- MDRAIN (R398). -/
def execMdrain (w : MatWord) (s : State) : Out := issueWord (matPlan 4 w) s

/-! ### The engine -/

/-- A core with the head of the engine's queue replaced. -/
def setMatHead (c : Core) (m : MatCmd) : Core := { c with matQ := m :: c.matQ.drop 1 }

/-- Whether the next matrix word starts in the cycle (R177). -/
def matStarts (c : Core) (cyc : Nat) : Bool :=
  match c.matQ.head? with
  | some m => m.start.isNone && decide (m.issued ≤ cyc) && decide (c.matFree ≤ cyc)
  | none => false

/-- A core with a TWR or TZERO applied (R431). -/
def applyTileWrite (c : Core) (x : TileWrite) : Core :=
  match x.row with
  | none => setTile c x.tile []
  | some q => setTile c x.tile (setTileRow (getTile c x.tile) q x.active x.lanes)

/-- A core with the tile writes that were issued before a word applied to the tiles it reads (R179): an MRET or MDRAIN that starts
within two cycles of them reads what they wrote. -/
def applyEarlier (c : Core) (id : Nat) (ts : List Nat) : Core :=
  let mine := fun x : TileWrite => decide (x.id < id) && ts.contains x.tile
  (c.tileQ.filter mine).foldl applyTileWrite { c with tileQ := c.tileQ.filter fun x => !mine x }

/-- The n bytes of a buffer from its start. -/
def cellsBytes : Nat → Nat → List Host.Cell → List Byte
  | 0, _, _ => []
  | n + 1, i, [] => Memory.blank :: cellsBytes n (i + 1) []
  | n + 1, i, (a, b) :: rest => if a = i then b :: cellsBytes n (i + 1) rest else Memory.blank :: cellsBytes n (i + 1) ((a, b) :: rest)

/-- Operand buffer n (R405). -/
def bufferBytes (c : Core) (n : Nat) : List Byte := cellsBytes 32768 0 (smGet [] c.ob n)

/-- The scale area of operand buffer n, as far as a format's array goes. -/
def bufferScales (c : Core) (n f : Nat) : List Byte := cellsBytes (scaleArray f) 0 (smGet [] c.obScale n)

/-- A tile step with its operand buffers read in its start cycle (R406). -/
def captureStep (c : Core) (m : MatCmd) : MatCmd :=
  let w := m.w
  let nb :=
    if m.op = 2 then patNb (selectPat (mwPat w) (mwPt w) c.regs.trellis) (fmtK (mwAfmt w)) else 1
  let bs := (List.range nb).map (w.bsel.toNat + ·)
  { m with
    a := if w.asrc = 0 then bufferBytes c w.asel.toNat else []
    sclA := if w.asrc = 0 then bufferScales c w.asel.toNat (mwAfmt w) else []
    b := if w.bsrc = 0 then bs.flatMap (bufferBytes c) else []
    sclB := if w.bsrc = 0 then bs.flatMap (fun n => bufferScales c n (mwBfmt w)) else []
    nb := nb }

/-- A core with the named tiles copied to their retirement images (R180). -/
def retireTiles (c : Core) (ts : List Nat) : Core :=
  ts.foldl (fun c t =>
    { c with retired := smSet [] c.retired t (getTile c t), retireFresh := smSet false c.retireFresh t true }) c

/-- MATRIX_WORD_START (R177): a tile step reads its buffers; MRET takes its images; MDRAIN reads its rows and claims its
entries. -/
def execMatrixWordStart (core : Nat) (s : State) : Out :=
  let c := getCore s core
  match c.matQ.head? with
  | none => .next s
  | some m =>
    if !matStarts c s.cyc then .next s
    else if m.op ≤ 2 then .next (setCore s core (setMatHead c { captureStep c m with start := some s.cyc }))
    else if m.op = 3 then
      let c1 := retireTiles (applyEarlier c m.id (maskTiles m.w)) (maskTiles m.w)
      .next (setCore s core (setMatHead c1 { m with start := some s.cyc }))
    else
      let c1 := applyEarlier c m.id [m.w.acc.toNat]
      let t := getTile c1 m.w.acc.toNat
      let rows := (List.range (drainCount m.w)).map fun r => tileRow t (drainRow0 m.w + r)
      .next (setCore s core (setMatHead { c1 with sq := claimQ c1.sq m.id (drainCount m.w) }
        { m with start := some s.cyc, rows := rows, lastTake := s.cyc }))

/-- Whether the load pipe takes a line in the cycle: at most 16 a cycle from slot 7, words in issue order (R175). -/
def pipeDue (c : Core) (cyc : Nat) : Bool :=
  (c.matQ.any fun m => decide (m.taken.length < m.need.length)) && (landHead c 7 cyc).isSome &&
    decide (landTaken c 7 cyc < 16)

/-- The first word in issue order that needs lines, with its place in the queue. -/
def pipeWord (c : Core) : Option (Nat × MatCmd) :=
  (c.matQ.zipIdx.find? fun p => decide (p.1.taken.length < p.1.need.length)).map fun p => (p.2, p.1)

/-- Whether an address lies in a tile step's operand range rather than in its scale range alone. -/
def inOperand (m : MatCmd) (addr : Nat) : Bool :=
  match handleOperand m.w with
  | none => false
  | some (isA, _) =>
    let (_, rows, rb, stride) := handleLayout m.op m.w isA
    (operandLines (hAddr m.hOp + m.w.p2.toNat) (rows * m.nb) rb stride).contains addr

/-- MATRIX_PIPE_LINE_TAKE (R175, R112): one line from the head of slot 7, checked and decrypted for the word it serves. DESIGN CHOICE:
a line outside both ranges is checked under the operand's handle (log 88). -/
def execMatrixPipeLineTake (core : Nat) (s : State) : Out :=
  let c := getCore s core
  match pipeDue c s.cyc, pipeWord c, landHead c 7 s.cyc with
  | true, some (i, m), some x =>
    let h := if m.need.contains x.addr && !inOperand m x.addr then m.hSc else m.hOp
    let s1 := setCore s core (popLand c 7 s.cyc)
    match deliverLine s1 c.world (hConf h) (hSealed h) x with
    | (s2, none) => .next (raiseOn s2 core .matrix (Raise.at_ 0x27 x.addr x.addr))
    | (s2, some (p, corr)) =>
      let fault := !m.need.contains x.addr || m.taken.any fun t => t.1 = x.addr
      let m1 := { m with
        taken := m.taken ++ [(x.addr, p)], lastTake := s.cyc, bound := m.bound + (if corr then 80 else 0),
        bad := if fault then some (m.bad.getD x.addr) else m.bad }
      .next (updCore s2 core fun c => { slipFixed c .x corr with matQ := setAt c.matQ i m1 })
  | _, _, _ => .next s

/-- The cycles by which a step's corrected lines have made it late: its bound has been extended by as many (R112, R175). -/
def stepLate (m : MatCmd) : Nat := m.bound - m.w.bound.toNat

/-- The cycle in which a started tile step completes, once it has taken its lines (R175, R177). -/
def stepFinish (m : MatCmd) : Option Nat :=
  match m.start with
  | none => none
  | some st =>
    if m.taken.length < m.need.length then none
    else if m.need.isEmpty then some (st + 128)
    else some (max (st + 128) (m.issued + 128 + (m.lastTake - (m.issued + 127))) + stepLate m)

/-- Whether a tile step completes in the cycle. -/
def stepDue (c : Core) (cyc : Nat) : Bool :=
  match c.matQ.head? with
  | some m => decide (m.op ≤ 2) && (stepFinish m).any fun f => decide (f ≤ cyc)
  | none => false

/-- The bytes of lines taken at a list of addresses. -/
def takenBytes (m : MatCmd) (addrs : List Nat) : List Byte :=
  addrs.flatMap fun a => lineBytes (((m.taken.find? fun t => t.1 = a).map (·.2)).getD 0)

/-- The images of a completed step's operand A or B: from its buffers, or from the lines taken. -/
def stepImages (m : MatCmd) (isA : Bool) : OperandImages :=
  let f := if isA then mwAfmt m.w else mwBfmt m.w
  let viaHandle := (handleOperand m.w).any fun p => p.1 = isA
  let count := if isA then 1 else m.nb
  let (data, scales) :=
    if viaHandle then
      let (_, rows, rb, stride) := handleLayout m.op m.w isA
      (takenBytes m (operandLines (hAddr m.hOp + m.w.p2.toNat) (rows * m.nb) rb stride),
        if fmtScaled f then takenBytes m (rangeLines (hAddr m.hSc + mwSoff m.w) (scaleArray f * m.nb)) else [])
    else if isA then (m.a, m.sclA) else (m.b, m.sclB)
  ⟨imagesOf 32768 count data, imagesOf (scaleArray f) count scales⟩

/-- A core with the head of the engine's queue ended in the cycle. -/
def endMat (c : Core) (cyc : Nat) : Core := { c with matQ := c.matQ.drop 1, matFree := cyc }

/-- A tile step's own end: a trap cause, or none where it completes (R175, R197, R198). -/
def stepCause (m : MatCmd) (t : Trellis) : Option (Nat × Nat) :=
  match m.bad with
  | some a => some (0x21, a)
  | none =>
    if m.op ≠ 2 then none
    else
      match t.run.cause with
      | some k => some (k, 0)
      | none =>
        if patShapeOk t (fmtK (mwAfmt m.w)) (mwAfmt m.w) (if m.w.bsrc = 0 then some m.w.bsel.toNat else none) then none
        else some (0x61, 0)

/-- TILE_STEP_COMPLETION (R175, R177, R395, R396, R399): the tile is written, its drain begins, CR 0x031 advances; a step that ends
with a trap leaves its tile and POS as they were. -/
def execTileStepCompletion (core : Nat) (s : State) : Out :=
  let c := getCore s core
  match c.matQ.head? with
  | none => .next s
  | some m =>
    if !stepDue c s.cyc then .next s
    else
      let t := if m.op = 2 then selectPat (mwPat m.w) (mwPt m.w) c.regs.trellis else c.regs.trellis
      match stepCause m t with
      | some (cause, a) =>
        .next (raiseOn (setCore s core (endMat c s.cyc)) core .matrix (Raise.at_ cause a a))
      | none =>
        let acc := m.w.acc.toNat
        let bImg := stepImages m false
        let (v, over_) := tileStep m.w (if m.op = 2 then some t else none) (stepImages m true) bImg m.nb (getTile c acc)
        let c1 := setTile (endMat c s.cyc) acc v
        let c2 : Core := { c1 with
          drain := smSet 0 c1.drain acc (s.cyc + 16),
          regs := { c1.regs with trellis := if m.op = 2 then advancePos t else c1.regs.trellis },
          bBuf := if m.w.bsrc = 1 && hSealed m.hOp then
              cellsOf 0 (bytesOf ((bImg.data.getD 0 #[]).toList)) else c1.bBuf }
        .next (setCore s core (warnIf over_ warnIovf (bumpCsn c2 1)))

/-- TILE_DRAIN_END (R52): a tile's drain is over. -/
def execTileDrainEnd (core tile : Nat) (s : State) : Out :=
  .next (updCore s core fun c =>
    if smGet 0 c.drain tile ≤ s.cyc then { c with drain := smSet 0 c.drain tile 0 } else c)

/-- Whether a tile write takes effect in the cycle (R179): two cycles after its issue, after the drain of every earlier step on
the tile and after every earlier MRET naming it and MDRAIN of it, in issue order. -/
def tileWriteReady (c : Core) (x : TileWrite) (cyc : Nat) : Bool :=
  decide (x.earliest ≤ cyc) && decide (smGet 0 c.drain x.tile ≤ cyc) &&
    (c.matQ.all fun m => decide (x.id < m.id) ||
      !((decide (m.op ≤ 2) || decide (m.op = 4)) && decide (m.w.acc.toNat = x.tile)) &&
        !(decide (m.op = 3) && (maskTiles m.w).contains x.tile)) &&
    c.tileQ.all fun y => decide (x.id ≤ y.id) || decide (y.tile ≠ x.tile)

/-- The first tile write that takes effect in the cycle. -/
def nextTileWrite (c : Core) (cyc : Nat) : Option TileWrite := c.tileQ.find? fun x => tileWriteReady c x cyc

/-- TILE_WRITE_EFFECT (R179). -/
def execTileWriteEffect (core : Nat) (s : State) : Out :=
  let c := getCore s core
  match nextTileWrite c s.cyc with
  | none => .next s
  | some x => .next (setCore s core (applyTileWrite { c with tileQ := c.tileQ.filter fun y => y.id ≠ x.id } x))

/-- The cycles an MRET takes: 32 per named tile, or 1 (R397). -/
def mretLength (w : MatWord) : Nat := max 1 (32 * (maskTiles w).length)

/-- Whether an MRET completes in the cycle. -/
def mretDue (c : Core) (cyc : Nat) : Bool :=
  match c.matQ.head? with
  | some m => m.op = 3 && m.start.any fun st => decide (st + mretLength m.w ≤ cyc)
  | none => false

/-- MRET_COMPLETION (R180, R397, R399): CR 0x031 advances and an event record is posted. -/
def execMretCompletion (core : Nat) (s : State) : Out :=
  let c := getCore s core
  match mretDue c s.cyc, c.matQ.head? with
  | true, some m => .next (completeCommand (setCore s core (endMat c s.cyc)) core .matrix m.id 1 0 none 0 false)
  | _, _ => .next s

/-- Whether an MDRAIN pushes an entry in the cycle (R182, R398). -/
def mdrainDue (c : Core) (cyc : Nat) : Bool :=
  match c.matQ.head? with
  | some m => m.op = 4 && m.start.isSome && decide (m.lastTake < cyc) && claimReady c.sq m.id 8 cyc
  | none => false

/-- MDRAIN_ENTRY_PUSH (R182, R398, R399): one entry a cycle; the last one completes the word. -/
def execMdrainEntryPush (core : Nat) (s : State) : Out :=
  let c := getCore s core
  if !mdrainDue c s.cyc then .next s
  else
    match c.matQ with
    | m :: _ =>
      let c1 : Core := { c with sq := fillQ c.sq m.id (m.rows.headD []) s.cyc }
      if m.rows.length ≤ 1 then .next (setCore s core (bumpCsn (endMat c1 s.cyc) 1))
      else .next (setCore s core (setMatHead c1 { m with rows := m.rows.drop 1, lastTake := s.cyc }))
    | [] => .next s

end Sys2Proof.Machine
end

