-- ==== Sys2Proof/Machine/Segments.lean ====
section
/-!
DEFINITION. Segments: their entry and end, the commits that follow, and their abort by a trap (R38, R47, R57, R108, R145, R169,
R180, R181, R191, R206, R215, R216, R218, R229 to R236, R242 to R253, R270, R329, R368).
-/

namespace Sys2Proof.Machine

open Sys2Proof

/-! ### SEGMENT_ENTRY (R38, R57, R181, R191, R246) -/

/-- A stream at a segment's entry (R38). -/
def entryStream (pc entry : Nat) : Stream := ⟨pc, entry, entry, 0, 0, 0, false, 0, 0, false, false, [], .nothing⟩

/-- A stream's instruction store at a segment's entry: the parcels from its entry offset on, 32 KiB at most (R22, R231). -/
def entryStore (img : List Byte) (g : Segment) (q : Seq) : Seq × Nat × List Word32 :=
  let e := g.entries.getD (seqNo q) 0
  (q, e, ((codeParcels img (seqNo q)).drop e).take 8192)

/-- The image's hazard table (Table 9.14). -/
def hazEntries (img : List Byte) : List (Seq × Nat) :=
  (List.range ((imgHaz img).2 / 4)).map fun k =>
    let w := leField img ((imgHaz img).1 + 4 * k) 4
    (match w % 4 with | 0 => .c | 1 => .l | 2 => .x | _ => .s, w / 4)

/-- The trellis with its pattern memory and program table filled from the image (R191). -/
def fillTrellis (img : List Byte) (t : Trellis) : Trellis :=
  if (imgPat img).2 = 0 then { t with mem := [], table := [] }
  else { t with mem := ((patWords img).zipIdx.map fun w => (w.2, w.1)).filter fun e => decide (e.2 ≠ 0), table := patDirectory img }

/-- A core at a segment's entry: its registers as they were carried over, its live tiles at their committed images, everything else of
a segment empty (R19, R181, R246, R380, R401, R405, R427). -/
def enterCore (s : State) (l : Launch) (g : Segment) (c : Core) : Core :=
  let regs := { c.regs with trellis := fillTrellis l.image c.regs.trellis, events := [] }
  let table := (getWorld s l.world).table
  { Core.zero with
    regs := regs
    entry := regs
    c := entryStream (g.entries.getD 0 0) s.cyc
    l := entryStream (g.entries.getD 1 0) s.cyc
    x := entryStream (g.entries.getD 2 0) s.cyc
    st := entryStream (g.entries.getD 3 0) s.cyc
    spad := c.spad
    recent := c.recent
    ctl := c.ctl
    ctlTag := c.ctlTag
    bBuf := c.bBuf
    tiles := c.committed
    committed := c.committed
    tcache := c.tcache.filter fun t => table.contains t && !revokedOn c t.pid
    revoked := c.revoked
    istore := [entryStore l.image g .c, entryStore l.image g .l, entryStore l.image g .x, entryStore l.image g .s]
    hazTable := hazEntries l.image
    snapWarn := regs.warn
    snapCsn := regs.csn
    snapSlip := 0
    launch := c.launch
    lidx := c.lidx
    world := c.world }

/-- The state with a segment's channel programs started (R126). DESIGN CHOICE: of a list that names a channel twice the last entry's program
runs (R125, log 118). -/
def enterChannels (s : State) (n : Nat) (g : Segment) : State :=
  g.chans.foldl (fun (s : State) (e : Nat × Nat) =>
    let c := getChan s e.1
    let mem0 := (progBase c n e.2).getD 0
    setChan s e.1 { c with
      leadIn := none, run := some ⟨n, s.cyc, mem0, e.2, mem0, s.cyc + chanDelta (chanMem c mem0), none⟩ }) s

/-- Whether a launch's segment enters in the cycle. -/
def entryDue (s : State) (l : Launch) : Bool := match l.phase with | .placed e => decide (e ≤ s.cyc) | _ => false

/-- Each key slot of a world as it stands: EMPTY and the last-accepted counter (R329). -/
def keysAt (s : State) (world : Nat) : List (Nat × Bool × Nat) :=
  (s.keys.filter fun e => decide (e.2.world = some world)).map fun e => (e.1, e.2.empty, e.2.last)

/-- SEGMENT_ENTRY (R38, R57, R126, R181, R191, R232, R246, R302). -/
def execSegmentEntry (n : Nat) (s : State) : Out :=
  let l := getLaunch s n
  match l.segs[l.seg]? with
  | none => .next s
  | some g =>
    if !entryDue s l then .next s
    else
      let run : SegRun :=
        ⟨l.seg, s.cyc, s.dtime, gapStart s, none, [], [], segmentDebits l g, (getWorld s l.world).curReplica, keysAt s l.world⟩
      let s1 := l.cores.foldl (fun s p => updCore s p (enterCore s l g)) s
      .next (setLaunch (enterChannels s1 n g) n { l with phase := .running, run := some run })

/-! ### SEGMENT_END (R180, R181, R232, R233) -/

/-- The live tiles of a core. -/
def liveTiles (c : Core) : List Nat := (List.range 8).filter fun t => bitOf c.live t

/-- The live tiles that no MRET has retired since their last write (R181). -/
def unretired (c : Core) : List Nat := (liveTiles c).filter fun t => !smGet false c.retireFresh t

/-- Whether SEGEND's own retirement begins on a core: X has ended, its matrix words and tile writes are done and drained. -/
def retireReady (c : Core) (cyc : Nat) : Bool :=
  c.x.ended && c.matQ.isEmpty && c.tileQ.isEmpty && (c.drain.all fun e => decide (e.2 ≤ cyc)) && decide (c.matFree ≤ cyc) &&
    !(unretired c).isEmpty

/-- A core with its unretired live tiles retired by SEGEND: 32 cycles a tile, warn(LIVE) (R181). -/
def segendRetire (cyc : Nat) (c : Core) : Core :=
  if retireReady c cyc then
    warn { retireTiles c (unretired c) with matFree := cyc + 32 * (unretired c).length } warnLive
  else c

/-- Whether a core's part of a segment has ended: its streams, its results, its commands and its retirements (R232, R233). What other cores
have sent its inbound port does not hold the end back: inbound accesses cannot be waited for (R75). -/
def coreQuiet (s : State) (p : Nat) : Bool :=
  let c := getCore s p
  c.c.ended && c.l.ended && c.x.ended && c.st.ended && c.flight.isEmpty && c.xlate.isEmpty && c.pushes.isEmpty &&
    c.copyQ.isEmpty && c.matQ.isEmpty && c.tileQ.isEmpty && c.feedQ.isEmpty && c.storeQ.isEmpty && decide (c.storeDone ≤ s.cyc) &&
    c.binQ.isEmpty && c.topkQ.isEmpty && (c.posts.all fun x => decide (x.due ≤ s.cyc)) && (unretired c).isEmpty && decide (c.matFree ≤ s.cyc) &&
    ((getRows s (p / 128)).all fun r => decide (r.core ≠ p)) && s.colls.all fun i => i.parts.all fun q => decide (q.core ≠ p)

/-- Whether no channel program of a launch runs: each has issued its `.end` (R127, R232). -/
def chansQuiet (s : State) (n : Nat) : Bool :=
  s.chans.all fun (e : Nat × Channel) => match e.2.run with | some r => decide (r.launch ≠ n) | none => true

/-- Whether a launch's running segment ends in the cycle (R232). -/
def segmentOver (s : State) (n : Nat) : Bool := (getLaunch s n).cores.all (coreQuiet s) && chansQuiet s n

/-- Whether a queue holds an entry. -/
def queueLeft {α : Type} (q : Queue α) : Bool := !q.places.isEmpty

/-- Whether a core has entries, tokens or slot lines left (R233). -/
def anythingLeft (c : Core) : Bool :=
  queueLeft c.lq || queueLeft c.sq || queueLeft c.cq || queueLeft c.xq || queueLeft c.boqL || queueLeft c.boqX ||
    queueLeft c.boqS || (c.tokens.any fun (e : Nat × Token) => decide (e.2.count ≠ 0)) || !c.slots.land.isEmpty ||
    !c.slots.out.isEmpty

/-- A core after a segment: what no segment carries over is empty, phases are closed (R233, R75), the translations revoked in it are
gone and their revocations over (R109). DESIGN CHOICE: a line that its inbound port has not taken by then is not performed: its phase is
closed, and no party is left to trap (log 116). -/
def clearSegment (c : Core) : Core :=
  { Core.zero with
    regs := c.regs, entry := c.entry, spad := c.spad, recent := c.recent, ctl := c.ctl, ctlTag := c.ctlTag, ob := c.ob,
    obScale := c.obScale, bBuf := c.bBuf, committed := c.committed, tcache := c.tcache.filter fun t => !revokedOn c t.pid,
    revoked := c.revoked.filter fun e => decide (e.2 ≠ 0), bars := c.bars,
    inbound := c.inbound, launch := c.launch, lidx := c.lidx, world := c.world }

/-- A core at a segment's end: retirement images committed, registers outside LIVEV zeroed, leftovers discarded (R180, R181, R233,
R246). -/
def endCore (c : Core) : Core :=
  let c1 := warnIf (anythingLeft c) warnSegq c
  { clearSegment c1 with
    regs := { c1.regs with v := c1.regs.v.filter fun e => c1.regs.livev.getLsbD e.1 },
    committed := (liveTiles c).filterMap fun t =>
      let v := smGet [] c.retired t
      if v = [] then none else some (t, v) }

/-- Whether a release of the core stands between two of its commands at a scope that covers both writes (R216): dom covers domain
memory, sys every space. -/
def fencedApart (fences : List (Nat × Nat)) (x y : Held) : Bool :=
  fences.any fun f => decide (x.cmd < f.1) && decide (f.1 < y.cmd) && (decide (4 ≤ f.2) || (decide (x.space ≠ 1) && decide (y.space ≠ 1)))

/-- Whether two held writes touch a byte in common. -/
def heldClash (x y : Held) : Bool :=
  decide (x.space = y.space) && decide (x.addr < y.addr + y.bytes.length) && decide (y.addr < x.addr + x.bytes.length)

/-- Held writes in issue order. -/
def insertHeld (w : Held) : List Held → List Held
  | [] => [w]
  | x :: xs => if w.cmd < x.cmd then w :: x :: xs else x :: insertHeld w xs

/-- The cycles in which a core's held writes become visible (R215, R216): each after a free number of cycles, but not before an earlier
one to the same bytes, nor before one of an earlier epoch; `free` is the number of the next free value. -/
def commitTimes (fences : List (Nat × Nat)) (cyc : Nat) : Nat → List (Nat × Held) → List Held → List (Nat × Held)
  | _, acc, [] => acc
  | free, acc, w :: ws =>
    let after := (acc.filter fun a => heldClash a.2 w || fencedApart fences a.2 w).map (·.1)
    commitTimes fences cyc (free + 1) (acc ++ [(after.foldl max (cyc + Config.commitDelay free), w)]) ws

/-- The state with a launch's held writes handed over to be committed. -/
def beginCommit (s : State) (n : Nat) : State :=
  (getLaunch s n).cores.foldl (fun (s : State) (p : Nat) =>
    let c := getCore s p
    let ws := c.held.foldl (fun acc w => insertHeld w acc) []
    let l := getLaunch s n
    setLaunch { s with free := s.free + ws.length } n
      { l with commits := l.commits ++ commitTimes c.fences s.cyc s.free [] ws }) s

/-- The state with a launch's running segment ended (R232): what its completions of the cycle post is posted; lines of its DRDs still on their
way are dropped (R233, log 78). -/
def endSegment (s : State) (n : Nat) (r : SegRun) : State :=
  let s1 := settleEnergy (beginCommit ((getLaunch (dropLines s n) n).cores.foldl flushPosts (dropLines s n)) n) n r
  let s2 := (getLaunch s1 n).cores.foldl (fun (s : State) (p : Nat) => updCore s p endCore) s1
  let l := getLaunch s2 n
  let last := l.halt || decide (l.segs.length ≤ l.seg + 1)
  setLaunch s2 n { l with
    phase := .committing last, run := none, seg := l.seg + 1, row := 0, done := l.done + 1, endCyc := s.cyc }

/-- The running segment of a launch that no trap has ended. -/
def liveRun (l : Launch) : Option SegRun := l.run.bind fun r => if r.trap.isNone then some r else none

/-- Whether SEGMENT_END acts in the cycle. -/
def segmentEndDue (s : State) (n : Nat) : Bool :=
  (liveRun (getLaunch s n)).isSome &&
    (((getLaunch s n).cores.any fun p => retireReady (getCore s p) s.cyc) || segmentOver s n)

/-- SEGMENT_END (R180, R181, R215, R232, R233, R242, R243): SEGEND's own retirements begin; or the segment ends. -/
def execSegmentEnd (n : Nat) (s : State) : Out :=
  match liveRun (getLaunch s n) with
  | none => .next s
  | some r =>
    if (getLaunch s n).cores.any fun p => retireReady (getCore s p) s.cyc then
      .next ((getLaunch s n).cores.foldl (fun (s : State) (p : Nat) => updCore s p (segendRetire s.cyc)) s)
    else if segmentOver s n then .next (endSegment s n r)
    else .next s

/-! ### COMMIT_ACKNOWLEDGE (R215, R218, R235) -/

/-- Whether COMMIT_ACKNOWLEDGE acts in the cycle. -/
def commitDue (s : State) (n : Nat) : Bool :=
  let l := getLaunch s n
  match l.phase with
  | .committing _ => !commitQueued s n && (l.commits.isEmpty || l.commits.any fun w => decide (w.1 ≤ s.cyc))
  | _ => false

/-- The earliest entry a waiting launch's next segment may have: 320 cycles after the last one's end (R235). DESIGN CHOICE: where commits were
acknowledged late and the segment names channels, a whole lead-in of 320 cycles from now as well (R139, log 103). -/
def nextLow (s : State) (l : Launch) : Nat :=
  max (l.endCyc + 320) (if (launchChans l).isEmpty then s.cyc + 1 else s.cyc + 320)

/-- The state with a launch's next segment placed in the running frame, or in an edge gap whose placements are made, at the next
frame's start (R235). -/
def placeNext (s : State) (n : Nat) : State :=
  let l := getLaunch s n
  let f := frameOf s s.cyc
  if s.cyc < gapStart s then (tryPlace s n f (nextLow s l)).1
  else if gapStart s + 320 < s.gapDone then
    let start := (f + 1) * 2 ^ s.frameLog2
    if nextLow s l ≤ start then (tryPlace s n (f + 1) start).1 else s
  else s

/-- COMMIT_ACKNOWLEDGE (R215, R216, R218): due writes become visible in order, one to the package's own memory once its remote bins have
served the one before (R295, log 51); once none is left, the launch ends or its next segment may be placed. -/
def execCommitAcknowledge (n : Nat) (s : State) : Out :=
  let l := getLaunch s n
  match l.phase with
  | .committing last =>
    if commitQueued s n then .next s
    else if l.commits.isEmpty then
      if last then .next (completeLaunch s n 0 0 l.endCyc)
      else .next (placeNext (setLaunch s n { l with phase := .waiting }) n)
    else
      match l.commits.find? (fun w => decide (w.1 ≤ s.cyc)) with
      | none => .next s
      | some w => .next (setLaunch (commitWrite s n w.2) n { l with commits := l.commits.erase w })
  | _ => .next s

/-! ### Overruns (R46, R47, R127, R234) -/

/-- Whether a launch's segment runs past its cost or into the edge gap. DESIGN CHOICE: a segment that a trap has ended already raises no 0x13
beside it, though its stop window may reach the end of its cost or G (R249, log 122). -/
def overrunDue (s : State) (l : Launch) : Bool :=
  (liveRun l).any fun r =>
    decide (r.gap ≤ s.cyc) || ((l.segs[r.seg]?).any fun g => decide (r.entry + g.cost ≤ s.cyc))

/-- FRAME_OVERRUN (R234, R46, R127): 0x13, raised by the package manager. -/
def execFrameOverrun (n : Nat) (s : State) : Out :=
  if overrunDue s (getLaunch s n) then .next (takeTrap s n none managerIdx 0 true (Raise.of 0x13)) else .next s

/-- A unit's first command past its bound: its place in the unit's queue and its barrier (R47, R112). -/
def overBound (s : State) (p : Nat) (u : UnitId) : Option (Nat × Option BarRef) :=
  let c := getCore s p
  let late := fun issued bound => decide (issued + bound ≤ s.cyc)
  match u with
  | .copy => (c.copyQ.zipIdx.find? fun m => late m.1.issued (m.1.bound + 80 * m.1.fixed)).map fun m => (m.2, m.1.barrier)
  | .matrix => (c.matQ.zipIdx.find? fun m => late m.1.issued m.1.bound).map fun m => (m.2, none)
  | .route =>
    (c.binQ.zipIdx.find? fun m => decide (m.1.op = 4) && late m.1.issued m.1.bound).map fun m => (m.2, m.1.barrier)
  | .row =>
    (((getRows s (p / 128)).filter fun r => decide (r.core = p)).zipIdx.find? fun r => late r.1.issued r.1.bound).map
      fun r => (r.2, r.1.barrier)
  | .coll =>
    (((s.colls.flatMap (·.parts)).filter fun q => decide (q.core = p)).zipIdx.find? fun q => late q.1.issued q.1.bound).map
      fun q => (q.2, if (partDesc q.1).bv then some ⟨p, (partDesc q.1).bar⟩ else none)

/-- The party of a unit. -/
def unitParty : UnitId → Party
  | .copy => .copy
  | .matrix => .matrix
  | .route => .bin
  | .row => .row
  | .coll => .coll

/-- Whether a party of a core of a logical index has already raised in a cycle of a running segment. -/
def raisedIn (r : SegRun) (cyc lidx party : Nat) : Bool :=
  match r.trap with
  | none => false
  | some t => (t :: r.others).any fun x => decide (x.cyc = cyc) && !x.chan && decide (x.lidx = lidx) && decide (x.party = party)

/-- Whether COMMAND_BOUND_OVERRUN acts in the cycle: the core's segment runs, the core has not stopped before it, and the unit has not
raised in it; another party's trap of the cycle does not keep the unit's back (R249). -/
def boundDue (s : State) (p : Nat) (u : UnitId) : Bool :=
  ((runningOn s p).any fun x => !raisedIn x.2.2 s.cyc (getCore s p).lidx (partyNo (unitParty u))) &&
    notStopped (getCore s p) s.cyc && (overBound s p u).isSome

/-- DETAIL of a bound overrun's record: the engine's party, the command's place in its queue, and the logical core and the address of its
barrier, with 1 before them, or zeros for none (R47); the order of the words is the model's (log 44). -/
def boundWords (s : State) (u : UnitId) (k : Nat) (b : Option BarRef) : List Nat :=
  partyNo (unitParty u) :: k :: (match b with | some r => [1, (getCore s r.core).lidx, r.addr] | none => [0, 0, 0])

/-- COMMAND_BOUND_OVERRUN (R47): 0x11; the record's DETAIL names the command's place in its queue and its barrier. -/
def execCommandBoundOverrun (p : Nat) (u : UnitId) (s : State) : Out :=
  if !boundDue s p u then .next s
  else
    match overBound s p u with
    | none => .next s
    | some (k, b) =>
      .next (raiseOn s p (unitParty u) { Raise.of 0x11 with detail := boundWords s u k b })

/-! ### CORE_STOP (R248, R250) -/

/-- The cycle in which a core of a trapping launch stops issuing (R248): the raising core after its trap cycle. -/
def coreStopCycle (t : Trap) (p : Nat) (c : Core) : Nat :=
  let far :=
    match t.core with
    | none => t.cyc + 192
    | some q => if p = q then t.cyc + 1 else if dieOf p = dieOf q then t.cyc + 64 else t.cyc + 192
  match c.stopAt with
  | some x => min x far
  | none => far

/-- The counts of a queue. -/
def queueCounts {α : Type} (q : Queue α) : List Byte := leBytes 4 q.pushes ++ leBytes 4 q.pops

/-- The first 512 bytes of a core's section of the trap record (Table 9.11). -/
def sectionCut (c : Core) (stop : Nat) : List Byte :=
  let str (st : Stream) : List Byte := leBytes 4 st.pc ++ leBytes 4 st.issues ++ leBytes 8 stop
  str c.c ++ str c.l ++ str c.x ++ str c.st ++ queueCounts c.lq ++ queueCounts c.sq ++ queueCounts c.cq ++ queueCounts c.xq ++
    queueCounts c.boqL ++ queueCounts c.boqX ++ queueCounts c.boqS ++
    ((List.range 12).flatMap fun k => leBytes 4 (getToken c k).puts ++ leBytes 4 (getToken c k).takes) ++
    ((List.range 5).flatMap fun e => leBytes 4 (getCsn c e).toNat) ++ leBytes 4 c.markL.length ++ leBytes 4 c.markS.length ++
    List.replicate 12 0 ++ leBytes 8 (coreSlip c).toNat ++ List.replicate 248 0

/-- A core with every result in flight that has its value landed: after its stop it holds those issued before (R250). -/
def landAll (c : Core) : Core :=
  let fs := (c.flight.filter fun f => f.awaits.isNone).foldl (fun acc f => insertLanding f acc) []
  let c1 := fs.foldl (fun c f => landInto c f.dest f.val) c
  c.xlate.foldl (fun (c : Core) (x : XlateLanding) =>
    if x.outside then c else { c with regs := { c.regs with h := smSet 0 c.regs.h x.h x.val } }) c1

/-- The rest of a core's section: the register image (Table 9.11). -/
def sectionRegs (c0 : Core) : List Byte :=
  let c := landAll c0
  let rs (q : Seq) (n : Nat) : List SReg := (List.range n).map (readReg c q)
  let vals (l : List SReg) : List Byte := l.flatMap fun r => leBytes 8 r.val.toNat
  let bits (l : List SReg) : Nat := (l.zipIdx.map fun e => if e.1.static then 2 ^ e.2 else 0).sum
  vals (rs .c 32) ++ vals (rs .l 16) ++ vals (rs .s 16) ++
    ([.c, .l, .s].flatMap fun q => (List.range 4).flatMap fun j => leBytes 4 (readJt c q j).toNat) ++ List.replicate 208 0 ++
    ((List.range 32).flatMap fun h => leBytes 8 (readHandle c h).toNat) ++
    ((List.range 8).flatMap fun m => leBytes 16 (readMask c m).toNat) ++
    leBytes 8 (bits (rs .c 32) + bits (rs .l 16) * 2 ^ 32 + bits (rs .s 16) * 2 ^ 48) ++ List.replicate 2424 0 ++
    ((List.range 32).flatMap fun v => bytesOfLanes (readVec c v))

/-- The state with writes dropped that abandoned commands would have made later. -/
def dropFuture (s : State) (ids : List Nat) : State :=
  s.cores.foldl (fun (s : State) (e : Nat × Core) =>
    if e.2.recent.any fun w => decide (s.cyc < w.cyc) then
      updCore s e.1 fun c => { c with recent := c.recent.filter fun w => decide (w.cyc ≤ s.cyc) || !ids.contains w.cmd }
    else s) s

/-- The state with a core's row-engine commands abandoned, their bin entries with them. -/
def abandonRows (s : State) (p : Nat) : State :=
  let d := p / 128
  let ids := ((getRows s d).filter fun r => decide (r.core = p)).map (·.id)
  if ids = [] then s
  else
    dropFuture (dropEntries (setRows s d ((getRows s d).filter fun r => decide (r.core ≠ p))) d ids) ids

/-- A core whose stop cycle is given, stopped: its engines abandon every command not yet complete and post nothing (R248); of the results in
flight those of words issued before the stop cycle still land (R250). -/
def abandonCore (cyc stop : Nat) (c : Core) : Core :=
  { c with
    flight := c.flight.filter fun f => decide (f.made < stop), xlate := c.xlate.filter fun x => decide (x.due < stop + 16),
    posts := [], copyQ := [], matQ := [], tileQ := [], feedQ := [], storeQ := [], binQ := [], topkQ := [], pushes := [], takers := [],
    lqOrder := [], obNext := [], stopAt := some (match c.stopAt with | some x => min x cyc | none => cyc),
    recent := c.recent.filter fun w => decide (w.cyc ≤ cyc) }

/-- Whether a core of a trapping launch has still to stop, and its cycle has come. -/
def coreStopDue (s : State) (n p : Nat) : Bool :=
  ((getLaunch s n).run.bind (·.trap)).any fun t =>
    let c := getCore s p
    decide (c.launch = some n) && decide (coreStopCycle t p c ≤ s.cyc) &&
      ((getLaunch s n).run.any fun r => (r.sections.all fun e => decide (e.1 ≠ c.lidx)))

/-- CORE_STOP (R248, R250, R368). -/
def execCoreStop (n p : Nat) (s : State) : Out :=
  if !coreStopDue s n p then .next s
  else
    let l := getLaunch s n
    let c := getCore s p
    match l.run with
    | none => .next s
    | some r =>
      match r.trap with
      | none => .next s
      | some t =>
        let stop := match c.stopAt with | some x => x - 1 | none => coreStopCycle t p c
        let s1 := setLaunch s n { l with run := some { r with sections := mapPut r.sections c.lidx (sectionCut c stop) } }
        .next (cancelColls (abandonRows (updCore s1 p (abandonCore s.cyc stop)) p) n)

/-! ### TRAP_SEGMENT_END (R249 to R253, R329) -/

/-- Whether a cause is restartable (R251). -/
def restartable (cause : Nat) : Bool :=
  decide (cause = 0x10) || decide (cause = 0x13) || decide (cause = 0x20) || decide (cause = 0x22)

/-- Traps in that order. -/
def insertTrap (t : Trap) : List Trap → List Trap
  | [] => [t]
  | x :: xs => if trapBefore t x then t :: x :: xs else x :: insertTrap t xs

/-- The recorded cause, and the others of the stop window (R249). -/
def sortTraps (ts : List Trap) : List Trap := ts.foldl (fun acc t => insertTrap t acc) []

/-- SECOND: the earliest launch-ending cause among the others, or the earliest of them (R249). -/
def secondCause (ts : List Trap) : Nat :=
  match ts.find? (fun t => !restartable t.cause) with
  | some t => t.cause
  | none => (ts.head?.map (·.cause)).getD 0

/-- A key slot with the acceptances that a launch has made since its segment's entry undone (R329): the larger of its value at the entry
and the largest counter that others have had accepted since; EMPTY only where it was set at the entry and no other has been accepted. -/
def undoKey (launch entry : Nat) (was : Bool × Nat) (k : KeySlot) : KeySlot :=
  let mine (e : Nat × Nat × Nat) : Bool := decide (e.1 = launch) && decide (entry ≤ e.2.1)
  if !k.log.any mine then k
  else
    let others := k.log.filter fun e => decide (entry ≤ e.2.1) && !mine e
    { k with
      empty := was.1 && others.isEmpty, last := (others.map fun e => e.2.2).foldl max was.2, log := k.log.filter fun e => !mine e }

/-- A core returned to its segment's entry state (R251): scratchpad and control memory stay as the aborted run left them. -/
def rewindCore (c : Core) : Core := { clearSegment c with regs := c.entry, bars := [], inbound := [] }

/-- The lines that wait at an inbound port, in the order in which it takes them (R204). -/
def insertIn (r : InReq) : List InReq → List InReq
  | [] => [r]
  | x :: xs => if inBefore r x then r :: x :: xs else x :: insertIn r xs

/-- The state with the die accesses that still wait at a core's inbound port performed in their order: those words issued before the stop, and
their results land (R250). DEDUCED: they do so by the end of the stop window (log 104). -/
def drainInbound (s : State) (p : Nat) : State :=
  ((getCore s p).inbound.foldl (fun acc r => insertIn r acc) []).foldl (fun s r =>
    let (rd, wr, n) := inAccess r
    if decide (r.party ≠ .copy) && phaseOk (getCore s p) 6 s.cyc rd wr r.addr n then inPerform s p r else s)
    (updCore s p fun c => { c with inbound := [] })

/-- The complete sections of the trap record: each core's cut, then its registers (R250). -/
def fullSections (s : State) (l : Launch) (r : SegRun) : SMap (List Byte) :=
  l.cores.zipIdx.map fun e => (e.2, sliceBytes (smGet [] r.sections e.2) 0 512 ++ sectionRegs (getCore s e.1))

/-- The state with a segment's abort done to everything but the launch's own fate: energy settled, programs stopped, key slots rolled
back where it is to be replayed (R215, R242, R329). -/
def abortSegment (s : State) (n : Nat) (r : SegRun) : State := stopChannels (settleEnergy s n r) n

/-- The state with the key-slot acceptances of a launch's aborted segment run undone. -/
def undoKeys (s : State) (n : Nat) (r : SegRun) : State :=
  r.keys0.foldl (fun (s : State) e => setKey s e.1 (undoKey n r.entry e.2 (getKey s e.1))) s

/-- The state with a launch to be replayed from its segment's entry (R251). -/
def replaySegment (s : State) (n : Nat) (r : SegRun) : State :=
  let s1 := undoKeys (abortSegment s n r) n r
  let s2 := (getLaunch s1 n).cores.foldl (fun (s : State) (p : Nat) => updCore s p rewindCore) s1
  let l := getLaunch s2 n
  setLaunch s2 n { l with phase := .waiting, run := none, row := l.row + 1, replays := l.replays + 1, halt := false, endCyc := s.cyc }

/-- Whether TRAP_SEGMENT_END acts in the cycle. -/
def trapEndDue (s : State) (n : Nat) : Bool :=
  ((getLaunch s n).run.bind (·.trap)).any (fun t => decide (t.cyc + 192 ≤ s.cyc)) &&
    (getLaunch s n).cores.all fun p => !coreStopDue s n p

/-- TRAP_SEGMENT_END (R248 to R253, R106, R329): the segment is replayed, after the missing translation of a 0x22 is installed; or the
launch ends, by a cause that is not restartable, by a page without a mapping, or at the seventeenth consecutive replay. -/
def execTrapSegmentEnd (n : Nat) (s : State) : Out :=
  if !trapEndDue s n then .next s
  else
    let l := getLaunch s n
    match l.run with
    | none => .next s
    | some r =>
      match sortTraps (r.trap.toList ++ r.others) with
      | [] => .next s
      | t :: rest =>
        let s := l.cores.foldl drainInbound s
        let multi := !rest.isEmpty
        let fatal := (t :: rest).any fun x => !restartable x.cause
        let found := if t.cause = 0x22 then lookupTrans (getWorld s l.world).table t.faddr else none
        let noMap := decide (t.cause = 0x22) && found.isNone
        let limit := decide (16 ≤ l.row)
        if fatal || noMap || limit then
          let flags := (if noMap then 1 else 0) + (if limit && !fatal && !noMap then 2 else 0)
          .next (endByTrap (abortSegment s n r) n r.seg t multi (secondCause rest) flags (fullSections s l r))
        else
          let s1 := match found with
            | some x => setLaunch s n { l with installs := (l.installs ++ [(t.lidx, x)]).dedup }
            | none => s
          .next (replaySegment s1 n r)

/-! ### REVOCATION_BROADCAST (R105, R108) -/

/-- REVOCATION_BROADCAST (R108, R105): the translation leaves the world's table and every launch's installs, and each core of the
world's launches learns of the PID and T, those sealed at a frame edge among them; T lies at least 256 cycles ahead. -/
def execRevocationBroadcast (world : Nat) (pid : BitVec 12) (t : Nat) (s : State) : Out :=
  if t < s.cyc + Config.revocationLead then .next s
  else
    let s1 := updWorld s world fun w => { w with
      table := w.table.filter fun x => decide (x.pid ≠ pid), gone := w.gone ++ w.table.filter fun x => decide (x.pid = pid) }
    let s2 := s1.launches.foldl (fun (s : State) (e : Nat × Launch) =>
      if e.2.world = world then
        setLaunch s e.1 { e.2 with
          installs := e.2.installs.filter fun x => decide (x.2.pid ≠ pid),
          images := e.2.images.map fun x => (x.1, { x.2 with revoked := x.2.revoked ++ [(pid, t)] }) }
      else s) s1
    .next (s2.cores.foldl (fun (s : State) (e : Nat × Core) =>
      if e.2.launch.isSome ∧ e.2.world = world then updCore s e.1 fun c => { c with revoked := c.revoked ++ [(pid, t)] } else s) s2)

end Sys2Proof.Machine
end

