-- ==== Sys2Proof/Machine/Host.lean ====
section
/-!
DEFINITION. The PCIe port: launch queues, key imports, replica switches, register windows, TDISP, the SPDM responder, functions and
their reset, debug reads, and the requests and announcements that ports carry in (R118, R142, R222, R224, R254, R277 to R296, R299,
R302). The host's events stand for requests that the port has accepted (log 40); one due later leaves the state as it is.
-/

namespace Sys2Proof.Machine

open Sys2Proof

/-! ### Accepted writes -/

/-- Whether a virtual function's writes reach the device: it is enabled, frames run, and in RUN a stream is bound (R277, R280,
R314). -/
def vfOpen (s : State) (w : Nat) : Bool :=
  let x := getWorld s w
  decide (1 ≤ w) && decide (w ≤ 63) && x.enabled && framesRun s && (decide (x.tdisp ≠ .run) || x.stream.isSome)

/-- Whether the PF's DOE mailbox answers: the identity keys exist and the package is not in recovery (R289, R314, R315). -/
def doeOpen (s : State) : Bool :=
  match s.boot with
  | .running => true
  | .step n => decide (3 ≤ n)
  | _ => false

/-- A write of bytes at an offset, cut to a window of n bytes at a base: the place in the window, and the bytes. -/
def clipWrite (base n off : Nat) (bs : List Byte) : Nat × List Byte :=
  let lo := max base off
  let hi := min (base + n) (off + bs.length)
  (lo - base, (bs.drop (lo - off)).take (hi - lo))

/-- A window's memory after a write at an offset of the region it lies in. -/
def windowWrite (m : List Host.Cell) (base n off : Nat) (bs : List Byte) : List Host.Cell :=
  let c := clipWrite base n off bs
  if c.2 = [] then m else memWrite m c.1 c.2

/-- The number that stands for the host among packages: the domain's are 0 to 1,023 (R296). -/
def hostPkg : Nat := 1024

/-! ### Launch queues (R222, R224, Table 9.1) -/

/-- The records of a queue's ring. -/
def ringSize (w : World) : Nat := 2 ^ (if 4 ≤ w.qlog2 ∧ w.qlog2 ≤ 12 then w.qlog2 else 12)

/-- The state with a world's queue created, empty, IGN and DROP cleared, where EN was 0 (R222). -/
def createQueue (s : State) (world qlog2 : Nat) : State :=
  if !vfOpen s world || (getWorld s world).lqEn then s
  else
    updWorld s world fun w => { w with
      lqEn := true, qlog2 := qlog2, tail := 0, head := 0, ign := false, dropped := false, fetch := none, ring := [] }

/-- The state with a world's queue destroyed where EN was 1: a record in fetch is dropped, the ring released (R224). -/
def destroyQueue (s : State) (world : Nat) : State :=
  if !vfOpen s world || !(getWorld s world).lqEn then s
  else updWorld s world fun w => { w with lqEn := false, dropped := w.dropped || w.fetch.isSome, fetch := none, ring := [] }

/-- The state with LQ_TAIL written in the cycle; with EN = 0 the write is ignored and IGN set (R222). -/
def ringDoorbell (s : State) (world tail : Nat) : State :=
  if !vfOpen s world then s
  else updWorld s world fun w => if w.lqEn then { w with tail := tail % ringSize w, rung := s.cyc } else { w with ign := true }

/-- The state with bytes written into the record window; with EN = 0 the write is ignored and IGN set (R222). -/
def writeRecords (s : State) (world offset : Nat) (bytes : List Byte) : State :=
  if !vfOpen s world then s
  else
    updWorld s world fun w =>
      if w.lqEn then { w with ring := windowWrite w.ring 0 (2 ^ 20) offset bytes } else { w with ign := true }

/-- LQ_CREATE (R222): EN goes from 0 to 1. -/
def execLqCreate (world : Nat) (qlog2 : BitVec 4) (s : State) : Out := .next (createQueue s world qlog2.toNat)

/-- LQ_DESTROY (R224): EN goes from 1 to 0. -/
def execLqDestroy (world : Nat) (s : State) : Out := .next (destroyQueue s world)

/-- DOORBELL (R222): a write to LQ_TAIL. -/
def execDoorbell (world : Nat) (tail : BitVec 12) (s : State) : Out := .next (ringDoorbell s world tail.toNat)

/-- RECORD_WINDOW_WRITE (R222): a write into the 1 MiB record window. -/
def execRecordWindowWrite (world offset : Nat) (bytes : List Byte) (s : State) : Out := .next (writeRecords s world offset bytes)

/-- Whether a world's interface lets records be fetched (Table 11.2). -/
def fetchAllowed (w : World) : Bool := decide (w.tdisp = .unlocked) || decide (w.tdisp = .run)

/-- Whether a bin entry is a host's write to a world's carve-out that came before the world's latest doorbell. -/
def writtenBefore (world rung : Nat) (e : BinEntry) : Bool :=
  match e.who with
  | .port r => decide (r.pkg = hostPkg) && decide (r.target = world) && e.write && decide (e.since ≤ rung)
  | _ => false

/-- Whether a host's write that came before a world's latest doorbell is still to be made: the segments that the doorbell's records admit
see it, so that their fetch waits for it (R221; DEDUCED, log 99). -/
def writesOwed (s : State) (world : Nat) : Bool :=
  let mine := writtenBefore world (getWorld s world).rung
  s.ports.any mine || s.chans.any fun (e : Nat × Channel) => e.2.bin1.any mine || e.2.windows.any fun v => mine v.entry

/-- Whether a world's record fetch is to begin or has returned (R221, R222, R224). -/
def recordFetchDue (s : State) (world : Nat) : Bool :=
  let w := getWorld s world
  decide (1 ≤ world) && w.enabled && framesRun s && w.lqEn && fetchAllowed w &&
    match w.fetch with
    | none => decide (w.head ≠ w.tail) && !writesOwed s world
    | some d => decide (d ≤ s.cyc)

/-- LAUNCH_RECORD_FETCH (R224): the 256-byte read at HEAD begins; once it has returned, HEAD advances and the record waits for
admission. -/
def execLaunchRecordFetch (world : Nat) (s : State) : Out :=
  if !recordFetchDue s world then .next s
  else
    let w := getWorld s world
    match w.fetch with
    | none =>
      let (k, s1) := freshFree s
      .next (setWorld s1 world { w with fetch := some (s.cyc + Config.returnDelay k) })
    | some _ =>
      let (n, s1) := freshId s
      let rec_ := memRead w.ring (256 * w.head) 256
      let s2 := setWorld s1 world { w with fetch := none, head := (w.head + 1) % ringSize w }
      .next (setLaunch s2 n { Launch.zero with world := world, record := rec_, order := n })

/-! ### Key imports (R285 to R288, Tables 11.3 to 11.5) -/

/-- The state with an import of a world's window started; while BUSY, GO is ignored (R286). -/
def startImport (s : State) (world : Nat) : State :=
  if !vfOpen s world || (getWorld s world).keyBusy.isSome then s
  else
    let (k, s1) := freshFree s
    updWorld s1 world fun w => { w with keyBusy := some (s.cyc + Config.returnDelay k) }

/-- KEY_IMPORT_GO (R286): GO starts an import. -/
def execKeyImportGo (world : Nat) (s : State) : Out := .next (startImport s world)

/-- HDR of an import record. -/
def impHdr (r : List Byte) : Nat := leField r 0 8
/-- TYPE. -/
def impType (r : List Byte) : Nat := bitsOf (impHdr r) 7 0
/-- SLOT. -/
def impSlot (r : List Byte) : Nat := bitsOf (impHdr r) 19 8
/-- EPK's coordinates. -/
def impEpk (r : List Byte) : Nat × Nat := (beNat (sliceBytes r 8 32), beNat (sliceBytes r 40 32))

/-- Whether an import record breaks Table 11.4 before it is unwrapped. -/
def impMalformed (r : List Byte) : Bool :=
  let t := impType r
  decide (t = 0) || decide (3 < t) || decide (2 ^ 20 ≤ impHdr r) || decide (t = 1 ∧ impSlot r ≠ 0) ||
    decide (leNat (sliceBytes r 152 104) ≠ 0) || !p256OnCurve (impEpk r).1 (impEpk r).2

/-- The bytes of a key of each type (Table 11.3). -/
def keyLength (t : Nat) : Nat := if t = 1 then 64 else if t = 2 then 16 else 32

/-- The 64 plaintext bytes of a record, or none where its tag fails (R286). -/
def unwrapKey (priv : Nat) (r : List Byte) : Option (List Byte) :=
  match p256Ecdh priv (impEpk r).1 (impEpk r).2 with
  | none => none
  | some z =>
    let kek := hkdf32 (List.replicate 32 0) z (sliceBytes r 0 8)
    gcmOpen kek (List.replicate 12 0) (sliceBytes r 0 72) (sliceBytes r 72 64) (sliceBytes r 136 16)

/-- The digest of a sealed key's binding record (R287). -/
def bindingDigest (r key : List Byte) : BitVec 256 := BitVec.ofNat 256 (beNat (sha256 (sliceBytes r 0 72 ++ sha256 key)))

/-- A world's import with its code, and the state with the key pending where the code is 0 (R287, R288). DESIGN CHOICE: the record is what the
window holds when the import ends, a write while BUSY included (R286, log 126). -/
def importKey (s : State) (world : Nat) : State × Nat :=
  let w := getWorld s world
  let r := memRead w.keyWindow 0 256
  if w.tdisp ≠ .run then (s, 4)
  else if impMalformed r then (s, 2)
  else if impType r = 1 ∧ (w.sealKey.isSome ∨ w.sealPending.isSome) then (s, 3)
  else if impType r ≠ 1 ∧ (getKey s (impSlot r)).world ≠ some world then (s, 5)
  else
    match unwrapKey w.privKey.toNat r with
    | none => (s, 1)
    | some p =>
      let n := keyLength (impType r)
      if leNat (p.drop n) ≠ 0 then (s, 2)
      else if impType r = 1 then
        (setWorld s world { w with sealPending := some (BitVec.ofNat 512 (leNat p)), bindDigest := bindingDigest r p }, 0)
      else (setKey s (impSlot r) { getKey s (impSlot r) with pending := some (n, BitVec.ofNat 256 (leNat (p.take n))) }, 0)

/-- Whether an import has finished. -/
def keyImportDue (s : State) (world : Nat) : Bool :=
  match (getWorld s world).keyBusy with
  | some d => framesRun s && decide (d ≤ s.cyc)
  | none => false

/-- KEY_IMPORT_RESULT (R286 to R288): CODE is set, BUSY cleared and vector 1 signalled. -/
def execKeyImportResult (world : Nat) (s : State) : Out :=
  if !keyImportDue s world then .next s
  else
    let (s1, code) := importKey s world
    .next (reply (updWorld s1 world fun w => { w with keyBusy := none, keyCode := code }) 1 world [BitVec.ofNat 8 code])

/-! ### Replica tables (R302, Tables 11.8, 11.11) -/

/-- The state with D written to a world's RTCTL: the switch is armed, or LATE set where D has passed (R302). -/
def armSwitch (s : State) (world : Nat) (time : Word64) : State :=
  if !vfOpen s world then s
  else if time.toNat < s.dtime then
    reply (updWorld s world fun w => { w with rtSwitch := time, rtLate := true, rtArmed := false }) 2 world [2]
  else updWorld s world fun w => { w with rtSwitch := time, rtLate := false, rtArmed := true }

/-- REPLICA_SWITCH_ARM (R302): a write of D to RTCTL. -/
def execReplicaSwitchArm (world : Nat) (time : Word64) (s : State) : Out := .next (armSwitch s world time)

/-- One entry of a replica table (Table 11.11). -/
def replicaEntry (bs : List Byte) : List Nat :=
  let n := leField bs 0 1
  if 8 < n then [] else (List.range n).map fun k => leField bs (4 + 4 * k) 4 % 2 ^ 20

/-- The replica table that a window holds. -/
def parseReplicas (m : List Host.Cell) : Replicas :=
  ((m.map fun (e : Host.Cell) => e.1 / 64).dedup).foldl (fun t e => smSet [] t e (replicaEntry (memRead m (64 * e) 64))) []

/-- Whether a world's armed switch is due. -/
def replicaDue (s : State) (world : Nat) : Bool :=
  let w := getWorld s world
  w.rtArmed && framesRun s && decide (w.rtSwitch.toNat ≤ s.dtime)

/-- REPLICA_TABLE_SWITCH (R302): at DTIME = D the next table becomes current, and vector 2 is signalled. -/
def execReplicaTableSwitch (world : Nat) (s : State) : Out :=
  if !replicaDue s world then .next s
  else
    .next (reply (updWorld s world fun w => { w with rtArmed := false, curReplica := parseReplicas w.nextReplica }) 2 world [0])

/-! ### REGISTER_WRITE (R278, R280) -/

/-- A flow window after a host write: RCORE keeps what the package manager wrote (Table 11.10). -/
def flowWindowWrite (m : List Host.Cell) (off : Nat) (bs : List Byte) : List Host.Cell :=
  let m1 := windowWrite m 0x38000 0x8000 off bs
  let c := clipWrite 0x38000 0x8000 off bs
  if c.2 = [] then m
  else
    (List.range ((c.1 + c.2.length - 1) / 32 - c.1 / 32 + 1)).foldl (fun m2 k =>
      let a := 32 * (c.1 / 32 + k) + 8
      memWrite m2 a [memGet m a, (memGet m1 (a + 1) &&& 0xFE#8) ||| (memGet m (a + 1) &&& 1#8)]) m1

/-- The 64-bit register at an offset, where a write holds it whole; a register written in part keeps its value (log 101). -/
def wholeReg (r off : Nat) (bs : List Byte) : Option Word64 :=
  if off ≤ r ∧ r + 8 ≤ off + bs.length then some (BitVec.ofNat 64 (leField bs (r - off) 8)) else none

/-- The state with a register's write performed, where the write holds it. -/
def onReg (r off : Nat) (bs : List Byte) (f : State → Word64 → State) (s : State) : State :=
  match wholeReg r off bs with
  | some v => f s v
  | none => s

/-- The state with the registers of BAR0 written that a write holds (Tables 9.1, 11.5, 11.8): LQ_CTL, LQ_TAIL, KEYCTL, RTCTL; the others
are read-only. DESIGN CHOICE: a write of LQ_CTL that does not take EN from 0 to 1 stores no QLOG2 (R222, log 114). -/
def writeRegs (world off : Nat) (bs : List Byte) (s : State) : State :=
  let ctl := onReg 0x000 off bs fun s v => if v.getLsbD 0 then createQueue s world (v.extractLsb' 4 4).toNat else destroyQueue s world
  let tail := onReg 0x008 off bs fun s v => ringDoorbell s world (v.extractLsb' 0 12).toNat
  let key := onReg 0x100 off bs fun s v => if v.getLsbD 0 then startImport s world else s
  let rt := onReg 0x180 off bs fun s v => armSwitch s world v
  rt (key (tail (ctl s)))

/-- What BAR0 of a virtual function reads at an aligned offset of a register: its fields, the reserved bits zero (R9, R278, Tables 9.1, 11.5,
11.8). -/
def barReg (w : World) (r : Nat) : Nat :=
  let b (x : Bool) : Nat := if x then 1 else 0
  match r with
  | 0x000 => w.qlog2 % 16 * 16 + b w.lqEn
  | 0x008 => w.tail % 4096
  | 0x010 => w.head % 4096
  | 0x018 => b w.ign * 4 + b w.dropped * 2 + b w.fetch.isSome
  | 0x108 => b w.keyBusy.isSome * 256 + w.keyCode % 256
  | 0x180 => w.rtSwitch.toNat
  | 0x188 => b w.rtLate * 2 + b w.rtArmed
  | _ => 0

/-- A byte of BAR0 of a virtual function as its host reads it: a register's, a window's, or zero at an offset that is not listed
(R278, Table 11.1). -/
def barByte (w : World) (off : Nat) : Byte :=
  if off < 0x200 then BitVec.ofNat 8 (barReg w (off / 8 * 8) / 2 ^ (8 * (off % 8)))
  else if 0x20000 ≤ off ∧ off < 0x20100 then memGet w.keyWindow (off - 0x20000)
  else if 0x38000 ≤ off ∧ off < 0x40000 then memGet w.flowWindow (off - 0x38000)
  else if 0x40000 ≤ off ∧ off < 0x80000 then memGet w.nextReplica (off - 0x40000)
  else if 0x80000 ≤ off ∧ off < 0x82000 then memGet w.domainNext (off - 0x80000)
  else if 0x100000 ≤ off ∧ off < 0x200000 then memGet w.ring (off - 0x100000)
  else 0

/-- RCV_STAT: BUSY and CODE; none outside recovery (Table 12.6). -/
def recoveryStat (s : State) : Option Nat :=
  match s.boot with
  | .recovery busy code => some ((if busy then 256 else 0) + code % 256)
  | .accepted _ => some 6
  | _ => none

/-- What BAR0 of the physical function shows in recovery (R9, R315, Table 12.6). -/
def recoveryByte (s : State) (off : Nat) : Byte :=
  match recoveryStat s with
  | some stat =>
    if off < 16 then BitVec.ofNat 8 ((if off / 8 = 1 then stat else 0) / 2 ^ (8 * (off % 8)))
    else if 0x10000 ≤ off ∧ off < 0x10000 + 2 ^ 24 + 256 then memGet s.rcvWindow (off - 0x10000)
    else 0
  | none => 0

/-- The state with the verification of the recovery window started; while BUSY, LOAD is ignored (R315). -/
def startRecovery (s : State) : State :=
  match s.boot with
  | .recovery false code => { s with boot := .recovery true code }
  | _ => s

/-- The state with a write to BAR0 of the physical function made: in recovery it reaches the window and RCV_CTL (R315, Table 12.6). -/
def recoveryWrite (s : State) (off : Nat) (bs : List Byte) : State :=
  if (recoveryStat s).isNone then s
  else
    onReg 0x000 off bs (fun s v => if v.getLsbD 0 then startRecovery s else s)
      { s with rcvWindow := windowWrite s.rcvWindow 0x10000 (2 ^ 24 + 256) off bs }

/-- THE HOST'S READ of n bytes of BAR0 (R278): a function's own; world 0's only in recovery. -/
def barRead (s : State) (world off n : Nat) : List Byte :=
  (List.range n).map fun i =>
    if world = 0 then recoveryByte s (off + i)
    else if (getWorld s world).enabled then barByte (getWorld s world) (off + i)
    else 0

/-- REGISTER_WRITE (R278, R280, R315): a write to a register or window of BAR0; in RUN only with the TEE bit; in recovery, world 0's write
to RCV_CTL or the recovery window. An offset that is not listed ignores it. -/
def execRegisterWrite (world offset : Nat) (bytes : List Byte) (tee : Bool) (s : State) : Out :=
  if world = 0 then .next (recoveryWrite s offset bytes)
  else if !vfOpen s world || ((getWorld s world).tdisp = .run && !tee) then .next s
  else
    let s1 := if 0x100000 < offset + bytes.length ∧ offset < 0x200000 then
        writeRecords s world (clipWrite 0x100000 0x100000 offset bytes).1 (clipWrite 0x100000 0x100000 offset bytes).2
      else s
    .next (updWorld (writeRegs world offset bytes s1) world fun w => { w with
      keyWindow := windowWrite w.keyWindow 0x20000 256 offset bytes,
      flowWindow := flowWindowWrite w.flowWindow offset bytes,
      nextReplica := windowWrite w.nextReplica 0x40000 0x40000 offset bytes,
      domainNext := windowWrite w.domainNext 0x80000 0x2000 offset bytes })

/-! ### The reset of a world (R254, R282, R311) -/

/-- The elements that a stopped row-engine command has applied: those of the lines it has written, or of the rows it has moved. -/
def rowsApplied (r : RowCmd) : Nat :=
  if rowKind r = .package then 16 * (r.done.filter fun d => decide (r.op ≠ 2) || decide (64 ≤ d.2)).length else r.row * (r.rb / 4)

/-- The reset report: each stopped row-engine command of a world, one that has not started among them (Table 9.12). DESIGN CHOICE: an entry of
the PF log is [1, world, core, op, elements applied] (log 121). -/
def resetReport (s : State) (world : Nat) : List (List Nat) :=
  s.rows.flatMap fun (e : Nat × List RowCmd) =>
    (e.2.filter fun r => decide ((getCore s r.core).world = world)).map fun r =>
      [1, world, r.core, r.op, rowsApplied r]

/-- The state with one launch ended by a reset in the cycle: its units stop, and make no write that they would have made later (R254,
R311). -/
def resetLaunch (s : State) (n : Nat) : State :=
  let l := getLaunch s n
  let s1 := match l.run with | some r => settleEnergy s n r | none => s
  let s2 := l.cores.foldl (fun (s : State) p =>
    updCore s p fun c => { c with recent := c.recent.filter fun w => decide (w.cyc ≤ s.cyc) }) (l.cores.foldl abandonRows s1)
  completeLaunch (cancelColls s2 n) n 0x201 0 s.cyc

/-- The state with every unfinished launch of the worlds that pass a test ended. -/
def resetLaunches (s : State) (which : Nat → Bool) : State :=
  ((s.launches.filter fun e => which e.2.world && !launchEnded e.2).map (·.1)).foldl resetLaunch s

/-- The state with a carve-out zeroed (R123): its lines are as nothing has written them since. -/
def zeroCarveOut (s : State) (base size : Nat) : State :=
  { s with
    pkg := memZero s.pkg base size,
    side := s.side.filter fun e => decide (e.1 < base / 64) || decide ((base + size) / 64 ≤ e.1),
    fixes := s.fixes.filter fun f => decide (f.1 < base) || decide (base + size ≤ f.1),
    chans := s.chans.map fun (e : Nat × Channel) =>
      (e.1, { e.2 with writes := e.2.writes.filter fun x => decide (x.2.1 < base) || decide (base + size ≤ x.2.1) }) }

/-- The state with the key slots of a world cleared (R282). -/
def clearKeys (s : State) (world : Nat) : State :=
  s.keys.foldl (fun (s : State) (e : Nat × KeySlot) =>
    if e.2.world = some world then setKey s e.1 { KeySlot.zero with world := e.2.world } else s) s

/-- THE RESET OF A WORLD (R254, R282): its units stop and its launches end with 0x0201; its keys are cleared, its key pair destroyed,
its carve-out zeroed; the PF learns what each stopped row-engine command had applied. -/
def resetWorld (s : State) (world : Nat) : State :=
  let s1 := { s with pfLog := s.pfLog ++ resetReport s world }
  let s2 := clearKeys (resetLaunches s1 (fun w => decide (w = world))) world
  let w := getWorld s2 world
  let s3 := setWorld s2 world { w with
    sealKey := none, sealPending := none, bindDigest := 0, privKey := 0, keyBusy := none, fetch := none, gone := [] }
  zeroCarveOut s3 w.cbase w.csize

/-! ### TDISP (R281 to R284, Table 11.2) -/

/-- The answers of the DOE mailbox: a message's kind and its bytes (log 27). -/
def rLock : Nat := 0x48
/-- START_INTERFACE_RESPONSE. -/
def rStart : Nat := 0x49
/-- STOP_INTERFACE_RESPONSE. -/
def rStop : Nat := 0x4A
/-- The interface report. -/
def rReport : Nat := 0x4B
/-- A certificate chain. -/
def rCert : Nat := 0x40
/-- A challenge's answer. -/
def rChallenge : Nat := 0x41
/-- A key exchange's answer. -/
def rKeyEx : Nat := 0x42
/-- The answer to SET_CERTIFICATE. -/
def rSetCert : Nat := 0x43
/-- Measurements. -/
def rMeas : Nat := 0x44
/-- An SPDM or TDISP error. -/
def rError : Nat := 0x4F

/-- INVALID_INTERFACE_STATE of TDISP (log 27). -/
def invalidInterfaceState : Byte := 4
/-- InvalidRequest of SPDM (log 27). -/
def invalidRequest : Byte := 1
/-- UnexpectedRequest of SPDM (log 27). -/
def unexpectedRequest : Byte := 4

/-- Whether a TDISP message reaches an interface: the mailbox answers and the VF is enabled. -/
def tdispOpen (s : State) (world : Nat) : Bool := doeOpen s && decide (1 ≤ world) && (getWorld s world).enabled

/-- LOCK_INTERFACE_REQUEST (R281, R285): CONFIG_UNLOCKED goes to CONFIG_LOCKED with a fresh key pair. -/
def execLockInterfaceRequest (world : Nat) (s : State) : Out :=
  if !tdispOpen s world then .next s
  else if (getWorld s world).tdisp ≠ .unlocked then .next (reply s rError world [invalidInterfaceState])
  else
    let (k, s1) := freshFree s
    let d := p256KeyFromSeed ((leBytes 64 (Config.drbg k).toNat).take 32)
    .next (reply (updWorld s1 world fun w => { w with tdisp := .locked, privKey := BitVec.ofNat 256 d }) rLock world [])

/-- START_INTERFACE_REQUEST (R281, R292): CONFIG_LOCKED goes to RUN; the image log starts. -/
def execStartInterfaceRequest (world : Nat) (s : State) : Out :=
  if !tdispOpen s world then .next s
  else if (getWorld s world).tdisp ≠ .locked then .next (reply s rError world [invalidInterfaceState])
  else .next (reply (updWorld s world fun w => { w with tdisp := .run, imageLog := 0 }) rStart world [])

/-- STOP_INTERFACE_REQUEST (R281, R282): any state goes to CONFIG_UNLOCKED, and the world is reset. -/
def execStopInterfaceRequest (world : Nat) (s : State) : Out :=
  if !tdispOpen s world then .next s
  else .next (reply (updWorld (resetWorld s world) world fun w => { w with tdisp := .unlocked }) rStop world [])

/-- A payload with the responder's signature by the alias key over its transcript (R284, R292, R317). -/
def signedAnswer (s : State) (kind world : Nat) (transcript payload : List Byte) : State :=
  let (k, s1) := freshFree s
  let digest := sha256 (Config.spdmFrame kind (transcript ++ payload))
  reply s1 kind world (payload ++ ecdsaSign s.alias_.toNat (Config.signNonce k).toNat digest)

/-- The world public key (R284): X then Y; zeros where no key pair exists. -/
def worldPublic (w : World) : List Byte := if w.privKey = 0 then List.replicate 64 0 else p256Public w.privKey.toNat

/-- The 128 bytes of device-specific data of the interface report (R284). -/
def reportData (world : Nat) (w : World) : List Byte :=
  leBytes 8 world ++ leBytes 8 w.cbase ++ leBytes 8 w.csize ++ worldPublic w ++ beBytes 32 w.bindDigest.toNat ++ List.replicate 8 0

/-- The interface report (R284): the standard report of one MMIO range, BAR0's 512 pages of 4 KiB, and no DMA-remapping capability, then
the device's own data. -/
def interfaceReport (world : Nat) (w : World) : List Byte := Config.standardReport 512 false ++ reportData world w

/-- GET_DEVICE_INTERFACE_REPORT (R284): answered only in a secure session, and where the interface is CONFIG_LOCKED or RUN. -/
def execGetDeviceInterfaceReport (world : Nat) (secure : Bool) (s : State) : Out :=
  if !tdispOpen s world then .next s
  else
    let w := getWorld s world
    if !secure || s.session.isNone then .next (reply s rError world [unexpectedRequest])
    else if w.tdisp = .locked ∨ w.tdisp = .run then .next (signedAnswer s rReport world [] (interfaceReport world w))
    else .next (reply s rError world [invalidInterfaceState])

/-- The state with an interface in ERROR (R282, Table 11.2). -/
def enterError (s : State) (world : Nat) : State :=
  updWorld (resetWorld s world) world fun w => { w with tdisp := .error }

/-- IDE_INTEGRITY_FAILURE (R280): every interface bound to the stream goes to ERROR. -/
def execIdeIntegrityFailure (stream : Nat) (s : State) : Out :=
  .next (((s.worlds.filter fun (e : Nat × World) => decide (e.2.stream = some stream) && e.2.enabled).map (·.1)).foldl enterError s)

/-- FROZEN_CONFIG_CHANGE (R281): in CONFIG_LOCKED or RUN the interface goes to ERROR. -/
def execFrozenConfigChange (world : Nat) (s : State) : Out :=
  let t := (getWorld s world).tdisp
  if (getWorld s world).enabled ∧ (t = .locked ∨ t = .run) then .next (enterError s world) else .next s

/-- IDE_STREAM_SETUP (R280): one of 64 streams is bound to an interface in CONFIG_UNLOCKED. DESIGN CHOICE: in any other state it is ignored,
with neither ERROR nor an answer (log 125). -/
def execIdeStreamSetup (stream world : Nat) (s : State) : Out :=
  if 64 ≤ stream ∨ !tdispOpen s world then .next s
  else if (getWorld s world).tdisp = .unlocked then .next (updWorld s world fun w => { w with stream := some stream })
  else .next s

/-! ### SPDM (R289 to R292) -/

/-- The certificates of a slot. -/
def certSlot (s : State) (slot : BitVec 3) : List Byte := smGet [] s.certs slot.toNat

/-- GET_CERTIFICATE (R291): the slot as it stands; an empty slot is InvalidRequest. -/
def execGetCertificate (slot : BitVec 3) (s : State) : Out :=
  if !doeOpen s then .next s
  else if certSlot s slot = [] then .next (reply s rError 0 [invalidRequest])
  else .next (reply s rCert 0 (certSlot s slot))

/-- CHALLENGE (R291): the digest of the slot's chain, signed with the alias key over the nonce. -/
def execChallenge (slot : BitVec 3) (nonce : BitVec 256) (s : State) : Out :=
  if !doeOpen s then .next s
  else if certSlot s slot = [] then .next (reply s rError 0 [invalidRequest])
  else .next (signedAnswer s rChallenge 0 (beBytes 32 nonce.toNat) (sha256 (certSlot s slot)))

/-- KEY_EXCHANGE (R289): ECDHE over P-256 with a key from the DRBG establishes the session. -/
def execKeyExchange (slot : BitVec 3) (peerX peerY : BitVec 256) (s : State) : Out :=
  if !doeOpen s then .next s
  else
    let (k, s1) := freshFree s
    let d := p256KeyFromSeed ((leBytes 64 (Config.drbg k).toNat).take 32)
    match certSlot s slot, p256Ecdh d peerX.toNat peerY.toNat with
    | _ :: _, some z =>
      let peer := beBytes 32 peerX.toNat ++ beBytes 32 peerY.toNat
      .next (signedAnswer { s1 with session := some (BitVec.ofNat 256 (beNat z)) } rKeyEx 0 (peer ++ sha256 (certSlot s slot))
        (p256Public d))
    | _, _ => .next (reply s rError 0 [invalidRequest])

/-- SET_CERTIFICATE (R290): slots 1 to 7 only inside a secure session; slot 0 is InvalidRequest. -/
def execSetCertificate (slot : BitVec 3) (secure : Bool) (bytes : List Byte) (s : State) : Out :=
  if !doeOpen s then .next s
  else if slot = 0 then .next (reply s rError 0 [invalidRequest])
  else if !secure || s.session.isNone then .next (reply s rError 0 [unexpectedRequest])
  else .next (reply { s with certs := smSet [] s.certs slot.toNat bytes } rSetCert 0 [])

/-- The measurement at an index (Table 11.6). -/
def measurement (s : State) (i : Nat) : Option (BitVec 256) :=
  if 1 ≤ i ∧ i ≤ 3 then some (s.meas.getD (i - 1) 0)
  else if 0x11 ≤ i ∧ i ≤ 0x4F then some (getWorld s (i - 0x10)).imageLog
  else if 0x51 ≤ i ∧ i ≤ 0x8F then some (getWorld s (i - 0x50)).bindDigest
  else none

/-- The measurements that an index asks for: 0xFF for all, each with its index (R292). -/
def measurementsAt (s : State) (index : Nat) : List (Nat × BitVec 256) :=
  (if index = 0xFF then List.range 255 else [index]).filterMap fun i => (measurement s i).map fun m => (i, m)

/-- GET_MEASUREMENTS (R292): the measurements asked for, signed with the alias key. -/
def execGetMeasurements (index : BitVec 8) (s : State) : Out :=
  if !doeOpen s then .next s
  else
    .next (signedAnswer s rMeas 0 []
      ((measurementsAt s index.toNat).flatMap fun m => BitVec.ofNat 8 m.1 :: beBytes 32 m.2.toNat))

/-! ### Functions (R101, R254, R277) -/

/-- Whether a range of package memory meets no other world's carve-out. -/
def carveFree (s : State) (world base size : Nat) : Bool :=
  s.worlds.all fun (e : Nat × World) =>
    decide (e.1 = world) || decide (base + size ≤ e.2.cbase) || decide (e.2.cbase + e.2.csize ≤ base) || decide (e.2.csize = 0)

/-- VF_ENABLE (R277, R100, R101, R123, R314, R317): the world is created with a carve-out inside package memory, clear of the rows that the
training found bad, zeroed, and its keys drawn; its units become its own as the frame table is rewritten (R238). -/
def execVfEnable (world cbase csize : Nat) (units : List Nat) (s : State) : Out :=
  if !framesRun s || decide (world = 0) || decide (63 < world) || (getWorld s world).enabled || decide (csize = 0) ||
      decide (cbase % 2 ^ 30 ≠ 0) || decide (csize % 2 ^ 30 ≠ 0) || decide (3 * 2 ^ 37 < cbase + csize) || !carveFree s world cbase csize ||
      s.badRows.any fun a => decide (cbase ≤ a) && decide (a < cbase + csize) then
    .next s
  else
    let (k, s1) := freshFree s
    let (j, s2) := freshFree s1
    .next (zeroCarveOut (setWorld s2 world { World.zero with
      enabled := true, cbase := cbase, csize := csize, lineKey := Config.drbg k, macKey := (Config.drbg j).setWidth 256,
      units := units.filter fun u => decide (u < 1028) }) cbase csize)

/-- VF_RESET (R254, Table 9.12): the world is reset, and its function's registers return to their reset values. -/
def execVfReset (world : Nat) (s : State) : Out :=
  if !(getWorld s world).enabled || decide (world = 0) then .next s
  else
    .next (updWorld (resetWorld s world) world fun w => { World.zero with
      enabled := true, units := w.units, idle := w.idle, cbase := w.cbase, csize := w.csize, lineKey := w.lineKey, macKey := w.macKey,
      flows := w.flows, domain := w.domain, faultLog := w.faultLog, faultOver := w.faultOver, powerLog := w.powerLog,
      errorLog := w.errorLog })

/-- KEY_SLOT_ASSIGNMENT (R288): the PF assigns a slot to at most one world; in recovery it shows no such register (R315). -/
def execKeySlotAssignment (slot world : Nat) (s : State) : Out :=
  if framesRun s ∧ slot < 4096 ∧ 1 ≤ world ∧ world ≤ 63 ∧ (getKey s slot).world = none then
    .next (setKey s slot { KeySlot.zero with world := some world })
  else .next s

/-! ### DEBUG_READ (R118, Table 4.9) -/

/-- The kind of a debug read's answer. -/
def rDebug : Nat := 0x50

/-- The state with a debug read refused: 0x32 in the world's fault log, vector 3 (R118, R279). -/
def refuseDebug (s : State) (world : Nat) (bs : List Byte) : State :=
  reply (reply (updWorld s world fun w => { w with faultLog := w.faultLog ++ [[0x32]] }) 3 world []) rDebug world (0x32 :: bs)

/-- DEBUG_READ (R118): a line of the world's carve-out as it is stored, or 64 bytes of a scratchpad of the world; a cellar line and
the B buffer are refused, and the B buffer reads as zero. -/
def execDebugRead (world : Nat) (t : DebugTarget) (s : State) : Out :=
  let w := getWorld s world
  if !w.enabled then .next s
  else
    match t with
    | .line a =>
      let x := readLine s (a / 64 * 64) s.cyc
      if a < w.cbase ∨ w.cbase + w.csize ≤ a then .next (reply s rDebug world [1])
      else if cellarLine s world a || x.line.ot.getLsbD 6 then .next (refuseDebug s world [])
      else .next (reply s rDebug world (0 :: lineBytes x.line.data))
    | .scratchpad p off =>
      if p < 512 ∧ (getCore s p).world = world then .next (reply s rDebug world (0 :: spadNow (getCore s p) s.cyc off 64))
      else .next (reply s rDebug world [1])
    | .bBuffer _ _ => .next (refuseDebug s world (List.replicate 64 0))

/-! ### Requests from the ports (R142, R293 to R296, R299) -/

/-- Whether a request comes from the host of its target world, in RUN with the TEE bit on the interface's bound stream (R280, R281). -/
def hostAllowed (s : State) (r : RemoteReq) : Bool :=
  let w := getWorld s r.target
  decide (r.pkg = hostPkg ∧ r.world = r.target) && (decide (w.tdisp ≠ .run) || r.tee && w.stream.isSome)

/-- Whether a port's request may enter its target's carve-out: it is the host's or the tables name each other, the line lies inside, and
in a page that a port may reach (R115, R119, R280, R281, R294, R296). -/
def portAllowed (s : State) (r : RemoteReq) : Bool :=
  let w := getWorld s r.target
  w.enabled && decide (r.offset + 64 ≤ w.csize) && (hostAllowed s r || namesBack s r.target r.pkg r.world) &&
    portPage s r.target ((w.cbase + r.offset) / 64 * 64)

/-- The state with a port's request in its channel's remote bin, or refused (R142, R294). -/
def acceptRequest (s : State) (r : RemoteReq) : State :=
  if portAllowed s r then queueEntry s (portEntry s r) else portReply s r 1 [] 0

/-- REMOTE_REQUEST (R142, R294, R296). -/
def execRemoteRequest (r : RemoteReq) (s : State) : Out := if framesRun s then .next (acceptRequest s r) else .next s

/-- SCEMEL_FLIT_RECEIVE (R293): a flit of one of the sixteen ports that passes its check under the port's link key delivers its lines; one
that fails, or comes before a key is agreed, is dropped. The check itself is the link's (log 100). -/
def execScemelFlitReceive (port : Nat) (ok : Bool) (lines : List RemoteReq) (s : State) : Out :=
  if s.linkKeys.any (fun e => decide (e.1 = port)) && ok && framesRun s then .next ((lines.take 3).foldl acceptRequest s) else .next s

/-- Whether the enrolment of another package's launch in g joins a group: with that package's world, or with a world of this package whose
table names it (R299). -/
def groupTheirs (s : State) (g pkg world : Nat) (e : Nat × Nat × List (Nat × Nat × Nat)) : Bool :=
  decide (e.1 = g) &&
    e.2.2.any fun x => decide (x.1 = pkg ∧ x.2.1 = world) || (decide (x.1 = s.domain.getD 0) && namesBack s x.2.1 pkg world)

/-- GROUP_ENROLMENT (R299): another package's launch joins a group with the worlds of this package whose tables name it. -/
def execGroupEnrolment (group count pkg world : Nat) (s : State) : Out :=
  let mine := groupTheirs s group pkg world
  if group = 0 ∨ s.domain.isNone ∨ s.domain = some pkg ∨ joinBad s mine count then .next s
  else .next (settleColls (joinGroups s mine group count fun k => (pkg, world, k)))

/-- The link keys of the sixteen ports, as the two package managers agree them in an SPDM session on each port pair (R293, log 100). -/
def agreedKeys (free : Nat) : SMap (BitVec 256) := (List.range 16).map fun p => (p, (Config.drbg (free + p)).setWidth 256)

/-- The groups with the own package's members under a new domain number; before the first bring-up they stand under 0 (R299). -/
def renumberGroups (groups : List (Nat × Nat × List (Nat × Nat × Nat))) (old : Option Nat) (new : Nat) :
    List (Nat × Nat × List (Nat × Nat × Nat)) :=
  groups.map fun g => (g.1, g.2.1, g.2.2.map fun m => if m.1 = old.getD 0 then (new, m.2) else m)

/-- LINK_BRING_UP (R293, R296, R297): the link keys are agreed, and world 0 assigns the domain number, which holds until the link is reset: a
later bring-up follows such a reset (log 26). The lowest number is the time source, as number 0 always is; `source` says so of
another (log 26). -/
def execLinkBringUp (pkg : Nat) (source : Bool) (s : State) : Out :=
  if doeOpen s ∧ pkg < 1024 then
    .next { s with
      domain := some pkg, source := source || decide (pkg = 0), linkKeys := agreedKeys s.free, free := s.free + 16,
      groups := renumberGroups s.groups s.domain pkg }
  else .next s

end Sys2Proof.Machine
end

