-- ==== Sys2Proof/Machine/Network.lean ====
section
/-!
DEFINITION. The Ultra Ethernet ports: packets, ingress rings and their swaps (R168 to R170, R304 to R306).
-/

namespace Sys2Proof.Machine

open Sys2Proof

/-- The party place of a port: on no compute die, so that its writes are seen after 192 cycles (Table 8.2, log 41). -/
def portPlace : Nat := 600

/-- A flow of a world. -/
def getFlow (s : State) (world flow : Nat) : Option NetFlow :=
  ((getWorld s world).flows.find? fun (e : Nat × NetFlow) => decide (e.1 = flow)).map (·.2)

/-- The state with a flow replaced. -/
def setFlow (s : State) (world flow : Nat) (f : NetFlow) : State :=
  updWorld s world fun w => { w with flows := mapPut w.flows flow f }

/-- The state with bytes written into a flow's ring region by the port. -/
def ringWrite (s : State) (f : NetFlow) (off : Nat) (bs : List Byte) : State :=
  writeSpad s f.core portPlace 512 .port s.cyc (flowRbase f.entry + off) bs 0

/-- A packet's row (R168): its payload's length, its message sequence, its payload. DESIGN CHOICE: the payload is the plaintext, without the
tag that ends it on the wire (R305); so is the length that RB − 16 limits (log 110). -/
def packetRow (rb : Nat) (msg : Word64) (payload : List Byte) : List Byte :=
  leBytes 2 payload.length ++ List.replicate 6 0 ++ leBytes 8 msg.toNat ++ sliceBytes payload 0 (rb - 16)

/-- The state with a row appended to a flow's filling bin, which has room (R168). -/
def appendRow (s : State) (world flow : Nat) (f : NetFlow) (row : List Byte) : State :=
  let rb := flowRb f.entry
  setFlow (ringWrite s f ((f.filling * flowRcap f.entry + f.fill) * rb) row) world flow { f with fill := f.fill + 1 }

/-- The ring rule of a flow: 0 drop, 1 defer, 2 trap (Table 11.10). -/
def flowRule (f : NetFlow) : Nat := bitsOf (flowCtl f.entry) 3 2

/-- The state after an accepted packet has found the filling bin full (R169). DESIGN CHOICE: a deferred packet's sequence counts as the last
accepted in R305's test, a lost one's does not (log 111). -/
def ringFull (s : State) (world flow : Nat) (f : NetFlow) (msg : Word64) (row : List Byte) : State :=
  match flowRule f with
  | 1 =>
    let room := Config.overflowRows world flow
    if f.spill.length < room then
      let w := getWorld s world
      let rb := flowRb f.entry
      setFlow (portStore s world (w.cbase + flowOvf f.entry + f.deferred % room * rb) row) world flow
        { f with spill := f.spill ++ [row], deferred := f.deferred + 1, lastSeq := some msg.toNat }
    else setFlow s world flow { f with lost := f.lost + 1 }
  | 2 => setFlow s world flow { f with lost := f.lost + 1, trapPending := true }
  | _ => setFlow s world flow { f with lost := f.lost + 1 }

/-- A packet's plaintext: opened with the flow's key, its IV the message sequence and CTXID, both big-endian (R305). -/
def openPacket (s : State) (f : NetFlow) (msg : Word64) (payload : List Byte) : Option (List Byte) :=
  match (getKey s (flowKslot f.entry)).key with
  | some (32, k) =>
    if payload.length < 16 then none
    else
      let n := payload.length - 16
      gcmOpen (leBytes 32 k.toNat) (beBytes 8 msg.toNat ++ beBytes 4 (flowCtx f.entry)) [] (payload.take n) (payload.drop n)
  | _ => none

/-- The state after a port has taken a packet of a flow: discarded, lost, deferred or a row of the filling bin (R168, R169, R305,
R306). -/
def takePacket (s : State) (world flow : Nat) (msg : Word64) (payload : List Byte) : State :=
  match getFlow s world flow with
  | none => s
  | some f =>
    match (if (f.lastSeq.any fun q => decide (msg.toNat ≤ q)) then none else openPacket s f msg payload) with
    | none => setFlow s world flow { f with tagFail := f.tagFail + 1 }
    | some plain =>
      let rb := flowRb f.entry
      if rb - 16 < plain.length then setFlow s world flow { f with lost := f.lost + 1 }
      else
        let row := packetRow rb msg plain
        if f.fill < flowRcap f.entry then appendRow s world flow { f with lastSeq := some msg.toNat } row
        else ringFull s world flow f msg row

/-- Whether a flow delivers its packets in message-sequence order (ROD) rather than as they arrive (UUD) (Table 11.10). -/
def flowOrdered (f : NetFlow) : Bool := !bitOf (flowCtl f.entry) 1

/-- The cycles left until a flow's next swap. -/
def toSwap (f : NetFlow) (cyc : Nat) : Nat := 2 ^ flowRingLog2 f.entry - cyc % 2 ^ flowRingLog2 f.entry

/-- Whether a flow's ring swaps in the cycle. -/
def swapDue (s : State) (f : NetFlow) : Bool :=
  framesRun s && f.valid && decide (0 < s.cyc) && decide (s.cyc % 2 ^ flowRingLog2 f.entry = 0) && decide (f.swapped ≤ s.cyc)

/-- The state with a packet come to a flow's ring in its turn: one that comes too late to be written 192 cycles before the swap, or in the
swap's cycle before it, waits for the swap behind those that wait (R168, R306). -/
def ringPacket (s : State) (world flow : Nat) (msg : Word64) (payload : List Byte) : State :=
  match getFlow s world flow with
  | none => s
  | some f =>
    if swapDue s f || decide (toSwap f s.cyc < 192) then setFlow s world flow { f with held := f.held ++ [(msg, payload)] }
    else takePacket s world flow msg payload

/-- The packets that came before their turn, with one more, by message sequence. -/
def insertEarly (p : Word64 × List Byte) : List (Word64 × List Byte) → List (Word64 × List Byte)
  | [] => [p]
  | x :: xs => if p.1.toNat < x.1.toNat then p :: x :: xs else x :: insertEarly p xs

/-- The state with the packets brought to a ring whose turn has come under ROD: `early` from the sequence `next` on without a gap; a second
packet of a sequence comes to the ring too, which discards it (R304, R305). -/
def releaseEarly (world flow : Nat) : List (Word64 × List Byte) → Nat → State → State
  | [], next, s =>
    (match getFlow s world flow with
    | some f => setFlow s world flow { f with nextSeq := some next, early := [] }
    | none => s)
  | p :: ps, next, s =>
    if p.1.toNat = next then releaseEarly world flow ps (next + 1) (ringPacket s world flow p.1 p.2)
    else if p.1.toNat < next then releaseEarly world flow ps next (ringPacket s world flow p.1 p.2)
    else
      match getFlow s world flow with
      | some f => setFlow s world flow { f with nextSeq := some next, early := p :: ps }
      | none => s

/-- The state with a packet of an ordered flow taken in (R304): in its turn it comes to the ring, with those it has kept waiting; before
its turn it waits; one whose sequence has passed comes to the ring, which discards it (R305). DESIGN CHOICE: the first packet of a flow
fixes where its sequence begins (log 102), and a packet that is then discarded has had its turn, the first one too (log 127). -/
def orderedPacket (s : State) (world flow : Nat) (f : NetFlow) (msg : Word64) (payload : List Byte) : State :=
  let next := f.nextSeq.getD msg.toNat
  if msg.toNat < next then ringPacket s world flow msg payload
  else if next < msg.toNat then setFlow s world flow { f with early := insertEarly (msg, payload) f.early }
  else releaseEarly world flow f.early (next + 1) (ringPacket s world flow msg payload)

/-- PACKET_ARRIVAL (R168, R169, R304 to R306): under UUD a packet comes to its flow's ring as it arrives, under ROD in its turn. -/
def execPacketArrival (world flow : Nat) (msg : Word64) (payload : List Byte) (s : State) : Out :=
  match getFlow s world flow with
  | none => .next s
  | some f =>
    if !framesRun s || !f.valid then .next s
    else if flowOrdered f then .next (orderedPacket s world flow f msg payload)
    else .next (ringPacket s world flow msg payload)

/-- Whether a trap owed by a ring finds a segment of its world on the ring core (R169). -/
def ringTrapDue (s : State) (world : Nat) (f : NetFlow) : Bool :=
  f.trapOwed && decide ((getCore s f.core).world = world) && (runningOn s f.core).isSome

/-- The ring status line (R168). -/
def statusLine (f : NetFlow) : List Byte :=
  leBytes 2 f.fill ++ leBytes 1 f.filling ++ List.replicate 5 0 ++ leBytes 8 (f.cycles + 1) ++ List.replicate 48 0

/-- The state with a flow's bins swapped, its status line written and its spilled rows moved in (R168, R169). DESIGN CHOICE: the rows moved
in are the port's own copies, not what the overflow area in memory holds by then (log 112). -/
def swapBins (s : State) (world flow : Nat) (f : NetFlow) : State :=
  let cap := flowRcap f.entry
  let s1 := ringWrite s f (2 * cap * flowRb f.entry) (statusLine f)
  let f1 := { f with
    filling := 1 - f.filling, fill := 0, cycles := f.cycles + 1, swapped := s.cyc + 1, spill := f.spill.drop cap, held := [] }
  (f.spill.take cap).foldl (fun s row =>
    match getFlow s world flow with
    | some g => appendRow s world flow g row
    | none => s) (setFlow s1 world flow f1)

/-- The state with a flow's counters in its world's counter block (R170). -/
def writeCounters (s : State) (world flow : Nat) : State :=
  match getFlow s world flow with
  | none => s
  | some f =>
    portStore s world ((getWorld s world).cbase + flowCnt f.entry)
      (leBytes 8 f.lost ++ leBytes 8 f.deferred ++ leBytes 8 f.tagFail)

/-- The state with a ring's pending trap raised on the ring core, or owed where no segment runs there (R169). DESIGN CHOICE: DETAIL of its
record is zero: R155 lays out a ROUTE's only (log 120). -/
def ringTrap (s : State) (world flow : Nat) (f : NetFlow) : State :=
  if ringTrapDue s world { f with trapOwed := true } then
    raiseOn (setFlow s world flow { f with trapPending := false, trapOwed := false }) f.core (.seq .c) (Raise.of 0x40)
  else setFlow s world flow { f with trapPending := false, trapOwed := true }

/-- RING_SWAP (R168 to R170): at a ring cycle the bins swap, spilled rows and late packets follow, and the counters are written; a
trap it owes is raised then, or at the first issue of the next segment on the ring core. -/
def execRingSwap (world flow : Nat) (s : State) : Out :=
  match getFlow s world flow with
  | none => .next s
  | some f =>
    if !swapDue s f then
      if ringTrapDue s world f then .next (ringTrap s world flow f) else .next s
    else
      let s1 := if f.trapPending || f.trapOwed then ringTrap s world flow f else s
      match getFlow s1 world flow with
      | none => .next s1
      | some g =>
        .next (writeCounters (g.held.foldl (fun s p => takePacket s world flow p.1 p.2) (swapBins s1 world flow g)) world flow)

end Sys2Proof.Machine
end

