-- ==== Sys2Proof/Machine/Boot.lean ====
section
/-!
DEFINITION. Boot, recovery, identity, and the package manager's answers to temperature and supply (R307, R311 to R317).
-/

namespace Sys2Proof.Machine

open Sys2Proof

/-! ### Firmware images (R312, R313, Table 12.4) -/

/-- LENGTH. -/
def fwLength (m : List Host.Cell) : Nat := leNat (memRead m 12 4)
/-- SVN. -/
def fwSvn (m : List Host.Cell) : Nat := leNat (memRead m 8 4)
/-- DIGEST. -/
def fwDigest (m : List Host.Cell) : List Byte := memRead m 16 32

/-- The minimum security version: the fused one, or a later image's (R313). -/
def minimumSvn (s : State) : Nat := max s.minSvn Config.fusedMinSvn

/-- The boot ROM's verdict on an image (R313), by the codes of Table 12.6: 0 accepted. -/
def verifyImage (s : State) (m : List Host.Cell) : Nat :=
  let n := fwLength m
  let x := beNat (memRead m 112 32)
  let y := beNat (memRead m 144 32)
  if leNat (memRead m 0 4) ≠ 0x56454C44 then 1
  else if 2 ^ 24 < n ∨ n % 4096 ≠ 0 ∨ sha256 (memRead m 0 16 ++ memRead m 256 n) ≠ fwDigest m then 2
  else if BitVec.ofNat 256 (beNat (sha256 (memRead m 112 64))) ≠ Config.fusedKeyHash then 3
  else if !ecdsaVerify x y (fwDigest m) (beNat (memRead m 48 32)) (beNat (memRead m 80 32)) then 4
  else if fwSvn m < minimumSvn s then 5
  else 0

/-! ### Identity (R316, R317) -/

/-- A text's bytes. -/
def asciiBytes (t : String) : List Byte := t.toList.map fun c => BitVec.ofNat 8 c.toNat

/-- A 256-bit value's bytes, the highest first. -/
def be256 (v : BitVec 256) : List Byte := beBytes 32 v.toNat

/-- Measurements 0x01 to 0x03 (Table 11.6): the ROM identifier, the image's digest, the digest of FRAMELOG2 and the security version
(log 27). -/
def bootMeasurements (s : State) : List (BitVec 256) :=
  [Config.romId, BitVec.ofNat 256 (beNat (fwDigest s.flash)),
   BitVec.ofNat 256 (beNat (sha256 (Config.spdmFrame 3 (leBytes 1 s.frameLog2 ++ leBytes 1 (fwSvn s.flash)))))]

/-- The devid key (R316). -/
def devidKey : Nat := p256KeyFromSeed (hmacSha256 (be256 Config.uds) (asciiBytes "VLD-DEVID"))

/-- The alias key for measurements 0x01 to 0x03 (R316). -/
def aliasKey (ms : List (BitVec 256)) : Nat :=
  p256KeyFromSeed (hmacSha256 (hmacSha256 (be256 Config.uds) (ms.flatMap be256)) (asciiBytes "VLD-ALIAS"))

/-- Certificate slot 0: the vendor root, the devid certificate, and the alias certificate signed by the devid key (R317). -/
def slotZero (s : State) (k : Nat) (ms : List (BitVec 256)) : List Byte :=
  let body := Config.aliasCertificate (BitVec.ofNat 256 (aliasKey ms)) (ms.flatMap be256)
  Config.vendorChain ++ body ++ ecdsaSign devidKey (Config.signNonce (s.free + k)).toNat (sha256 body)

/-! ### PACKAGE_RESET_RELEASE (R314, Table 12.5) -/

/-- What a package reset leaves: the flash, the fused minimum, slots 1 to 7, and what lies outside the package (R314, R315). -/
def packageReset (s : State) : State :=
  { State.reset with
    free := s.free, flash := s.flash, minSvn := s.minSvn, certs := s.certs.filter fun e => decide (e.1 ≠ 0), host := s.host,
    domainMem := s.domainMem, inbox := s.inbox, outbox := s.outbox }

/-- Whether a row that the training found bad lies in a GiB of package memory. -/
def badGib (bad : List Nat) (g : Nat) : Bool := bad.any fun a => decide (a / 2 ^ 30 = g)

/-- World 0 with its carve-out, whole GiB of package memory that the package manager sets, clear of the rows that the training found bad
(R101, R314, log 106), and its keys, drawn as any world's (R121, R317). -/
def managerWorld (bad : List Nat) (k : Nat) : World :=
  let w := { World.zero with lineKey := Config.drbg k, macKey := (Config.drbg (k + 1)).setWidth 256 }
  match ((List.range 384).map fun i => (Config.managerBase.val + i) % 384).find? fun g => !badGib bad g with
  | none => w
  | some b =>
    let room := ((List.range (384 - b)).takeWhile fun i => !badGib bad (b + i)).length
    { w with cbase := b * 2 ^ 30, csize := (1 + Config.managerSpan % room) * 2 ^ 30 }

/-- The state after steps 3 to 5 of a boot whose image is accepted (R121, R237, R314, R316, R317): the configuration sets FRAMELOG2 to one
of 14 to 20 (log 83); a DRBG that cannot be seeded keeps the package in step 4, which the PF shows;
the errors of the training are logged and their rows kept out of every carve-out, world 0's among them (R101, log 64); entries of the PF log
are the model's (log 121). -/
def bootSteps (s : State) : State :=
  let s1 := { s with
    minSvn := max (minimumSvn s) (fwSvn s.flash), free := s.free + 4, frameLog2 := 14 + (Config.frameSetting s.free).val }
  let ms := bootMeasurements s1
  let s2 := { s1 with
    meas := ms, devid := BitVec.ofNat 256 devidKey, alias_ := BitVec.ofNat 256 (aliasKey ms),
    certs := smSet [] s1.certs 0 (slotZero s 1 ms) }
  if Config.drbgFails s.free then { s2 with boot := .step 4, pfLog := s2.pfLog ++ [[4, s2.cyc]] }
  else { s2 with
    boot := .step 5, devMacKey := (Config.drbg s.free).setWidth 256, badRows := Config.trainErrors s.free,
    worlds := [(0, managerWorld (Config.trainErrors s.free) (s.free + 2))],
    pfLog := s2.pfLog ++ (Config.trainErrors s.free).map fun a => [5, a] }

/-- PACKAGE_RESET_RELEASE (R14, R314): whatever the package was doing, CYC starts at 0; the flash image is verified, and boot goes on to
step 5 or into recovery. -/
def execPackageResetRelease (s : State) : Out :=
  let s1 := packageReset s
  if verifyImage s1 s1.flash = 0 then .next (bootSteps s1) else .next { s1 with boot := .recovery false 0 }

/-! ### Recovery (R315, Table 12.6) -/

/-- RECOVERY_LOAD (R315): LOAD starts the verification of the window; while BUSY it is ignored. -/
def execRecoveryLoad (s : State) : Out := .next (startRecovery s)

/-- Whether the verification of the window is in progress, or the reset after an accepted image is due. -/
def recoveryDue (s : State) : Bool :=
  match s.boot with
  | .recovery true _ => true
  | .accepted t => decide (t ≤ s.cyc)
  | _ => false

/-- RECOVERY_VERIFY_DONE (R315): an accepted image replaces the flash, RCV_STAT shows code 6, and after cycles that no rule states (log 80)
the package goes through reset; a refused one is reported and changes nothing. -/
def execRecoveryVerifyDone (s : State) : Out :=
  match s.boot with
  | .accepted t => if t ≤ s.cyc then .next (packageReset s) else .next s
  | .recovery true _ =>
    let code := verifyImage s s.rcvWindow
    let (k, s1) := freshFree s
    if code = 0 then
      .next { s1 with
        boot := .accepted (s.cyc + 1 + Config.returnDelay k), flash := memWrite [] 0 (memRead s.rcvWindow 0 (256 + fwLength s.rcvWindow)),
        minSvn := max (minimumSvn s) (fwSvn s.rcvWindow) }
    else .next { s with boot := .recovery false code }
  | _ => .next s

/-! ### Temperature and supply (R307, R311) -/

/-- The state with every unfinished launch ended with 0x0201, as a reset of its world would, the row-engine commands it stops reported to
the PF, and every island but the package manager's powered off (R311, Table 9.12; the entries of the PF log: log 121). -/
def powerOff (s : State) (cause value : Nat) : State :=
  let s1 := resetLaunches { s with
    pfLog := s.pfLog ++ [[cause, value]] ++ s.worlds.flatMap fun (e : Nat × World) => resetReport s e.1 } fun _ => true
  { s1 with off := true, cores := [], chans := [], rows := [], colls := [] }

/-- The state with the hottest sensor's reading taken in (R307, R311): from 95 °C on the next frame start halves the refills, below 90 °C for
a whole frame they double again, and from 105 °C on the package shuts down. -/
def takeReading (s : State) (temp : Nat) : State :=
  let s1 := { s with hottest := temp, cool := s.cool && decide (temp < 90), reached := s.reached || decide (95 ≤ temp) }
  if temp < 105 ∨ s.off then s1 else powerOff s1 2 temp

/-- THERMAL_THROTTLE (R311): a reading of the hottest sensor. -/
def execThermalThrottle (temp : Nat) (s : State) : Out := .next (takeReading s temp)

/-- THERMAL_SHUTDOWN (R311): the hottest sensor reaches 105 °C. -/
def execThermalShutdown (temp : Nat) (s : State) : Out := if temp < 105 ∨ s.off then .next s else .next (takeReading s temp)

/-- SUPPLY_OUT_OF_RANGE (R311): the supply leaves 40 to 60 V. -/
def execSupplyOutOfRange (millivolts : Nat) (s : State) : Out :=
  if (40000 ≤ millivolts ∧ millivolts ≤ 60000) ∨ s.off then .next s else .next (powerOff s 3 millivolts)

end Sys2Proof.Machine
end

