-- ==== Sys2Proof/Machine/Dispatch.lean ====
section
/-!
DEFINITION. The dispatch of every instruction word and step of the device to its meaning.
-/

namespace Sys2Proof.Machine

open Sys2Proof

def exec (i : Instr) (s : State) : Host.Outcome State Fault Refusal :=
  match i with
  | .add h d a b => Sys2Proof.Machine.execAdd h d a b s
  | .sub h d a b => Sys2Proof.Machine.execSub h d a b s
  | .mul h d a b => Sys2Proof.Machine.execMul h d a b s
  | .mulh h d a b => Sys2Proof.Machine.execMulh h d a b s
  | .mulhn h d a b => Sys2Proof.Machine.execMulhn h d a b s
  | .div h d a b => Sys2Proof.Machine.execDiv h d a b s
  | .divn h d a b => Sys2Proof.Machine.execDivn h d a b s
  | .rem h d a b => Sys2Proof.Machine.execRem h d a b s
  | .remn h d a b => Sys2Proof.Machine.execRemn h d a b s
  | .and h d a b => Sys2Proof.Machine.execAnd h d a b s
  | .andn h d a b => Sys2Proof.Machine.execAndn h d a b s
  | .or h d a b => Sys2Proof.Machine.execOr h d a b s
  | .xor h d a b => Sys2Proof.Machine.execXor h d a b s
  | .shl h d a b => Sys2Proof.Machine.execShl h d a b s
  | .shr h d a b => Sys2Proof.Machine.execShr h d a b s
  | .sha h d a b => Sys2Proof.Machine.execSha h d a b s
  | .rot h d a b => Sys2Proof.Machine.execRot h d a b s
  | .min h d a b => Sys2Proof.Machine.execMin h d a b s
  | .minn h d a b => Sys2Proof.Machine.execMinn h d a b s
  | .max h d a b => Sys2Proof.Machine.execMax h d a b s
  | .maxn h d a b => Sys2Proof.Machine.execMaxn h d a b s
  | .cmpeq h d a b => Sys2Proof.Machine.execCmpeq h d a b s
  | .cmpne h d a b => Sys2Proof.Machine.execCmpne h d a b s
  | .cmplt h d a b => Sys2Proof.Machine.execCmplt h d a b s
  | .cmpltn h d a b => Sys2Proof.Machine.execCmpltn h d a b s
  | .cmple h d a b => Sys2Proof.Machine.execCmple h d a b s
  | .cmplen h d a b => Sys2Proof.Machine.execCmplen h d a b s
  | .sel h d a b => Sys2Proof.Machine.execSel h d a b s
  | .clz h d a => Sys2Proof.Machine.execClz h d a s
  | .ctz h d a => Sys2Proof.Machine.execCtz h d a s
  | .popc h d a => Sys2Proof.Machine.execPopc h d a s
  | .sext h d a w => Sys2Proof.Machine.execSext h d a w s
  | .zext h d a w => Sys2Proof.Machine.execZext h d a w s
  | .addi h d a imm => Sys2Proof.Machine.execAddi h d a imm s
  | .andi h d a imm => Sys2Proof.Machine.execAndi h d a imm s
  | .ori h d a imm => Sys2Proof.Machine.execOri h d a imm s
  | .xori h d a imm => Sys2Proof.Machine.execXori h d a imm s
  | .shli h d a n => Sys2Proof.Machine.execShli h d a n s
  | .shri h d a n => Sys2Proof.Machine.execShri h d a n s
  | .shai h d a n => Sys2Proof.Machine.execShai h d a n s
  | .ld h d a space sz => Sys2Proof.Machine.execLd h d a space sz s
  | .st h d a space sz => Sys2Proof.Machine.execSt h d a space sz s
  | .atadd h d a space => Sys2Proof.Machine.execAtadd h d a space s
  | .atmin h d a space => Sys2Proof.Machine.execAtmin h d a space s
  | .atmax h d a space => Sys2Proof.Machine.execAtmax h d a space s
  | .atand h d a space => Sys2Proof.Machine.execAtand h d a space s
  | .ator h d a space => Sys2Proof.Machine.execAtor h d a space s
  | .atxch h d a space => Sys2Proof.Machine.execAtxch h d a space s
  | .atcas h d a space => Sys2Proof.Machine.execAtcas h d a space s
  | .b h off => Sys2Proof.Machine.execB h off s
  | .bz h a off => Sys2Proof.Machine.execBz h a off s
  | .bnz h a off => Sys2Proof.Machine.execBnz h a off s
  | .call h a off => Sys2Proof.Machine.execCall h a off s
  | .ret h => Sys2Proof.Machine.execRet h s
  | .prepLabel h jt off => Sys2Proof.Machine.execPrepLabel h jt off s
  | .prepRegister h jt r => Sys2Proof.Machine.execPrepRegister h jt r s
  | .jp h jt => Sys2Proof.Machine.execJp h jt s
  | .loop h a off => Sys2Proof.Machine.execLoop h a off s
  | .boput h a q => Sys2Proof.Machine.execBoput h a q s
  | .boget h off => Sys2Proof.Machine.execBoget h off s
  | .idle h n => Sys2Proof.Machine.execIdle h n s
  | .realign h => Sys2Proof.Machine.execRealign h s
  | .stamp h d sel => Sys2Proof.Machine.execStamp h d sel s
  | .tkput h q n => Sys2Proof.Machine.execTkput h q n s
  | .tkget h q n => Sys2Proof.Machine.execTkget h q n s
  | .mark h n => Sys2Proof.Machine.execMark h n s
  | .fence h scope kind => Sys2Proof.Machine.execFence h scope kind s
  | .evpop h d => Sys2Proof.Machine.execEvpop h d s
  | .evwait h => Sys2Proof.Machine.execEvwait h s
  | .sput h a => Sys2Proof.Machine.execSput h a s
  | .sget h d => Sys2Proof.Machine.execSget h d s
  | .bbinit h a => Sys2Proof.Machine.execBbinit h a s
  | .bbwait h a => Sys2Proof.Machine.execBbwait h a s
  | .bbtest h d a => Sys2Proof.Machine.execBbtest h d a s
  | .bbexp h a imm => Sys2Proof.Machine.execBbexp h a imm s
  | .binrst h n => Sys2Proof.Machine.execBinrst h n s
  | .binfill h d n sel => Sys2Proof.Machine.execBinfill h d n sel s
  | .binpass h n => Sys2Proof.Machine.execBinpass h n s
  | .binend h n => Sys2Proof.Machine.execBinend h n s
  | .bindef h n imm => Sys2Proof.Machine.execBindef h n imm s
  | .hinv h n => Sys2Proof.Machine.execHinv h n s
  | .hqry h d n => Sys2Proof.Machine.execHqry h d n s
  | .phend h c => Sys2Proof.Machine.execPhend h c s
  | .segend h mask => Sys2Proof.Machine.execSegend h mask s
  | .cask h d sel => Sys2Proof.Machine.execCask h d sel s
  | .trap h n => Sys2Proof.Machine.execTrap h n s
  | .crd h d cr => Sys2Proof.Machine.execCrd h d cr s
  | .cwr h d cr => Sys2Proof.Machine.execCwr h d cr s
  | .halt h => Sys2Proof.Machine.execHalt h s
  | .nop h => Sys2Proof.Machine.execNop h s
  | .brk h n => Sys2Proof.Machine.execBrk h n s
  | .nslice h d sel r => Sys2Proof.Machine.execNslice h d sel r s
  | .li h d imm => Sys2Proof.Machine.execLi h d imm s
  | .lih h d a imm => Sys2Proof.Machine.execLih h d a imm s
  | .xlate h d a imm => Sys2Proof.Machine.execXlate h d a imm s
  | .phase h c a imm => Sys2Proof.Machine.execPhase h c a imm s
  | .nest h a imm => Sys2Proof.Machine.execNest h a imm s
  | .collAllred h a rel elem rop stamp => Sys2Proof.Machine.execCollAllred h a rel elem rop stamp s
  | .collReduce h a rel elem rop stamp => Sys2Proof.Machine.execCollReduce h a rel elem rop stamp s
  | .collBcast h a rel stamp => Sys2Proof.Machine.execCollBcast h a rel stamp s
  | .collGather h a rel stamp => Sys2Proof.Machine.execCollGather h a rel stamp s
  | .collA2a h a rel stamp => Sys2Proof.Machine.execCollA2a h a rel stamp s
  | .collCombine h a rel stamp => Sys2Proof.Machine.execCollCombine h a rel stamp s
  | .collSync h a rel stamp => Sys2Proof.Machine.execCollSync h a rel stamp s
  | .rowg h a imm => Sys2Proof.Machine.execRowg h a imm s
  | .rows h a imm => Sys2Proof.Machine.execRows h a imm s
  | .rowsa h a imm => Sys2Proof.Machine.execRowsa h a imm s
  | .vld w => Sys2Proof.Machine.execVld w s
  | .vst w => Sys2Proof.Machine.execVst w s
  | .copy w => Sys2Proof.Machine.execCopy w s
  | .obld w => Sys2Proof.Machine.execObld w s
  | .route w => Sys2Proof.Machine.execRoute w s
  | .mma w => Sys2Proof.Machine.execMma w s
  | .mmap w => Sys2Proof.Machine.execMmap w s
  | .mret w => Sys2Proof.Machine.execMret w s
  | .mdrain w => Sys2Proof.Machine.execMdrain w s
  | .vadd w => Sys2Proof.Machine.execVadd w s
  | .vsub w => Sys2Proof.Machine.execVsub w s
  | .vmul w => Sys2Proof.Machine.execVmul w s
  | .vfma w => Sys2Proof.Machine.execVfma w s
  | .vfms w => Sys2Proof.Machine.execVfms w s
  | .vfnma w => Sys2Proof.Machine.execVfnma w s
  | .vmin w => Sys2Proof.Machine.execVmin w s
  | .vmax w => Sys2Proof.Machine.execVmax w s
  | .vabs w => Sys2Proof.Machine.execVabs w s
  | .vneg w => Sys2Proof.Machine.execVneg w s
  | .vrcp w => Sys2Proof.Machine.execVrcp w s
  | .vrsq w => Sys2Proof.Machine.execVrsq w s
  | .vsqrt w => Sys2Proof.Machine.execVsqrt w s
  | .vdiv w => Sys2Proof.Machine.execVdiv w s
  | .vexp2 w => Sys2Proof.Machine.execVexp2 w s
  | .vlog2 w => Sys2Proof.Machine.execVlog2 w s
  | .viadd w => Sys2Proof.Machine.execViadd w s
  | .visub w => Sys2Proof.Machine.execVisub w s
  | .vimul w => Sys2Proof.Machine.execVimul w s
  | .vimulh w => Sys2Proof.Machine.execVimulh w s
  | .vimac w => Sys2Proof.Machine.execVimac w s
  | .vand w => Sys2Proof.Machine.execVand w s
  | .vor w => Sys2Proof.Machine.execVor w s
  | .vxor w => Sys2Proof.Machine.execVxor w s
  | .vandn w => Sys2Proof.Machine.execVandn w s
  | .vshl w => Sys2Proof.Machine.execVshl w s
  | .vshr w => Sys2Proof.Machine.execVshr w s
  | .vsha w => Sys2Proof.Machine.execVsha w s
  | .vimin w => Sys2Proof.Machine.execVimin w s
  | .vimax w => Sys2Proof.Machine.execVimax w s
  | .vclmul w => Sys2Proof.Machine.execVclmul w s
  | .vpopc w => Sys2Proof.Machine.execVpopc w s
  | .vcmp w => Sys2Proof.Machine.execVcmp w s
  | .vsel w => Sys2Proof.Machine.execVsel w s
  | .vmsk w => Sys2Proof.Machine.execVmsk w s
  | .vcvt w => Sys2Proof.Machine.execVcvt w s
  | .vqnt w => Sys2Proof.Machine.execVqnt w s
  | .vpack w => Sys2Proof.Machine.execVpack w s
  | .vunpk w => Sys2Proof.Machine.execVunpk w s
  | .vred w => Sys2Proof.Machine.execVred w s
  | .vperm w => Sys2Proof.Machine.execVperm w s
  | .vshuf w => Sys2Proof.Machine.execVshuf w s
  | .vbcast w => Sys2Proof.Machine.execVbcast w s
  | .vslide w => Sys2Proof.Machine.execVslide w s
  | .viota w => Sys2Proof.Machine.execViota w s
  | .vmov w => Sys2Proof.Machine.execVmov w s
  | .vxs w => Sys2Proof.Machine.execVxs w s
  | .trd w => Sys2Proof.Machine.execTrd w s
  | .twr w => Sys2Proof.Machine.execTwr w s
  | .tzero w => Sys2Proof.Machine.execTzero w s
  | .topkc w => Sys2Proof.Machine.execTopkc w s
  | .pdim g pr pc order => Sys2Proof.Machine.execPdim g pr pc order s
  | .pband g w wrap => Sys2Proof.Machine.execPband g w wrap s
  | .pdil g off step => Sys2Proof.Machine.execPdil g off step s
  | .pblk g b => Sys2Proof.Machine.execPblk g b s
  | .pkron g a b => Sys2Proof.Machine.execPkron g a b s
  | .phash g n seed => Sys2Proof.Machine.execPhash g n seed s
  | .pemit g r => Sys2Proof.Machine.execPemit g r s
  | .pinv g => Sys2Proof.Machine.execPinv g s
  | .pend g => Sys2Proof.Machine.execPend g s
  | .dact delta bank row => Sys2Proof.Machine.execDact delta bank row s
  | .dpre delta bank => Sys2Proof.Machine.execDpre delta bank s
  | .dpreAll delta => Sys2Proof.Machine.execDpreAll delta s
  | .drd delta bank row col core slot => Sys2Proof.Machine.execDrd delta bank row col core slot s
  | .dwr delta bank row col core slot => Sys2Proof.Machine.execDwr delta bank row col core slot s
  | .dref delta => Sys2Proof.Machine.execDref delta s
  | .drefPb delta bank => Sys2Proof.Machine.execDrefPb delta bank s
  | .dnop delta => Sys2Proof.Machine.execDnop delta s
  | .dnopEnd delta => Sys2Proof.Machine.execDnopEnd delta s
  | .dind delta slot => Sys2Proof.Machine.execDind delta slot s
  | .dloop lenw rep => Sys2Proof.Machine.execDloop lenw rep s
  | .registerResultLanding core q => Sys2Proof.Machine.execRegisterResultLanding core q s
  | .xlateLanding core => Sys2Proof.Machine.execXlateLanding core s
  | .vectorQueuePush core => Sys2Proof.Machine.execVectorQueuePush core s
  | .slipAllowanceOverrun core q => Sys2Proof.Machine.execSlipAllowanceOverrun core q s
  | .commandBoundOverrun core u => Sys2Proof.Machine.execCommandBoundOverrun core u s
  | .matrixWordStart core => Sys2Proof.Machine.execMatrixWordStart core s
  | .matrixPipeLineTake core => Sys2Proof.Machine.execMatrixPipeLineTake core s
  | .tileStepCompletion core => Sys2Proof.Machine.execTileStepCompletion core s
  | .tileDrainEnd core tile => Sys2Proof.Machine.execTileDrainEnd core tile s
  | .tileWriteEffect core => Sys2Proof.Machine.execTileWriteEffect core s
  | .mretCompletion core => Sys2Proof.Machine.execMretCompletion core s
  | .mdrainEntryPush core => Sys2Proof.Machine.execMdrainEntryPush core s
  | .topkcEntryPush core => Sys2Proof.Machine.execTopkcEntryPush core s
  | .copyStart core => Sys2Proof.Machine.execCopyStart core s
  | .copyLandLineTake core => Sys2Proof.Machine.execCopyLandLineTake core s
  | .copyCompletion core => Sys2Proof.Machine.execCopyCompletion core s
  | .inboundLineTake core => Sys2Proof.Machine.execInboundLineTake core s
  | .vldEntryPush core => Sys2Proof.Machine.execVldEntryPush core s
  | .vstEntryPop core => Sys2Proof.Machine.execVstEntryPop core s
  | .obldCompletion core => Sys2Proof.Machine.execObldCompletion core s
  | .binCommandStart core => Sys2Proof.Machine.execBinCommandStart core s
  | .binCommandCompletion core => Sys2Proof.Machine.execBinCommandCompletion core s
  | .routeCompletion core => Sys2Proof.Machine.execRouteCompletion core s
  | .rowCommandStart die => Sys2Proof.Machine.execRowCommandStart die s
  | .rowWindowStart die => Sys2Proof.Machine.execRowWindowStart die s
  | .rowCommandCompletion die => Sys2Proof.Machine.execRowCommandCompletion die s
  | .collCompletion inst => Sys2Proof.Machine.execCollCompletion inst s
  | .drdLineLanding chan => Sys2Proof.Machine.execDrdLineLanding chan s
  | .dindLineDelivery chan => Sys2Proof.Machine.execDindLineDelivery chan s
  | .refreshComplete chan bank => Sys2Proof.Machine.execRefreshComplete chan bank s
  | .refreshDeadlineMissed chan bank => Sys2Proof.Machine.execRefreshDeadlineMissed chan bank s
  | .idleChannelRefresh chan => Sys2Proof.Machine.execIdleChannelRefresh chan s
  | .idleRemoteWindow chan => Sys2Proof.Machine.execIdleRemoteWindow chan s
  | .leadInRefresh chan => Sys2Proof.Machine.execLeadInRefresh chan s
  | .frameStart => Sys2Proof.Machine.execFrameStart s
  | .edgeGap => Sys2Proof.Machine.execEdgeGap s
  | .segmentEntry launch => Sys2Proof.Machine.execSegmentEntry launch s
  | .segmentEnd launch => Sys2Proof.Machine.execSegmentEnd launch s
  | .commitAcknowledge launch => Sys2Proof.Machine.execCommitAcknowledge launch s
  | .frameOverrun launch => Sys2Proof.Machine.execFrameOverrun launch s
  | .coreStop launch core => Sys2Proof.Machine.execCoreStop launch core s
  | .trapSegmentEnd launch => Sys2Proof.Machine.execTrapSegmentEnd launch s
  | .revocationEffect core pid => Sys2Proof.Machine.execRevocationEffect core pid s
  | .launchRecordFetch world => Sys2Proof.Machine.execLaunchRecordFetch world s
  | .keyImportResult world => Sys2Proof.Machine.execKeyImportResult world s
  | .replicaTableSwitch world => Sys2Proof.Machine.execReplicaTableSwitch world s
  | .ringSwap world flow => Sys2Proof.Machine.execRingSwap world flow s
  | .packageResetRelease => Sys2Proof.Machine.execPackageResetRelease s
  | .recoveryVerifyDone => Sys2Proof.Machine.execRecoveryVerifyDone s
  | .reservedOpcode w => Sys2Proof.Machine.execReservedOpcode w s
  | .fetchFault missing => Sys2Proof.Machine.execFetchFault missing s
  | .copyLqEntryPush core => Sys2Proof.Machine.execCopyLqEntryPush core s
  | .outgoingSlotLineAppend core => Sys2Proof.Machine.execOutgoingSlotLineAppend core s
  | .collInstanceCancel inst core => Sys2Proof.Machine.execCollInstanceCancel inst core s
  | .revocationBroadcast world pid t => Sys2Proof.Machine.execRevocationBroadcast world pid t s
  | .lqCreate world qlog2 => Sys2Proof.Machine.execLqCreate world qlog2 s
  | .lqDestroy world => Sys2Proof.Machine.execLqDestroy world s
  | .doorbell world tail => Sys2Proof.Machine.execDoorbell world tail s
  | .recordWindowWrite world offset bytes => Sys2Proof.Machine.execRecordWindowWrite world offset bytes s
  | .keyImportGo world => Sys2Proof.Machine.execKeyImportGo world s
  | .replicaSwitchArm world time => Sys2Proof.Machine.execReplicaSwitchArm world time s
  | .registerWrite world offset bytes tee => Sys2Proof.Machine.execRegisterWrite world offset bytes tee s
  | .lockInterfaceRequest world => Sys2Proof.Machine.execLockInterfaceRequest world s
  | .startInterfaceRequest world => Sys2Proof.Machine.execStartInterfaceRequest world s
  | .stopInterfaceRequest world => Sys2Proof.Machine.execStopInterfaceRequest world s
  | .getDeviceInterfaceReport world secure => Sys2Proof.Machine.execGetDeviceInterfaceReport world secure s
  | .ideIntegrityFailure stream => Sys2Proof.Machine.execIdeIntegrityFailure stream s
  | .frozenConfigChange world => Sys2Proof.Machine.execFrozenConfigChange world s
  | .getCertificate slot => Sys2Proof.Machine.execGetCertificate slot s
  | .challenge slot nonce => Sys2Proof.Machine.execChallenge slot nonce s
  | .keyExchange slot peerX peerY => Sys2Proof.Machine.execKeyExchange slot peerX peerY s
  | .setCertificate slot secure bytes => Sys2Proof.Machine.execSetCertificate slot secure bytes s
  | .getMeasurements index => Sys2Proof.Machine.execGetMeasurements index s
  | .vfEnable world cbase csize units => Sys2Proof.Machine.execVfEnable world cbase csize units s
  | .vfReset world => Sys2Proof.Machine.execVfReset world s
  | .debugRead world t => Sys2Proof.Machine.execDebugRead world t s
  | .remoteRequest r => Sys2Proof.Machine.execRemoteRequest r s
  | .scemelFlitReceive port ok lines => Sys2Proof.Machine.execScemelFlitReceive port ok lines s
  | .groupEnrolment group count pkg world => Sys2Proof.Machine.execGroupEnrolment group count pkg world s
  | .packetArrival world flow msg payload => Sys2Proof.Machine.execPacketArrival world flow msg payload s
  | .recoveryLoad => Sys2Proof.Machine.execRecoveryLoad s
  | .thermalThrottle temp => Sys2Proof.Machine.execThermalThrottle temp s
  | .thermalShutdown temp => Sys2Proof.Machine.execThermalShutdown temp s
  | .supplyOutOfRange millivolts => Sys2Proof.Machine.execSupplyOutOfRange millivolts s
  | .linkBringUp pkg source => Sys2Proof.Machine.execLinkBringUp pkg source s
  | .keySlotAssignment slot world => Sys2Proof.Machine.execKeySlotAssignment slot world s
  | .ideStreamSetup stream world => Sys2Proof.Machine.execIdeStreamSetup stream world s

end Sys2Proof.Machine
end

