-- ==== Sys2Proof/Machine/Schedule.lean ====
section
/-!
DEFINITION. What the package does next: one action of one of its agents, or the end of a cycle. Within a cycle the actions come in a fixed
order of kinds (log 1): tables and ports, the host's requests, the package manager, the units of the cores, the engines of the
dies, the channels, the sequencers' words, the channels' words, the inbound ports, what has run late, and the end of trapped segments.
-/

namespace Sys2Proof.Machine

open Sys2Proof

/-! ### What is due in a cycle -/

/-- The first of a list of actions that is due. -/
def firstDue (l : List (Bool × Instr)) : Option Instr := (l.find? fun e => e.1).map fun e => e.2

/-- A world's tables and flows: ring swaps (R169), the replica switch (R302), key imports (R287), record fetches (R224). -/
def worldEvents (s : State) (w : Nat) (x : World) : List (Bool × Instr) :=
  (x.flows.map fun (f : Nat × NetFlow) => (swapDue s f.2, Instr.ringSwap w f.1)) ++
    [(replicaDue s w, .replicaTableSwitch w), (keyImportDue s w, .keyImportResult w),
     (recordFetchDue s w, .launchRecordFetch w)]

/-- The package manager's own: the recovery's verdict (R315), frame starts (R241), edge gaps (R239). -/
def managerEvents (s : State) : List (Bool × Instr) :=
  [(recoveryDue s, .recoveryVerifyDone), (frameStartDue s, .frameStart),
   ((edgePart s).isSome, .edgeGap)]

/-- A launch's stops, its commits and its entries (R215, R232, R248). -/
def launchEvents (s : State) (n : Nat) (l : Launch) : List (Bool × Instr) :=
  (l.cores.map fun p => (coreStopDue s n p, Instr.coreStop n p)) ++
    [(commitDue s n, .commitAcknowledge n),
     (entryDue s l && (l.segs[l.seg]?).isSome, .segmentEntry n)]

/-- Whether a sequencer's results land in the cycle, or one that should has not come back (R48). -/
def landsNow (c : Core) (q : Seq) (cyc : Nat) : Bool :=
  !(landingNow c q cyc).isEmpty || (landingLate c q cyc).isSome

/-- Whether the running bin-unit command completes in the cycle (R150). -/
def binEnds (c : Core) (cyc : Nat) : Bool :=
  match binHead c with
  | some b => decide (b.op < 4) && b.start.isSome && decide (b.finish ≤ cyc)
  | none => false

/-- Whether the running ROUTE acts in the cycle (R152). -/
def routeActs (c : Core) (cyc : Nat) : Bool :=
  match binHead c with
  | some b => decide (b.op = 4) && b.start.isSome && decide (routeNext c.regs.bins b ≤ cyc)
  | none => false

/-- The revocation that takes effect on a core in the cycle (R109). -/
def revocationNow (c : Core) (cyc : Nat) : Option (BitVec 12) :=
  (c.revoked.find? fun e => decide (e.2 ≠ 0) && decide (e.2 ≤ cyc)).map fun e => e.1

/-- The copy engine's next action. -/
def copyEvent (c : Core) (p cyc : Nat) : Option Instr :=
  (copyNext c cyc).map fun m =>
    match m with
    | .landLine => Instr.copyLandLineTake p
    | .append => .outgoingSlotLineAppend p
    | .lqPush => .copyLqEntryPush p
    | .unit => .copyCompletion p
    | .open_ => .copyCompletion p
    | .complete => .copyCompletion p

/-- The units of a core (R48, R51, R109, R150, R175 to R182, R373, R405, R429, R442, R452). -/
def coreEvents (s : State) (p : Nat) (c : Core) : List (Bool × Instr) :=
  [(landsNow c .c s.cyc, .registerResultLanding p .c), (landsNow c .l s.cyc, .registerResultLanding p .l),
   (landsNow c .x s.cyc, .registerResultLanding p .x), (landsNow c .s s.cyc, .registerResultLanding p .s),
   (c.xlate.any fun x => decide (x.due ≤ s.cyc), .xlateLanding p),
   ((revocationNow c s.cyc).isSome, .revocationEffect p ((revocationNow c s.cyc).getD 0)),
   (c.pushes.any fun x => decide (x.due ≤ s.cyc), .vectorQueuePush p),
   (c.drain.any fun (e : Nat × Nat) => decide (e.2 ≤ s.cyc),
     .tileDrainEnd p (((c.drain.find? fun (e : Nat × Nat) => decide (e.2 ≤ s.cyc)).map fun e => e.1).getD 0)),
   ((nextTileWrite c s.cyc).isSome, .tileWriteEffect p), (matStarts c s.cyc, .matrixWordStart p),
   (pipeDue c s.cyc, .matrixPipeLineTake p), (stepDue c s.cyc, .tileStepCompletion p), (mretDue c s.cyc, .mretCompletion p),
   (mdrainDue c s.cyc, .mdrainEntryPush p), (topkcDue c s.cyc, .topkcEntryPush p), (copyStarts c s.cyc, .copyStart p),
   ((copyEvent c p s.cyc).isSome, (copyEvent c p s.cyc).getD (.copyCompletion p)), (vldDue c s.cyc, .vldEntryPush p),
   (obldDue c s.cyc, .obldCompletion p), (vstDue c s.cyc, .vstEntryPop p), (binStarts c s.cyc, .binCommandStart p),
   (binEnds c s.cyc, .binCommandCompletion p), (routeActs c s.cyc, .routeCompletion p)]

/-- Whether a die's running row command works on a table in package memory. -/
def packageRuns (s : State) (d : Nat) : Bool :=
  match getRows s d with
  | r :: _ => decide (rowKind r = .package)
  | [] => false

/-- Whether a die's running row command has rows of a scratchpad table left to apply. -/
def rowsLeft (s : State) (d : Nat) : Bool :=
  match getRows s d with
  | r :: _ => decide (rowKind r = .scratch) && decide (r.row < r.n)
  | [] => false

/-- A die's row engine (R165, R167, R419). -/
def rowEvents (s : State) (d : Nat) : List (Bool × Instr) :=
  [(rowStarts s d, .rowCommandStart d), (rowWindowDue s d, .rowWindowStart d),
   (rowDue s d && !packageRuns s d && !rowsLeft s d, .rowCommandCompletion d)]

/-- A row of a scratchpad table: after the words of the cycle, so that a PHEND of its issue cycle closes the phase for it (R74, R410). -/
def rowApplies (s : State) (d : Nat) : List (Bool × Instr) := [(rowDue s d && rowsLeft s d, .rowCommandCompletion d)]

/-- The end of a die's package command: after what its last window's lines do in the cycle (R166, R418). -/
def rowEnds (s : State) (d : Nat) : List (Bool × Instr) := [(rowDue s d && packageRuns s d, .rowCommandCompletion d)]

/-- A collective instance (R368). -/
def collEvents (s : State) (i : Coll) : List (Bool × Instr) :=
  [(collDue s i, .collCompletion i.id),
   (collCancelled s i && i.launch.isNone && !i.parts.isEmpty, .collInstanceCancel i.id ((i.parts.head?.map (·.core)).getD 0))]

/-- The bank of a channel whose refresh has ended. -/
def refreshedBank (c : Channel) (cyc : Nat) : Option Nat :=
  (c.banks.find? fun (e : Nat × BankState) => match e.2 with | .refreshing t => decide (t ≤ cyc) | _ => false).map fun e => e.1

/-- A channel's own actions (R130, R134, R138 to R142). -/
def chanEvents (s : State) (ch : Nat) (c : Channel) : List (Bool × Instr) :=
  [((refreshedBank c s.cyc).isSome, .refreshComplete ch ((refreshedBank c s.cyc).getD 0)), (leadInDue c s.cyc, .leadInRefresh ch),
   (windowDue c s.cyc, .dindLineDelivery ch), (c.flight.any fun f => decide (f.due ≤ s.cyc), .drdLineLanding ch),
   (idleDue s c, .idleChannelRefresh ch), (remoteDue s c, .idleRemoteWindow ch)]

/-- The idle refresh of a channel that nothing has touched yet. -/
def freshChannelEvent (s : State) : Option Instr :=
  if framesRun s && idleDue s Channel.zero then
    ((List.range 512).find? fun n => s.chans.all fun (e : Nat × Channel) => decide (e.1 ≠ n)).map Instr.idleChannelRefresh
  else none

/-- The bank whose deadline a running program has missed. -/
def missedBank (c : Channel) (cyc : Nat) : Option Nat := allBanks.find? fun b => refreshMissed c b cyc

/-- Whether a stream's stall has reached the allowance (R44), on a core that has not stopped before the cycle (R249). -/
def slipOver (s : State) (p : Nat) (c : Core) (q : Seq) : Bool :=
  match runningOn s p with
  | some (_, l, r) =>
    notStopped c s.cyc && decide (0 < (streamOf c q).stallRun) &&
      decide (((l.segs[r.seg]?).map (·.slipa)).getD 0 ≤ (streamOf c q).stallRun)
  | none => false

/-- What has run late on a core (R44, R47). -/
def lateEvents (s : State) (p : Nat) (c : Core) : List (Bool × Instr) :=
 [(slipOver s p c .c, .slipAllowanceOverrun p .c), (slipOver s p c .l, .slipAllowanceOverrun p .l),
   (slipOver s p c .x, .slipAllowanceOverrun p .x), (slipOver s p c .s, .slipAllowanceOverrun p .s),
   (boundDue s p .copy, .commandBoundOverrun p .copy), (boundDue s p .matrix, .commandBoundOverrun p .matrix),
   (boundDue s p .route, .commandBoundOverrun p .route), (boundDue s p .row, .commandBoundOverrun p .row),
   (boundDue s p .coll, .commandBoundOverrun p .coll)]

/-! ### Words -/

/-- The sequencers in the order of R249. -/
def allSeqs : List Seq := [.c, .l, .x, .s]

/-- What a sequencer does with the word at its position: the instruction, or the fault of a word that cannot be fetched or whose
opcode is reserved (R255 to R257, R260). -/
def wordAct (c : Core) (q : Seq) : Instr :=
  let ps := fetchFrom c q (streamOf c q).pc
  match missingParcel ps with
  | some k => .fetchFault k
  | none =>
    match decode ps with
    | .ok i => i
    | .error _ => .reservedOpcode (ps.headD 0)

/-- A core's first sequencer with a word to try in the cycle. -/
def dueSeq (c : Core) (cyc : Nat) : Option Seq := allSeqs.find? fun q => streamDue c q cyc

/-- The core and sequencer whose word is tried next: cores by logical index (R206, R249). -/
def dueStream (s : State) : Option (Nat × Seq) :=
  (s.cores.foldl (fun (acc : Option (Nat × Nat × Seq)) (e : Nat × Core) =>
    match dueSeq e.2 s.cyc with
    | none => acc
    | some q =>
      match acc with
      | none => some (e.2.lidx, e.1, q)
      | some a => if e.2.lidx < a.1 then some (e.2.lidx, e.1, q) else acc) none).map fun a => a.2

/-- The flow whose owed trap the first issue on a core meets (R169). -/
def owedTrap (s : State) (p : Nat) : Option Instr :=
  let w := (getCore s p).world
  ((getWorld s w).flows.find? fun (f : Nat × NetFlow) => decide (f.2.core = p) && ringTrapDue s w f.2).map fun f => .ringSwap w f.1

/-- The channel whose program's next word issues, with the word (R126). -/
def dueChannel (s : State) : Option (Nat × Instr) :=
  s.chans.findSome? fun (e : Nat × Channel) =>
    match e.2.run with
    | some r =>
      if r.next ≤ s.cyc then
        match decodeChannel (chanMem e.2 r.pc) with
        | .ok i => some (e.1, i)
        | .error _ => none
      else none
    | none => none

/-! ### The host's requests -/

/-- The requests and events that come from outside the package. -/
def isOutside (i : Instr) : Bool :=
  match i with
  | .revocationBroadcast .. | .lqCreate .. | .lqDestroy .. | .doorbell .. | .recordWindowWrite .. | .keyImportGo ..
  | .replicaSwitchArm .. | .registerWrite .. | .lockInterfaceRequest .. | .startInterfaceRequest .. | .stopInterfaceRequest ..
  | .getDeviceInterfaceReport .. | .ideIntegrityFailure .. | .frozenConfigChange .. | .getCertificate .. | .challenge ..
  | .keyExchange .. | .setCertificate .. | .getMeasurements .. | .vfEnable .. | .vfReset .. | .debugRead .. | .remoteRequest ..
  | .scemelFlitReceive .. | .groupEnrolment .. | .packetArrival .. | .recoveryLoad | .thermalThrottle .. | .thermalShutdown ..
  | .packageResetRelease | .supplyOutOfRange .. | .linkBringUp .. | .keySlotAssignment .. | .ideStreamSetup .. => true
  | _ => false

/-- The first request whose cycle has come: its place among the pending ones, and the request. -/
def dueRequest (s : State) : Option (Nat × Instr) :=
  (s.inbox.zipIdx.find? fun e => decide (e.1.1 ≤ s.cyc)).map fun e => (e.2, e.1.2)

/-! ### The step -/

/-- What the package does next: an event of its own, a word of a sequencer or of a channel, a request taken in, or the end of the
cycle. -/
inductive Act where
  | event (i : Instr)
  | word (t : Turn) (i : Instr)
  | request (k : Nat) (i : Instr)
  | advance
  deriving DecidableEq, Repr

/-- Cores in the order of their logical indices, in which what several do in one cycle is done (R190, R206, R249). -/
def insertByIndex (e : Nat × Core) : List (Nat × Core) → List (Nat × Core)
  | [] => [e]
  | x :: xs => if e.2.lidx < x.2.lidx then e :: x :: xs else x :: insertByIndex e xs

/-- The cores by ascending logical index. -/
def coresByIndex (s : State) : List (Nat × Core) := s.cores.foldl (fun acc e => insertByIndex e acc) []

/-- The events that come before the words of a cycle. -/
def earlyEvent (s : State) : Option Instr :=
  (s.worlds.findSome? fun (e : Nat × World) => firstDue (worldEvents s e.1 e.2)) <|>
  firstDue (managerEvents s) <|>
  (s.launches.findSome? fun (e : Nat × Launch) => firstDue (launchEvents s e.1 e.2)) <|>
  ((coresByIndex s).findSome? fun (e : Nat × Core) => firstDue (coreEvents s e.1 e.2)) <|>
  (s.rows.findSome? fun (e : Nat × List RowCmd) => firstDue (rowEvents s e.1)) <|>
  (s.colls.findSome? fun i => firstDue (collEvents s i)) <|>
  (s.chans.findSome? fun (e : Nat × Channel) => firstDue (chanEvents s e.1 e.2)) <|>
  (s.rows.findSome? fun (e : Nat × List RowCmd) => firstDue (rowEnds s e.1)) <|>
  freshChannelEvent s <|>
  (s.launches.findSome? fun (e : Nat × Launch) => firstDue [(segmentEndDue s e.1, .segmentEnd e.1)])

/-- Whether a core's inbound port takes a line of a core with a smaller logical index before the core's own word: accesses of one cycle are
performed by ascending logical index (R206, R342). -/
def inboundFirst (c : Core) (cyc : Nat) : Bool := inDue c cyc && (inNext c).any fun r => decide (r.fromIdx < c.lidx)

/-- Whether a word is the PHEND of class 6: it accesses nothing, and from its issue cycle on no inbound access passes (R410). -/
def closesInbound (i : Instr) : Bool :=
  match i with
  | .phend _ k => decide (k = 6)
  | _ => false

/-- The word of the cycle that is tried next; none in an edge gap (R239). -/
def nextWord (s : State) : Option Act :=
  if inGap s then none
  else
    match dueStream s with
    | some (p, q) =>
      if inboundFirst (getCore s p) s.cyc && !closesInbound (wordAct (getCore s p) q) then some (.event (.inboundLineTake p))
      else
        match owedTrap s p with
        | some i => some (.event i)
        | none => some (.word ⟨p, q, 0⟩ (wordAct (getCore s p) q))
    | none => (dueChannel s).map fun e => .word ⟨0, .c, e.1⟩ e.2

/-- The events that come after the words of a cycle: lines taken at the inbound ports (R204), rows of scratchpad tables, what has run late,
and the end of a trapped segment, whose stop window holds this cycle's causes too (R249). -/
def lateEvent (s : State) : Option Instr :=
  (s.cores.findSome? fun (e : Nat × Core) => firstDue [(inDue e.2 s.cyc, .inboundLineTake e.1)]) <|>
  (s.rows.findSome? fun (e : Nat × List RowCmd) => firstDue (rowApplies s e.1)) <|>
  (s.chans.findSome? fun (e : Nat × Channel) =>
    firstDue [((missedBank e.2 s.cyc).isSome, .refreshDeadlineMissed e.1 ((missedBank e.2 s.cyc).getD 0))]) <|>
  (s.cores.findSome? fun (e : Nat × Core) => firstDue (lateEvents s e.1 e.2)) <|>
  (s.launches.findSome? fun (e : Nat × Launch) => firstDue [(overrunDue s e.2, .frameOverrun e.1)]) <|>
  (s.launches.findSome? fun (e : Nat × Launch) => firstDue [(trapEndDue s e.1, .trapSegmentEnd e.1)])

/-- What the package does next. -/
def nextAct (s : State) : Act :=
  if s.boot = .off then .event .packageResetRelease
  else
    match dueRequest s with
    | some (k, i) => .request k i
    | none =>
      match earlyEvent s with
      | some i => .event i
      | none =>
        match nextWord s with
        | some a => a
        | none =>
          match lateEvent s with
          | some i => .event i
          | none => .advance

/-- A core at the end of a cycle: its operand buffers written (R406), its settled writes put down, what CRD will return (R375). -/
def endOfCycle (cyc : Nat) (c : Core) : Core :=
  let c1 := settleCore cyc (applyOb c)
  { c1 with binPrev := none, snapWarn := c1.regs.warn, snapCsn := c1.regs.csn, snapSlip := coreSlip c1 }

/-- The end of a cycle: the posts that are due (R210), barrier updates in their order (R347), channels and cores settled, CYC and DTIME
moved on (R14, R16). -/
def advance (s : State) : State :=
  let s0 := s.cores.foldl (fun (s : State) (e : Nat × Core) => if e.2.posts.isEmpty then s else flushPosts s e.1) s
  let s1 := s0.cores.foldl (fun (s : State) (e : Nat × Core) => if e.2.bars.isEmpty then s else flushBars s e.1) s0
  let s2 := s1.chans.foldl (fun (s : State) (e : Nat × Channel) => settleChan s e.1) s1
  { s2 with
    cores := (s2.cores.map fun (e : Nat × Core) => (e.1, endOfCycle s2.cyc e.2)).filter fun e => decide (e.2 ≠ Core.zero)
    cyc := s2.cyc + 1
    dtime := if inGap s2 && dtimeFollows s2 then s2.dtime else s2.dtime + 1 }

/-- The state with the turn given to a word. -/
def State.withTurn (s : State) (t : Turn) : State := { s with turn := t }

/-! ### A word placed for the next step -/

/-- A sequencer that accepts an instruction word (Table 10.3). -/
def homeSeq (i : Option Instr) : Seq :=
  match i with
  | some (.vld _) | some (.copy _) | some (.obld _) | some (.mark _ _) | some (.boget _ _) => .l
  | some (.vst _) | some (.route _) => .s
  | some (.mma _) | some (.mmap _) | some (.mret _) | some (.mdrain _) => .x
  | some i => if (encode i).length = 3 then .x else .c
  | none => .c

/-- The segment that holds the placed word (log 42). -/
def placedSegment : Segment := ⟨64000, 65535, [0, 0, 0, 0], [], []⟩

/-- The launch of world 1 that runs the placed word on core 0 (log 42). -/
def placedLaunch (dtime : Nat) : Launch :=
  { Launch.zero with
    world := 1, phase := .running, lcount := 1, cores := [0], segs := [placedSegment],
    run := some ⟨0, 0, dtime, 64512, none, [], [], [], [], []⟩ }

/-- Core 0 with the placed parcels at the position of a sequencer. -/
def placedCore (q : Seq) (ps : List Word32) : Core :=
  setStream { Core.zero with istore := [(q, 0, ps)], launch := some 0, world := 1 } q { Stream.zero with ended := false }

end Sys2Proof.Machine
end

