-- ==== Sys2Proof/Machine/Step.lean ====
section
/-!
DEFINITION. The step: one action of the package's order (R206, R249), and a word placed for the next step (log 42).
-/

namespace Sys2Proof.Machine

open Sys2Proof

/-- THE STEP. -/
def step (s : State) : Host.Outcome State Fault Refusal :=
  match nextAct s with
  | .event i => exec i s
  | .word t i => exec i (s.withTurn t)
  | .request k i => if isOutside i then exec i { s with inbox := s.inbox.eraseIdx k } else .next { s with inbox := s.inbox.eraseIdx k }
  | .advance => .next (advance s)

/-- The state in which the next step fetches and runs a word (log 42): one core of one launch, in the ninth cycle of a segment that
holds nothing else, no other agent with anything to do. -/
def State.withFetchWord (s : State) (nbits w : Nat) : State :=
  let q := homeSeq (decodeTableWord nbits w)
  { s with
    cyc := 8, turn := ⟨0, q, 0⟩, boot := .running, off := false, frameLog2 := Config.frameLog2, cores := [(0, placedCore q
      (parcelsOfBytes (Sys2Proof.tableBytes nbits w)))], chans := [], rows := [], colls := [], launches := [(0, placedLaunch s.dtime)],
    worlds := [(1, { World.zero with enabled := true })], inbox := [] }

end Sys2Proof.Machine
end

