-- ==== Sys2Proof/Safety.lean ====
section
/-!
DEFINITION. What counts as a safe run, and the terms in which claims about the machine are stated: the canonical form of every
memory, what a word leaves of its core and of everything else, and what a taken trap leaves.
-/

namespace Sys2Proof.Machine

open Sys2Proof

/-! ### The invariant of a safe run -/

/-- Every memory of a core in its canonical form: the scratchpad and the control memory. -/
def Core.Canonical (c : Core) : Prop := Memory.wf c.spad = true ∧ Memory.wf c.ctl = true

/-- The lines that wait at a core's inbound port, each under a number of its own below `ids`, so that the take of one leaves the others. -/
def Core.Numbered (c : Core) (ids : Nat) : Prop := (c.inbound.map (·.id)).Nodup ∧ ∀ r ∈ c.inbound, r.id < ids

/-- Every memory that the state holds in its canonical form: package, host and domain memory, every core's scratchpad and control memory,
those of the images sealed for a launch, and the scratchpads kept for a world; and every inbound port's lines numbered. -/
def State.Canonical (s : State) : Prop :=
  Memory.wf s.pkg = true ∧ Memory.wf s.host = true ∧ Memory.wf s.domainMem = true ∧
    (∀ e ∈ s.cores, e.2.Canonical ∧ e.2.Numbered s.ids) ∧
    (∀ e ∈ s.launches, ∀ i ∈ e.2.images, Memory.wf i.2.spad = true ∧ Memory.wf i.2.ctl = true) ∧
    ∀ e ∈ s.worlds, ∀ i ∈ e.2.idle, Memory.wf i.2 = true

/-- A run is safe as long as its steps answer next states: this machine has no fault and refuses nothing. -/
def Safe (s : State) : Prop := ∃ t, step s = .next t

/-! ### What a word leaves -/

/-- The core of the running turn. -/
def turnCore (s : State) : Core := getCore s s.turn.core

/-- The stream of the running turn. -/
def turnStream (s : State) : Stream := streamOf (turnCore s) s.turn.q

/-- From s to t one core has become c and nothing else of the package has changed. -/
def OnlyCore (s t : State) (p : Nat) (c : Core) : Prop :=
  t = { s with cores := t.cores } ∧ getCore t p = c ∧ ∀ j, j ≠ p → getCore t j = getCore s j

/-- An instruction answers a next state, in which the turn's core has become c and everything else is as in s1. -/
def LeavesFrom (i : Instr) (s s1 : State) (c : Core) : Prop := ∃ t, exec i s = .next t ∧ OnlyCore s1 t s.turn.core c

/-- An instruction answers a next state, in which the turn's core has become c and nothing else has changed. -/
def Leaves (i : Instr) (s : State) (c : Core) : Prop := LeavesFrom i s s c

/-- A core whose stream q has issued a word of len parcels and goes on in the next cycle, with MBZ set where the word's reserved
bits were not zero (R37, R258, R391). -/
def goesOn (c : Core) (q : Seq) (cyc len : Nat) (mbz : Bool) : Core :=
  setStream (warnIf mbz warnMbz c) q (flowStream (streamOf c q) len cyc (.on (cyc + 1) false))

/-- A core whose stream q has issued a word of len parcels with these warnings and goes on in the next cycle. -/
def goesOnWarned (c : Core) (q : Seq) (cyc len : Nat) (warns : List Nat) : Core :=
  setStream (warnAll warns c) q (flowStream (streamOf c q) len cyc (.on (cyc + 1) false))

/-- A core whose stream q has issued a word and goes on at a target after so many bubbles (R59, R392). -/
def jumpsTo (c : Core) (q : Seq) (cyc : Nat) (mbz : Bool) (target bubbles : Nat) (closes : Bool) : Core :=
  setStream (warnIf mbz warnMbz c) q (flowStream (streamOf c q) 1 cyc (.jump target bubbles closes))

/-- A scalar word of len parcels completes with one result: value v, static bit st, landing in register d after n stream cycles, and
nothing else changed (R48, R55). -/
def Gives (i : Instr) (s : State) (mbz : Bool) (len : Nat) (d : Reg) (n : Nat) (v : Word64) (st : Bool) : Prop :=
  Leaves i s (goesOn (fly (turnCore s) s.turn.q s.cyc (.reg s.turn.q d.toNat) n (.word v st)) s.turn.q s.cyc len mbz)

/-- A core whose C has made a scalar access in a cycle, complete eight cycles later (R208). -/
def accessed (c : Core) (cyc : Nat) : Core := { c with lastScalar := max c.lastScalar (cyc + 8) }

/-- The register fields of a word name registers of the issuing sequencer: C, or L or S with numbers below 16 (R337). -/
def FieldsOk (s : State) (rs : List Reg) : Prop := s.turn.q = .c ∨ (s.turn.q = .l ∨ s.turn.q = .s) ∧ ∀ r ∈ rs, r.toNat < 16

/-- The hazard detector has nothing to report on a word: it is off, or no register the word reads has a write in flight and no
result lands with the word's own (R67). -/
def NoHazard (s : State) (reads : List Dest) (writes : List (Dest × Nat)) : Prop := hazard s reads writes = false

/-- The words whose whole effect is on their own sequencer and one result: the scalar arithmetic, the branches and the stream words
that move nothing else. -/
def PlainWord (i : Instr) : Prop :=
  (∃ h d a b, i = .add h d a b ∨ i = .sub h d a b ∨ i = .mul h d a b ∨ i = .mulh h d a b ∨ i = .mulhn h d a b ∨ i = .div h d a b ∨
    i = .divn h d a b ∨ i = .rem h d a b ∨ i = .remn h d a b ∨ i = .and h d a b ∨ i = .andn h d a b ∨ i = .or h d a b ∨
    i = .xor h d a b ∨ i = .shl h d a b ∨ i = .shr h d a b ∨ i = .sha h d a b ∨ i = .rot h d a b ∨ i = .min h d a b ∨
    i = .minn h d a b ∨ i = .max h d a b ∨ i = .maxn h d a b ∨ i = .cmpeq h d a b ∨ i = .cmpne h d a b ∨ i = .cmplt h d a b ∨
    i = .cmpltn h d a b ∨ i = .cmple h d a b ∨ i = .cmplen h d a b ∨ i = .sel h d a b) ∨
  (∃ h d a, i = .clz h d a ∨ i = .ctz h d a ∨ i = .popc h d a) ∨
  (∃ h d a w, i = .sext h d a w ∨ i = .zext h d a w) ∨
  (∃ h d a k, i = .addi h d a k ∨ i = .andi h d a k ∨ i = .ori h d a k ∨ i = .xori h d a k) ∨
  (∃ h d a n, i = .shli h d a n ∨ i = .shri h d a n ∨ i = .shai h d a n) ∨
  (∃ h d v, i = .li h d v) ∨ (∃ h d a v, i = .lih h d a v) ∨
  (∃ h off, i = .b h off) ∨ (∃ h a off, i = .bz h a off ∨ i = .bnz h a off ∨ i = .call h a off ∨ i = .loop h a off) ∨
  (∃ h, i = .ret h ∨ i = .realign h ∨ i = .nop h) ∨ (∃ h j off, i = .prepLabel h j off) ∨ (∃ h j r, i = .prepRegister h j r) ∨
  (∃ h j, i = .jp h j) ∨ (∃ h n, i = .idle h n) ∨ ∃ h d k, i = .stamp h d k

/-! ### Vector words -/

/-- A vector word of a form whose fields select nothing reserved, whose queue heads and places are there and on which the hazard
detector has nothing to report completes on X: its sources are read and popped, its lanes go on their way to its destination, and X
goes on (R432, R433). -/
def GivesLanes (i : Instr) (s : State) (w : VecWord) (f : VecForm) (fn : VecArgs → VecResult) : Prop :=
  s.turn.q = .x → vecBad w f = false → vecStall w f s = none →
    NoHazard s (vecPlan w f fn).reads (vecPlan w f fn).writes →
    let x := vecArgs w f s
    exec i s = .next (issued 3 (vecWarns w f)
      (deliverLanes (warnHereIf (fn x).nanz warnNanz (popSources w f s)) w.dst.toNat f.lat x.active (ty64 f.ty) (fn x).lanes)
      (.on (s.cyc + 1) false))

/-- A vector word that computes each lane of its result from the lane's number and its sources. -/
def GivesEachLane (i : Instr) (s : State) (w : VecWord) (f : VecForm) (lane : VecArgs → Nat → Word32) : Prop :=
  GivesLanes i s w f fun x => ⟨tabulate (lane x), false⟩

/-! ### Bins -/

/-- The trees of the descriptors are sound (R147, R148): every defined bin's chain of parents ends within four levels at a root and
repeats no bin, and the carries of a root are other roots. -/
def BinTrees (bs : SMap Bin) : Prop :=
  ∀ b, b < 16 → (getBin bs b).defined = true →
    (chainOf bs b).Nodup ∧ (chainOf bs b).length ≤ 4 ∧ (∃ r, (chainOf bs b).getLast? = some r ∧ (getBin bs r).isRoot = true) ∧
    ((getBin bs b).isRoot = true → (getBin bs b).hasCarry = true → ∀ x ∈ [(getBin bs b).carryA, (getBin bs b).carryB],
      x ≠ 15 ∧ x ≠ b ∧ (getBin bs x).isRoot = true)

/-! ### What stays as it was -/

/-- Every register of every core holds what it held, WARN apart. -/
def SameRegisters (s t : State) : Prop :=
  ∀ p, (getCore t p).regs = { (getCore s p).regs with warn := (getCore t p).regs.warn }

/-- Every byte of package, host, domain, scratchpad and control memory reads as it did. -/
def SameMemory (s t : State) : Prop :=
  (∀ a, memGet t.pkg a = memGet s.pkg a) ∧ (∀ a, memGet t.host a = memGet s.host a) ∧
    (∀ a, memGet t.domainMem a = memGet s.domainMem a) ∧
    (∀ p cyc a, spadNow (getCore t p) cyc a 1 = spadNow (getCore s p) cyc a 1) ∧
    ∀ p a, memGet (getCore t p).ctl a = memGet (getCore s p).ctl a

/-- WARN of every core holds what it held, but for the bits of a mask on one core, which may have been set. -/
def WarnsOnly (s t : State) (p : Nat) (mask : Word64) : Prop :=
  ∀ j, if j = p then (getCore t j).regs.warn &&& ~~~ mask = (getCore s j).regs.warn &&& ~~~ mask
    else (getCore t j).regs.warn = (getCore s j).regs.warn

/-! ### Traps -/

/-- The first trap of the segment that a launch runs. -/
def trapOf (s : State) (n : Nat) : Option Trap := (getLaunch s n).run.bind (·.trap)

/-- An instruction of the turn's word takes a trap: the launch's segment, which no trap had ended, has this one, raised in the
running cycle by the turn's sequencer; the core stops at the next cycle; no register, no memory and no other launch has changed
(R248, R249). -/
def Traps (i : Instr) (s : State) (n cause first faddr user : Nat) (detail : List Nat) : Prop :=
  ∃ t, exec i s = .next t ∧
    trapOf t n = some ⟨cause, s.cyc, (turnCore s).lidx, partyNo (.seq s.turn.q), false, some s.turn.core, first, faddr, detail, user⟩ ∧
    (getCore t s.turn.core).stopAt = some (s.cyc + 1) ∧ SameRegisters s t ∧ SameMemory s t ∧
    (∀ p, (getCore t p).regs.warn = (getCore s p).regs.warn) ∧ ∀ m, m ≠ n → getLaunch t m = getLaunch s m

/-- The turn's core runs a segment of launch n that no trap has ended, and has not been told to stop. -/
def RunsClean (s : State) (n : Nat) : Prop :=
  (turnCore s).launch = some n ∧ (turnCore s).stopAt = none ∧ ∃ r, (getLaunch s n).run = some r ∧ r.trap = none

/-! ### The device's own steps -/

/-- An instruction answers a next state, in which core p has become c and everything else is as it was. -/
def CoreBecomes (i : Instr) (s : State) (p : Nat) (c : Core) : Prop := ∃ t, exec i s = .next t ∧ OnlyCore s t p c

/-- From s to t one world has become x and nothing else of the package has changed. -/
def OnlyWorld (s t : State) (w : Nat) (x : World) : Prop :=
  t = { s with worlds := t.worlds } ∧ getWorld t w = x ∧ ∀ v, v ≠ w → getWorld t v = getWorld s v

/-- An instruction answers a next state, in which world w has become x and everything else is as in s1. -/
def WorldFrom (i : Instr) (s s1 : State) (w : Nat) (x : World) : Prop := ∃ t, exec i s = .next t ∧ OnlyWorld s1 t w x

/-- An instruction answers exactly this next state. -/
def Answers (i : Instr) (s t : State) : Prop := exec i s = .next t

/-- A launch runs a segment that no trap has ended. -/
def LaunchClean (s : State) (n : Nat) : Prop := ∃ r, (getLaunch s n).run = some r ∧ r.trap = none

/-- From s to t one channel has become c and nothing else of the package has changed. -/
def OnlyChan (s t : State) (ch : Nat) (c : Channel) : Prop :=
  t = { s with chans := t.chans } ∧ getChan t ch = c ∧ ∀ j, j ≠ ch → getChan t j = getChan s j

/-- An instruction answers a next state, in which a channel has become c and everything else is as it was. -/
def ChanBecomes (i : Instr) (s : State) (ch : Nat) (c : Channel) : Prop := ∃ t, exec i s = .next t ∧ OnlyChan s t ch c

/-- A channel word of the turn's channel completes: the channel becomes c and its program moves on (R128, R132). -/
def ChanIssues (i : Instr) (s : State) (c : Channel) : Prop := ChanBecomes i s s.turn.chan (chanAdvance c s.cyc)

/-- The launch that a channel's program belongs to runs a segment that no trap has ended. -/
def ChanRunsClean (s : State) (ch n : Nat) : Prop :=
  (∃ run, (getChan s ch).run = some run ∧ run.launch = n) ∧ ∃ r, (getLaunch s n).run = some r ∧ r.trap = none

/-- An instruction ends the segment of a channel's launch with a trap of the channel's word: the record names the channel, the word
and its cycle, the channel's program has ended, no core register and no memory has changed (R134, R145). -/
def ChanTraps (i : Instr) (s : State) (ch n cause : Nat) : Prop :=
  ∃ t run, exec i s = .next t ∧ (getChan s ch).run = some run ∧ (getChan t ch).run = none ∧
    trapOf t n = some ⟨cause, s.cyc, ch, 9, true, none, 0, 0, [ch, chanIndex run, s.cyc], 0⟩ ∧ t.cores = s.cores ∧ SameMemory s t

/-- A write to a scratchpad without the mark of the completion that released it. -/
def bareWrite (w : SpadWrite) : SpadWrite := { w with relAt := 0, relTo := [] }

/-- From s to t a command of an engine of core p completes (R23, R24, R157, R210, R380), p having become c but for what a completion
does: in the same cycle its post joins p's in the order of R24, which makes its count, its event record and its barrier's arrival of n
bytes at the end of the cycle; and every party of p, and of the core that holds the barrier, sees each of its writes from this cycle
on. That a write is seen so where R202 alone would show it later is the model's reading (log 84, DEDUCED). -/
def Completes (s t : State) (p : Nat) (party : Party) (cmd engine status : Nat) (b : Option BarRef) (n : Nat) (fail : Bool) (c : Core) :
    Prop :=
  getCore t p = { post c s.cyc engine (some status) party b n fail with recent := (getCore t p).recent } ∧
    (getCore t p).recent.map bareWrite = c.recent.map bareWrite ∧
    ∀ q ∈ releasedTo p b, ∀ w ∈ (getCore t q).recent, w.party = party → w.cmd = cmd → ∀ op, visFrom w q op ≤ s.cyc

/-- An instruction answers a next state in which a command of an engine of core p has completed, p having become c, and everything but p
and the marks on the command's writes is as it was. -/
def CompletesOn (i : Instr) (s : State) (p : Nat) (party : Party) (cmd engine status : Nat) (b : Option BarRef) (n : Nat) (fail : Bool)
    (c : Core) : Prop :=
  ∃ t, exec i s = .next t ∧ Completes s t p party cmd engine status b n fail c ∧
    OnlyCore (releaseAll s party cmd (releasedTo p b)) t p (getCore t p)

/-- One level of the tree of R298 over P participants: t[r] takes in t[r + step] where r is a multiple of twice the step and r + step < P. -/
def treeLevel (f : Word32 → Word32 → Word32) (parts : Nat) (t : Nat → Lanes) (lvl : Nat) (r : Nat) : Lanes :=
  if r % (2 * 2 ^ lvl) = 0 ∧ r + 2 ^ lvl < parts then List.zipWith f (t r) (t (r + 2 ^ lvl)) else t r

/-- The result of the fixed tree of R298 over the participants' vectors, in rank order: t[0] after twenty levels. -/
def treeResult (f : Word32 → Word32 → Word32) (xs : List Lanes) : Lanes :=
  (List.range 20).foldl (treeLevel f xs.length) (fun r => xs.getD r []) 0

/-- A scratchpad holds a write of a cycle by a unit, of some bytes at an address. -/
def Stored (c : Core) (cyc : Nat) (party : Party) (a : Nat) (bs : List Byte) : Prop :=
  ∃ w ∈ c.recent, w.cyc = cyc ∧ w.party = party ∧ w.addr = a ∧ w.bytes = bs

/-- The stamp of a matrix word is absent, or due: it equals the low 32 bits of the cycles since the segment's entry (R40). -/
def StampDue (s : State) (w : MatWord) : Prop :=
  w.stamp = 0xFFFFFFFF ∨ (entryOf s s.turn.core + w.stamp.toNat) % 2 ^ 32 = s.cyc % 2 ^ 32

end Sys2Proof.Machine
end

