-- ==== Sys2Proof/Certificates/Slice0/Obligations.lean ====
section
/-!
DEFINITION. The statements of this row, for the provers.
-/

open Sys2Proof Sys2Proof.Machine

/-! ### Scalar arithmetic -/

/-- R338, R339, R360, R393, R407, R414, R425, R454: the two-source words of latency 1 complete with these results. -/
def Obligations.ScalarBinaryResults : Prop :=
  ∀ (s : State) (h : Hdr) (d a b : Reg), FieldsOk s [d, a, b] →
    NoHazard s [destHere s a, destHere s b] [(destHere s d, 1)] →
    let x := (regHere s a).val
    let y := (regHere s b).val
    let st := (regHere s a).static && (regHere s b).static
    let n := y.toNat % 64
    Gives (.add h d a b) s h.mbz 1 d 1 (x + y) st ∧
    Gives (.sub h d a b) s h.mbz 1 d 1 (x - y) st ∧
    Gives (.and h d a b) s h.mbz 1 d 1 (x &&& y) st ∧
    Gives (.andn h d a b) s h.mbz 1 d 1 (x &&& ~~~ y) st ∧
    Gives (.or h d a b) s h.mbz 1 d 1 (x ||| y) st ∧
    Gives (.xor h d a b) s h.mbz 1 d 1 (x ^^^ y) st ∧
    Gives (.shl h d a b) s h.mbz 1 d 1 (BitVec.ofNat 64 (x.toNat * 2 ^ n)) st ∧
    Gives (.shr h d a b) s h.mbz 1 d 1 (BitVec.ofNat 64 (x.toNat / 2 ^ n)) st ∧
    Gives (.sha h d a b) s h.mbz 1 d 1 (BitVec.ofInt 64 (x.toInt / 2 ^ n)) st ∧
    Gives (.rot h d a b) s h.mbz 1 d 1 (x.rotateLeft n) st ∧
    Gives (.min h d a b) s h.mbz 1 d 1 (if x.toInt < y.toInt then x else y) st ∧
    Gives (.minn h d a b) s h.mbz 1 d 1 (if x.toNat < y.toNat then x else y) st ∧
    Gives (.max h d a b) s h.mbz 1 d 1 (if y.toInt < x.toInt then x else y) st ∧
    Gives (.maxn h d a b) s h.mbz 1 d 1 (if y.toNat < x.toNat then x else y) st ∧
    Gives (.cmpeq h d a b) s h.mbz 1 d 1 (if x = y then 1 else 0) st ∧
    Gives (.cmpne h d a b) s h.mbz 1 d 1 (if x = y then 0 else 1) st ∧
    Gives (.cmplt h d a b) s h.mbz 1 d 1 (if x.toInt < y.toInt then 1 else 0) st ∧
    Gives (.cmpltn h d a b) s h.mbz 1 d 1 (if x.toNat < y.toNat then 1 else 0) st ∧
    Gives (.cmple h d a b) s h.mbz 1 d 1 (if y.toInt < x.toInt then 0 else 1) st ∧
    Gives (.cmplen h d a b) s h.mbz 1 d 1 (if y.toNat < x.toNat then 0 else 1) st

/-- R378, R400, R412: MUL, MULH and MULHN complete with latency 3, DIV, DIVN, REM and REMN with latency 24; the remainder takes the
dividend's sign, a zero divisor gives quotient 0 and the dividend as remainder and sets warn(DIVZ). -/
def Obligations.ScalarMulDivResults : Prop :=
  ∀ (s : State) (h : Hdr) (d a b : Reg), FieldsOk s [d, a, b] →
    let x := (regHere s a).val
    let y := (regHere s b).val
    let st := (regHere s a).static && (regHere s b).static
    let divides (i : Instr) (v : Word64) : Prop :=
      Leaves i s (goesOn (fly (warnIf (decide (y = 0)) warnDivz (turnCore s)) s.turn.q s.cyc (.reg s.turn.q d.toNat) 24 (.word v st))
        s.turn.q s.cyc 1 h.mbz)
    (NoHazard s [destHere s a, destHere s b] [(destHere s d, 3)] →
      Gives (.mul h d a b) s h.mbz 1 d 3 (BitVec.ofNat 64 (x.toNat * y.toNat)) st ∧
      Gives (.mulh h d a b) s h.mbz 1 d 3 (BitVec.ofInt 64 (x.toInt * y.toInt / 2 ^ 64)) st ∧
      Gives (.mulhn h d a b) s h.mbz 1 d 3 (BitVec.ofNat 64 (x.toNat * y.toNat / 2 ^ 64)) st) ∧
    (NoHazard s [destHere s a, destHere s b] [(destHere s d, 24)] →
      divides (.div h d a b) (if y = 0 then 0 else BitVec.ofInt 64 (x.toInt.tdiv y.toInt)) ∧
      divides (.divn h d a b) (if y = 0 then 0 else BitVec.ofNat 64 (x.toNat / y.toNat)) ∧
      divides (.rem h d a b) (if y = 0 then x else BitVec.ofInt 64 (x.toInt - y.toInt * x.toInt.tdiv y.toInt)) ∧
      divides (.remn h d a b) (if y = 0 then x else BitVec.ofNat 64 (x.toNat % y.toNat)))

/-- R338, R339, R359, R407, R414, R422, R454: the one-source words complete with these results; the counts of CLZ, CTZ and POPC are
given by what they count. R390, R421: SEL picks A or B by D and is static when all three are; LI writes the sign-extended IMM32,
static; LIH puts IMM32 above the low half of A. -/
def Obligations.ScalarUnaryResults : Prop :=
  (∀ (s : State) (h : Hdr) (d a : Reg) (i : BitVec 10) (n : BitVec 6), FieldsOk s [d, a] →
     NoHazard s [destHere s a] [(destHere s d, 1)] →
     let x := (regHere s a).val
     let st := (regHere s a).static
     (∃ k, k ≤ 64 ∧ (∀ j, 64 - k ≤ j → x.getLsbD j = false) ∧ (k < 64 → x.getLsbD (63 - k) = true) ∧
       Gives (.clz h d a) s h.mbz 1 d 1 (BitVec.ofNat 64 k) st) ∧
     (∃ k, k ≤ 64 ∧ (∀ j, j < k → x.getLsbD j = false) ∧ (k < 64 → x.getLsbD k = true) ∧
       Gives (.ctz h d a) s h.mbz 1 d 1 (BitVec.ofNat 64 k) st) ∧
     Gives (.popc h d a) s h.mbz 1 d 1 (BitVec.ofNat 64 ((List.range 64).filter fun j => x.getLsbD j).length) st ∧
     (∀ w : BitVec 5, w.toNat ≤ 2 →
       Gives (.sext h d a w) s h.mbz 1 d 1 ((x.setWidth (8 * 2 ^ w.toNat)).signExtend 64) st ∧
       Gives (.zext h d a w) s h.mbz 1 d 1 ((x.setWidth (8 * 2 ^ w.toNat)).setWidth 64) st) ∧
     Gives (.addi h d a i) s h.mbz 1 d 1 (x + i.signExtend 64) st ∧
     Gives (.andi h d a i) s h.mbz 1 d 1 (x &&& i.signExtend 64) st ∧
     Gives (.ori h d a i) s h.mbz 1 d 1 (x ||| i.signExtend 64) st ∧
     Gives (.xori h d a i) s h.mbz 1 d 1 (x ^^^ i.signExtend 64) st ∧
     Gives (.shli h d a n) s h.mbz 1 d 1 (BitVec.ofNat 64 (x.toNat * 2 ^ n.toNat)) st ∧
     Gives (.shri h d a n) s h.mbz 1 d 1 (BitVec.ofNat 64 (x.toNat / 2 ^ n.toNat)) st ∧
     Gives (.shai h d a n) s h.mbz 1 d 1 (BitVec.ofInt 64 (x.toInt / 2 ^ n.toNat)) st) ∧
  (∀ (s : State) (h : Hdr) (d a b : Reg) (imm : Word32),
     (FieldsOk s [d, a, b] → NoHazard s [destHere s d, destHere s a, destHere s b] [(destHere s d, 1)] →
       Gives (.sel h d a b) s h.mbz 1 d 1 (if (regHere s d).val = 0 then (regHere s b).val else (regHere s a).val)
         ((regHere s d).static && (regHere s a).static && (regHere s b).static)) ∧
     (s.turn.q = .c → NoHazard s [] [(destHere s d, 1)] → Gives (.li h d imm) s h.mbz 2 d 1 (imm.signExtend 64) true) ∧
     (s.turn.q = .c → NoHazard s [destHere s a] [(destHere s d, 1)] →
       Gives (.lih h d a imm) s h.mbz 2 d 1 (BitVec.ofNat 64 (imm.toNat * 2 ^ 32 + (regHere s a).val.toNat % 2 ^ 32))
         (regHere s a).static))

/-! ### Scalar frames, traps of the issue -/

/-- The frame of the plain words, whatever they do: completing, stalling, waiting or raising, they write no register (their results
land later), no byte of any memory, nothing of another core, and no WARN bit but MBZ, MOD and DIVZ. -/
def Obligations.PlainWordsFrame : Prop :=
  ∀ (s t : State) (i : Instr), PlainWord i → exec i s = .next t →
    SameRegisters s t ∧ SameMemory s t ∧ WarnsOnly s t s.turn.core 0x83#64 ∧
    (∀ j, j ≠ s.turn.core → getCore t j = getCore s j) ∧ t.worlds = s.worlds ∧ t.chans = s.chans ∧ t.cyc = s.cyc

/-- R257: a word of a sequencer that does not accept it raises 0x02, and nothing else happens: scalar arithmetic on X, an LI or an
LD on L, a VADD on C. R56, R61: a branch, a loop count or a prepared target taken from a register that is not static raises 0x14
and does nothing. R257, R265, R433: a vector word whose used source names a code of the upper half that no queue has, whose used
destination is lq, or whose TYPE is 15, raises 0x01 and does nothing; so does a VPACK of a 32-bit TYPE and a VRED of a reserved
FN. That lq, code 32, is no destination is the model's reading of Table 10.6 (log 30). -/
def Obligations.IssueChecksTrap : Prop :=
  (∀ (s : State) (n : Nat) (h : Hdr) (d a b : Reg) (imm : Word32) (sp : BitVec 5) (sz : BitVec 3) (w : VecWord), RunsClean s n →
     (s.turn.q = .x → Traps (.add h d a b) s n 0x02 0 0 0 []) ∧
     (s.turn.q ≠ .c → Traps (.li h d imm) s n 0x02 0 0 0 [] ∧ Traps (.ld h d a sp sz) s n 0x02 0 0 0 []) ∧
     (s.turn.q = .c → Traps (.vadd w) s n 0x02 0 0 0 [])) ∧
  (∀ (s : State) (n : Nat) (h : Hdr) (a : Reg) (off : BitVec 15) (j : BitVec 2), RunsClean s n → FieldsOk s [a] →
     NoHazard s [destHere s a] [] → NoHazard s [destHere s a] [(.jt s.turn.q j.toNat, 1)] → (regHere s a).static = false →
     Traps (.bz h a off) s n 0x14 0 0 0 [] ∧ Traps (.bnz h a off) s n 0x14 0 0 0 [] ∧
     Traps (.prepRegister h j a) s n 0x14 0 0 0 [] ∧ (0 < off.toInt → Traps (.loop h a off) s n 0x14 0 0 0 [])) ∧
  (∀ (s : State) (n : Nat) (w : VecWord), RunsClean s n → s.turn.q = .x →
     (w.ty = 15 → Traps (.vadd w) s n 0x01 0 0 0 [] ∧ Traps (.viadd w) s n 0x01 0 0 0 [] ∧ Traps (.vmov w) s n 0x01 0 0 0 []) ∧
     (39 ≤ w.sa.toNat → Traps (.vadd w) s n 0x01 0 0 0 [] ∧ Traps (.vimac w) s n 0x01 0 0 0 [] ∧ Traps (.vsel w) s n 0x01 0 0 0 []) ∧
     (w.dst = 32 → Traps (.vadd w) s n 0x01 0 0 0 []) ∧
     (w.ty = 0 → Traps (.vpack w) s n 0x01 0 0 0 []) ∧ (8 ≤ w.fn.toNat → Traps (.vred w) s n 0x01 0 0 0 []))

/-! ### Control flow -/

/-- R343, R357, R387, R391, R413, R59: branches, calls, returns and jumps go to their targets with the bubbles the rules give, a
branch not taken goes on, and a LOOP opens a level or, with a zero count, goes past its last word. -/
def Obligations.ControlFlowCompletes : Prop :=
  ∀ (s : State) (h : Hdr) (a : Reg) (off : BitVec 15) (j : BitVec 2),
    let c := turnCore s
    let q := s.turn.q
    let p := (turnStream s).pc
    let target (base : Nat) : Nat := (((base : Int) + off.toInt) % 2 ^ 32).toNat
    let v := regHere s a
    (q ≠ .x → NoHazard s [] [] → Leaves (.b h off) s (jumpsTo c q s.cyc h.mbz (target p) 1 true)) ∧
    (FieldsOk s [a] → NoHazard s [destHere s a] [] → v.static = true →
      Leaves (.bz h a off) s (if v.val = 0 then jumpsTo c q s.cyc h.mbz (target p) 1 true else goesOn c q s.cyc 1 h.mbz) ∧
      Leaves (.bnz h a off) s (if v.val = 0 then goesOn c q s.cyc 1 h.mbz else jumpsTo c q s.cyc h.mbz (target p) 1 true)) ∧
    (q = .c → NoHazard s [destHere s a] [(.reg .c 31, 1)] → v.static = true →
      Leaves (.call h a off) s (jumpsTo (fly c .c s.cyc (.reg .c 31) 1 (.word (BitVec.ofNat 64 (p + 1)) true)) .c s.cyc h.mbz
        (target (if a = 0 then p else v.val.toNat)) 1 false)) ∧
    (q = .c → NoHazard s [.reg .c 31] [] → (regHere s 31).static = true →
      Leaves (.ret h) s (jumpsTo c .c s.cyc h.mbz ((regHere s 31).val.toNat % 2 ^ 32) 1 false)) ∧
    (q ≠ .x → NoHazard s [.jt q j.toNat] [] → Leaves (.jp h j) s (jumpsTo c q s.cyc h.mbz (readJt c q j.toNat).toNat 0 true)) ∧
    (q ≠ .x → NoHazard s [] [(.jt q j.toNat, 1)] →
      Leaves (.prepLabel h j off) s
        (goesOn (fly c q s.cyc (.jt q j.toNat) 1 (.word (BitVec.ofNat 64 (target p)) true)) q s.cyc 1 h.mbz)) ∧
    (FieldsOk s [a] → NoHazard s [destHere s a] [(.jt q j.toNat, 1)] → v.static = true →
      Leaves (.prepRegister h j a) s
        (goesOn (fly c q s.cyc (.jt q j.toNat) 1 (.word (BitVec.ofNat 64 (v.val.toNat % 2 ^ 32)) true)) q s.cyc 1 h.mbz)) ∧
    (FieldsOk s [a] → NoHazard s [destHere s a] [] → v.static = true → 0 < off.toInt →
      let n := v.val.toNat % 2 ^ 32
      let c1 := warnIf (decide (2 ^ 32 ≤ v.val.toNat)) warnMod c
      (n = 0 → Leaves (.loop h a off) s (jumpsTo c1 q s.cyc h.mbz (target p + lenAt c q (target p)) 1 false)) ∧
      (n ≠ 0 → (turnStream s).loops.length < 4 →
        Leaves (.loop h a off) s (goesOn (setStream c1 q { turnStream s with loops := ⟨p + 1, target p, n⟩ :: (turnStream s).loops })
          q s.cyc 1 h.mbz)))

/-- R62, R354: BOPUT appends whether A is nonzero to the queue it names, where there is room; BOGET takes the oldest entry put in an
earlier cycle and branches on it. -/
def Obligations.BranchOutcomesComplete : Prop :=
  ∀ (s : State) (h : Hdr) (a : Reg) (k : BitVec 2) (off : BitVec 15) (b : Bool),
    let c := turnCore s
    let q := s.turn.q
    (q = .c → k ≠ 3 → NoHazard s [destHere s a] [] → (regHere s a).static = true → roomFor (boqOf c (boqSeq k)) 16 1 s.cyc = true →
      Leaves (.boput h a k) s
        (goesOn (setBoq c (boqSeq k) (pushQ (boqOf c (boqSeq k)) (decide ((regHere s a).val ≠ 0)) s.cyc)) .c s.cyc 1 h.mbz)) ∧
    (q ≠ .c → NoHazard s [] [] → headOf (boqOf c q) s.cyc = some b →
      let c1 := setBoq c q (popQ (boqOf c q) s.cyc)
      Leaves (.boget h off) s
        (if b then jumpsTo c1 q s.cyc h.mbz ((((turnStream s).pc : Int) + off.toInt) % 2 ^ 32).toNat 1 true
         else goesOn c1 q s.cyc 1 h.mbz))

/-- R39, R45, R356, R382, R385, R404, R411, R420, R424: IDLE waits, REALIGN goes on at the next tick with its SLIP field zero, STAMP
reads a count, NOP does nothing, BRK logs, SEGEND ends the stream and HALT the launch too. -/
def Obligations.StreamWordsComplete : Prop :=
  ∀ (s : State) (h : Hdr) (d : Reg) (sel : BitVec 2) (n : BitVec 15) (mask : BitVec 8), NoHazard s [] [] →
    let c := turnCore s
    let q := s.turn.q
    let next (st : Stream) (base : Nat) (fixed : Bool) (c : Core) : Core :=
      setStream (warnIf h.mbz warnMbz c) q (flowStream st 1 s.cyc (.on base fixed))
    let halts (c : Core) : Core :=
      setStream (warnIf h.mbz warnMbz c) q { turnStream s with stallRun := 0, issues := (turnStream s).issues + 1, ended := true }
    Leaves (.idle h n) s (next (turnStream s) (s.cyc + 1 + n.toNat) false c) ∧
    (let zeroed := { turnStream s with slip := 0 }
     Leaves (.realign h) s (next zeroed ((s.cyc / 2 ^ tickLog2Of s s.turn.core + 1) * 2 ^ tickLog2Of s s.turn.core) true
       (setStream c q zeroed))) ∧
    Leaves (.nop h) s (goesOn c q s.cyc 1 h.mbz) ∧
    (FieldsOk s [d] → NoHazard s [] [(destHere s d, 1)] →
      Gives (.stamp h d sel) s h.mbz 1 d 1
        (BitVec.ofNat 64 (if sel = 0 then s.cyc else if sel = 1 then entryOf s s.turn.core
          else if sel = 2 then s.dtime else dentryOf s s.turn.core)) true) ∧
    Leaves (.segend h mask) s
      (if q = .x then halts { c with live := mask.toNat } else halts (warnIf (decide (mask ≠ 0)) warnMbz c)) ∧
    (∀ m, q ≠ .x → c.launch = some m →
      LeavesFrom (.halt h) s (setLaunch s m { getLaunch s m with halt := true }) (halts c)) ∧
    ∀ m l r, runningOn s s.turn.core = some (m, l, r) → c.brks < 16 → ∃ t, exec (.brk h n) s = .next t ∧
      getCore t s.turn.core = goesOn { c with brks := c.brks + 1 } q s.cyc 1 h.mbz ∧
      (getWorld t l.world).faultLog = (getWorld s l.world).faultLog ++
        [[leNat (sliceBytes l.record 8 8), r.seg, c.lidx, seqNo q, (turnStream s).pc, s.cyc, n.toNat]]

/-- R427, R19: TKPUT and TKGET raise and lower their counter by n where the counter allows it. R212, R213, R216: a MARK whose
partner has made its MARK of the same count issues, with warn(ORD) where the numbers differ; a FENCE divides the commit buffer
at a release of domain or system scope, and otherwise only goes on: that an acquire FENCE holds nothing back by itself is the model's
choice (log 61). -/
def Obligations.TokenAndOrderingWordsComplete : Prop :=
  (∀ (s : State) (h : Hdr) (k n : BitVec 4), NoHazard s [] [] → k.toNat < 12 → n ≠ 0 →
     let c := turnCore s
     let t := getToken c k.toNat
     let with_ (t' : Token) : Core := goesOn { c with tokens := smSet Token.zero c.tokens k.toNat t' } s.turn.q s.cyc 1 h.mbz
     (s.turn.q = tokenFrom k.toNat → tokensRoom t n.toNat s.cyc = true →
       Leaves (.tkput h k n) s (with_ (putToken t n.toNat s.cyc)) ∧ (putToken t n.toNat s.cyc).count = t.count + n.toNat) ∧
     (s.turn.q = tokenTo k.toNat → n.toNat ≤ tokensReady t s.cyc → tokenHazard s k.toNat n.toNat = false →
       Leaves (.tkget h k n) s (with_ (takeToken t n.toNat s.cyc)) ∧ (takeToken t n.toNat s.cyc).count + n.toNat = t.count)) ∧
  (∀ (s : State) (h : Hdr) (n : BitVec 15) (sc : BitVec 3) (k : BitVec 2) (m : Nat × Nat), NoHazard s [] [] →
     let c := turnCore s
     let q := s.turn.q
     (q = .l ∨ q = .s → (marksOf c (markPartner q))[(marksOf c q).length]? = some m →
       Leaves (.mark h n) s (goesOn (addMark (warnIf (decide (m.2 ≠ n.toNat)) warnOrd c) q (s.cyc, n.toNat)) q s.cyc 1 h.mbz)) ∧
     (q ≠ .x →
       let c1 := warnIf (decide (5 ≤ sc.toNat) || decide (k = 3)) warnOrd c
       if k ≠ 1 ∧ 3 ≤ sc.toNat then
         LeavesFrom (.fence h sc k) s { s with ids := s.ids + 1 }
           (goesOn { c1 with fences := c1.fences ++ [(s.ids, if sc.toNat < 5 then sc.toNat else 4)] } q s.cyc 1 h.mbz)
       else Leaves (.fence h sc k) s (goesOn c1 q s.cyc 1 h.mbz)))

/-! ### Traps taken by a word -/

/-- R248 to R250, R256, R257, R430: TRAP raises 0x80 with its user code, an unassigned opcode 0x01 or 0x02, a word outside the
filled range 0x03 with the addresses; the trap is recorded, the core stops in the next cycle, nothing else has changed. R249: of
the traps of the stop window the recorded one is the first by cycle; among those of one cycle a core's comes before a channel's,
the lower logical index first and then the lower party; the others are kept beside it. -/
def Obligations.TrapWordsTakeTheirTrap : Prop :=
  (∀ (s : State) (n : Nat) (h : Hdr) (u : BitVec 15) (w : Word32) (k : Nat), RunsClean s n →
     (s.turn.q ≠ .x → NoHazard s [] [] → Traps (.trap h u) s n 0x80 0 0 u.toNat []) ∧
     Traps (.reservedOpcode w) s n (rejectCause s.turn.q w) 0 0 0 [] ∧
     Traps (.fetchFault k) s n 0x03 (imageAddr s (turnStream s).pc) (imageAddr s ((turnStream s).pc + k)) 0 []) ∧
  (∀ (s : State) (n p lidx party : Nat) (r : Raise) (run : SegRun) (x : Trap), (getLaunch s n).run = some run → run.trap = some x →
     let t : Trap := ⟨r.cause, s.cyc, lidx, party, false, some p, r.first, r.faddr, r.detail, r.user⟩
     let after := (getLaunch (takeTrap s n (some p) lidx party false r) n).run
     let first : Prop := x.chan = true ∨ lidx < x.lidx ∨ lidx = x.lidx ∧ party < x.party
     (x.cyc < s.cyc ∨ x.cyc = s.cyc ∧ ¬first → after = some { run with others := run.others ++ [t] }) ∧
     (x.cyc = s.cyc → first → after = some { run with trap := some t, others := run.others ++ [x] }))

/-! ### C's scalar accesses -/

/-- R340, R388, R389: an LD of the core's own scratchpad (SPACE 31, or SPACE 29 naming its own index) within class 5 reads the
bytes C sees there and its value lands after 6 cycles, not static; an LD of control memory reads it and lands after 3. Low
address bits are dropped with warn(MOD); i8, i16 and i32 are sign-extended. -/
def Obligations.LoadsComplete : Prop :=
  ∀ (s : State) (h : Hdr) (d a : Reg) (sp : BitVec 5) (sz : BitVec 3), s.turn.q = .c → sz ≠ 7 →
    NoHazard s [destHere s a] [(destHere s d, if sp = 30 then 3 else 6)] →
    let c := turnCore s
    let size := szBytes sz
    let v := (regHere s a).val.toNat
    let x := v / size * size
    let value (bs : List Byte) : Word64 :=
      if sz = 0 ∨ sz = 2 ∨ sz = 4 then ((BitVec.ofNat (8 * size) (leNat bs)).signExtend 64) else BitVec.ofNat 64 (leNat bs)
    let landing (n : Nat) (bs : List Byte) : Core :=
      fly (warnIf (decide (v % size ≠ 0)) warnMod c) .c s.cyc (.reg .c d.toNat) n (.word (value bs) false)
    (sp = 31 → v < 2 ^ 21 → phaseOk c 5 s.cyc true false x size = true →
      Leaves (.ld h d a sp sz) s
        (goesOn (accessed (landing 6 (spadRead c s.turn.core (.seq .c) s.cyc x size)) s.cyc) .c s.cyc 1 h.mbz)) ∧
    (sp = 29 → v < 2 ^ 30 → v / 2 ^ 21 = c.lidx → c.lidx < lcountOf s s.turn.core →
      phaseOk c 5 s.cyc true false (x % 2 ^ 21) size = true →
      Leaves (.ld h d a sp sz) s
        (goesOn (accessed (landing 6 (spadRead c s.turn.core (.seq .c) s.cyc (x % 2 ^ 21) size)) s.cyc) .c s.cyc 1 h.mbz)) ∧
    (sp = 30 → v < 2 ^ 16 → Leaves (.ld h d a sp sz) s (goesOn (landing 3 (memRead c.ctl x size)) .c s.cyc 1 h.mbz))

/-- R57, R388, R389: an ST to the core's own scratchpad (SPACE 31, or SPACE 29 naming its own index) within class 5 writes its low
bytes there in its issue cycle; an ST to control memory writes them and the word's static bit. -/
def Obligations.StoresComplete : Prop :=
  ∀ (s : State) (h : Hdr) (d a : Reg) (sp : BitVec 5) (sz : BitVec 3), s.turn.q = .c → sz ≠ 7 →
    NoHazard s [destHere s a, destHere s d] [] →
    let c := turnCore s
    let size := szBytes sz
    let v := (regHere s a).val.toNat
    let x := v / size * size
    let bs := leBytes size (regHere s d).val.toNat
    let c1 := warnIf (decide (v % size ≠ 0)) warnMod c
    (sp = 31 → v < 2 ^ 21 → phaseOk c 5 s.cyc false true x size = true →
      Leaves (.st h d a sp sz) s
        (goesOn (accessed (spadWrite c1 ⟨s.cyc, s.turn.core, c.lidx, .seq .c, x, bs, 0, 0, []⟩) s.cyc) .c s.cyc 1 h.mbz)) ∧
    (sp = 29 → v < 2 ^ 30 → v / 2 ^ 21 = c.lidx → c.lidx < lcountOf s s.turn.core →
      phaseOk c 5 s.cyc false true (x % 2 ^ 21) size = true →
      Leaves (.st h d a sp sz) s
        (goesOn (accessed (spadWrite c1 ⟨s.cyc, s.turn.core, c.lidx, .seq .c, x % 2 ^ 21, bs, 0, 0, []⟩) s.cyc) .c s.cyc 1 h.mbz)) ∧
    (sp = 30 → v < 2 ^ 16 →
      Leaves (.st h d a sp sz) s
        (goesOn { c1 with
            ctl := memWrite c.ctl x bs
            ctlTag := smSet true c.ctlTag (x / 8)
              (if sz = 6 then (regHere s d).static else smGet true c.ctlTag (x / 8) && (regHere s d).static) } .c s.cyc 1 h.mbz))

/-- The frame of ST to the core's own scratchpad: after a completed store, the location's bytes from the address the store computes
on are the stored ones and every byte outside them reads as before, to every reader of the location; no register changes; package,
host and domain memory and every control memory read as before; the other cores are as they were. -/
def Obligations.StoreFrame : Prop :=
  ∀ (s t : State) (h : Hdr) (d a : Reg) (sz : BitVec 3), s.turn.q = .c → sz ≠ 7 → NoHazard s [destHere s a, destHere s d] [] →
    let c := turnCore s
    let size := szBytes sz
    let v := (regHere s a).val.toNat
    let x := v / size * size
    v < 2 ^ 21 → phaseOk c 5 s.cyc false true x size = true → (∀ w ∈ c.recent, w.cyc ≤ s.cyc) →
    (∀ w ∈ c.recent, w.cyc = s.cyc → w.lidx ≤ c.lidx) →
    exec (.st h d a 31 sz) s = .next t →
      (∀ y, (y < x ∨ x + size ≤ y) → spadNow (turnCore t) s.cyc y 1 = spadNow c s.cyc y 1) ∧
      spadNow (turnCore t) s.cyc x size = leBytes size (regHere s d).val.toNat ∧
      SameRegisters s t ∧ (∀ j, j ≠ s.turn.core → getCore t j = getCore s j) ∧ (turnCore t).ctl = c.ctl ∧
      t.pkg = s.pkg ∧ t.host = s.host ∧ t.domainMem = s.domainMem

/-- R341: an atomic on the own scratchpad (SPACE 31, or SPACE 29 naming its own index) or on control memory reads its doubleword, at
the scratchpad as the last write before its own in the location's order left it (R205), lands it in D, not static, after 6 or 3
cycles, and writes the new value its function gives; ATCAS takes it from D + 1 and writes nothing where the comparison fails. -/
def Obligations.AtomicsComplete : Prop :=
  ∀ (s : State) (h : Hdr) (d a : Reg) (sp : BitVec 5), s.turn.q = .c →
    let c := turnCore s
    let v := (regHere s a).val.toNat
    let x := v / 8 * 8
    let dv := (regHere s d).val
    let swap := (readReg c .c (d.toNat + 1)).val
    let c1 := warnIf (decide (v % 8 ≠ 0)) warnMod c
    let does (i : Instr) (new : Word64 → Option Word64) : Prop :=
      (sp = 31 ∧ v < 2 ^ 21 ∨ sp = 29 ∧ v < 2 ^ 30 ∧ v / 2 ^ 21 = c.lidx ∧ c.lidx < lcountOf s s.turn.core →
        let y := x % 2 ^ 21
        phaseOk c 5 s.cyc true true y 8 = true →
        let old := BitVec.ofNat 64 (leNat (spadBefore c s.cyc c.lidx y 8))
        let c2 := match new old with
          | some z => spadWrite c1 ⟨s.cyc, s.turn.core, c.lidx, .seq .c, y, leBytes 8 z.toNat, 0, 0, []⟩
          | none => c1
        Leaves i s (goesOn (accessed (fly c2 .c s.cyc (.reg .c d.toNat) 6 (.word old false)) s.cyc) .c s.cyc 1 h.mbz)) ∧
      (sp = 30 → v < 2 ^ 16 →
        let old := BitVec.ofNat 64 (leNat (memRead c.ctl x 8))
        let c2 := match new old with
          | some z => { c1 with ctl := memWrite c.ctl x (leBytes 8 z.toNat), ctlTag := smSet true c.ctlTag (x / 8) false }
          | none => c1
        Leaves i s (goesOn (fly c2 .c s.cyc (.reg .c d.toNat) 3 (.word old false)) .c s.cyc 1 h.mbz))
    (NoHazard s [destHere s a, destHere s d] [(destHere s d, if sp = 30 then 3 else 6)] →
      does (.atadd h d a sp) (fun old => some (old + dv)) ∧
      does (.atmin h d a sp) (fun old => some (if dv.toInt < old.toInt then dv else old)) ∧
      does (.atmax h d a sp) (fun old => some (if old.toInt < dv.toInt then dv else old)) ∧
      does (.atand h d a sp) (fun old => some (old &&& dv)) ∧
      does (.ator h d a sp) (fun old => some (old ||| dv)) ∧
      does (.atxch h d a sp) (fun _ => some dv)) ∧
    (d ≠ 31 → NoHazard s [destHere s a, destHere s d, .reg .c (d.toNat + 1)] [(destHere s d, if sp = 30 then 3 else 6)] →
      does (.atcas h d a sp) (fun old => if old = dv then some swap else none))

/-- R204, R340, R341, R388: an LD, ST or atomic of another core of the launch sends one request to that core's inbound port in the
issue cycle; the result of an LD or of an atomic is due 72 cycles later on the same die and 200 on another. -/
def Obligations.DieAccessesAreSent : Prop :=
  ∀ (s : State) (h : Hdr) (d a : Reg) (sz : BitVec 3), s.turn.q = .c → sz ≠ 7 →
    let c := turnCore s
    let p := s.turn.core
    let size := szBytes sz
    let v := (regHere s a).val.toNat
    let target := physOf s p (v / 2 ^ 21)
    let x := v / size * size % 2 ^ 21
    v < 2 ^ 30 → v / 2 ^ 21 < lcountOf s p → v / 2 ^ 21 ≠ c.lidx → target ≠ p →
    let latency := if dieOf p = dieOf target then 72 else 200
    let awaits (i : Instr) (kind : InKind) (x : Nat) : Prop := ∃ t, exec i s = .next t ∧
      (getCore t target).inbound = (getCore s target).inbound ++ [⟨s.ids, s.cyc, p, c.lidx, .seq .c, kind, x, [], 0⟩] ∧
      (turnCore t).flight = c.flight ++
        [⟨.c, .reg .c d.toNat, streamCycle c .c s.cyc + latency, .word 0 false, some s.ids, 0, s.cyc⟩] ∧
      t.ids = s.ids + 1
    let x8 := v / 8 * 8 % 2 ^ 21
    let dv := (regHere s d).val
    let swap := (readReg c .c (d.toNat + 1)).val
    (NoHazard s [destHere s a] [(destHere s d, latency)] → awaits (.ld h d a 29 sz) (.load size (szSigned sz)) x) ∧
    (NoHazard s [destHere s a, destHere s d] [(destHere s d, latency)] →
      awaits (.atadd h d a 29) (.atomic 0 dv swap) x8 ∧ awaits (.atmin h d a 29) (.atomic 1 dv swap) x8 ∧
      awaits (.atmax h d a 29) (.atomic 2 dv swap) x8 ∧ awaits (.atand h d a 29) (.atomic 3 dv swap) x8 ∧
      awaits (.ator h d a 29) (.atomic 4 dv swap) x8 ∧ awaits (.atxch h d a 29) (.atomic 5 dv swap) x8) ∧
    (d ≠ 31 → NoHazard s [destHere s a, destHere s d, .reg .c (d.toNat + 1)] [(destHere s d, latency)] →
      awaits (.atcas h d a 29) (.atomic 6 dv swap) x8) ∧
    (NoHazard s [destHere s a, destHere s d] [] → ∃ t, exec (.st h d a 29 sz) s = .next t ∧
      (getCore t target).inbound = (getCore s target).inbound ++
        [⟨s.ids, s.cyc, p, c.lidx, .seq .c, .store, x, leBytes size (regHere s d).val.toNat, 0⟩] ∧
      (turnCore t).flight = c.flight)

/-- R31, R74, R340, R388: for LD, ST and every atomic, an address of 2^21 or more in SPACE 31, of 2^16 or more in SPACE 30 or of 2^30
or more in SPACE 29 raises 0x21; a core field of LCOUNT or more raises 0x23; an access of the own scratchpad outside the open
sets of class 5, to read (LD, atomics) and to write (ST, atomics), raises 0x26 with the aligned address. R259, R341, R389: a
SPACE below 29, a size code 7 and an ATCAS whose D is 31 raise 0x01. -/
def Obligations.ScalarAccessTraps : Prop :=
  ∀ (s : State) (n : Nat) (h : Hdr) (d a : Reg) (sp : BitVec 5) (sz : BitVec 3), RunsClean s n → s.turn.q = .c →
    let c := turnCore s
    let v := (regHere s a).val.toNat
    let raises (size : Nat) (rd wr : Bool) (i : Instr) : Prop :=
      let x := v / size * size % 2 ^ 21
      (sp = 31 ∧ 2 ^ 21 ≤ v ∨ sp = 30 ∧ 2 ^ 16 ≤ v ∨ sp = 29 ∧ 2 ^ 30 ≤ v → Traps i s n 0x21 v v 0 []) ∧
      (sp = 29 → v < 2 ^ 30 → lcountOf s s.turn.core ≤ v / 2 ^ 21 → Traps i s n 0x23 v v 0 []) ∧
      (sp = 31 ∧ v < 2 ^ 21 ∨ sp = 29 ∧ v < 2 ^ 30 ∧ v / 2 ^ 21 = c.lidx ∧ c.lidx < lcountOf s s.turn.core →
        phaseOk c 5 s.cyc rd wr x size = false → Traps i s n 0x26 x x 0 [])
    let lands (k : Nat) : List (Dest × Nat) := [(destHere s d, k)]
    (sz ≠ 7 → 29 ≤ sp.toNat →
      (NoHazard s [destHere s a] [] → NoHazard s [destHere s a] (lands 6) → raises (szBytes sz) true false (.ld h d a sp sz)) ∧
      (NoHazard s [destHere s a, destHere s d] [] → raises (szBytes sz) false true (.st h d a sp sz))) ∧
    (29 ≤ sp.toNat → NoHazard s [destHere s a, destHere s d] [] → NoHazard s [destHere s a, destHere s d] (lands 6) →
      raises 8 true true (.atadd h d a sp) ∧ raises 8 true true (.atmin h d a sp) ∧ raises 8 true true (.atmax h d a sp) ∧
      raises 8 true true (.atand h d a sp) ∧ raises 8 true true (.ator h d a sp) ∧ raises 8 true true (.atxch h d a sp)) ∧
    (29 ≤ sp.toNat → d ≠ 31 → NoHazard s [destHere s a, destHere s d, .reg .c (d.toNat + 1)] [] →
      NoHazard s [destHere s a, destHere s d, .reg .c (d.toNat + 1)] (lands 6) → raises 8 true true (.atcas h d a sp)) ∧
    (sp.toNat < 29 → Traps (.ld h d a sp sz) s n 0x01 0 0 0 [] ∧ Traps (.st h d a sp sz) s n 0x01 0 0 0 [] ∧
      Traps (.atadd h d a sp) s n 0x01 0 0 0 [] ∧ Traps (.atmin h d a sp) s n 0x01 0 0 0 [] ∧
      Traps (.atmax h d a sp) s n 0x01 0 0 0 [] ∧ Traps (.atand h d a sp) s n 0x01 0 0 0 [] ∧
      Traps (.ator h d a sp) s n 0x01 0 0 0 [] ∧ Traps (.atxch h d a sp) s n 0x01 0 0 0 [] ∧
      Traps (.atcas h d a sp) s n 0x01 0 0 0 []) ∧
    (sz = 7 → Traps (.ld h d a sp sz) s n 0x01 0 0 0 [] ∧ Traps (.st h d a sp sz) s n 0x01 0 0 0 []) ∧
    Traps (.atcas h 31 a sp) s n 0x01 0 0 0 []

/-! ### Byte barriers -/

/-- R345 to R348: BBINIT and BBEXP record their update of the barrier at their address for the end of the cycle, BBWAIT issues once
DONE is set, BBTEST lands the whole word two cycles later. R346: what an update does to a barrier word: BBINIT zeroes it; BBEXP
of n clears DONE, arms it and adds n to PEND, unless PEND would pass 2^27 − 1; an arrival of n takes n off PEND, armed or not, down to
−2^27 with OVERRUN, and one that failed sets FAIL; an armed barrier whose PEND is not above zero is DONE, is no longer armed and has its
PHASE advanced, with OVERRUN where PEND is below zero, whether the expectation or an arrival brought it there. -/
def Obligations.BarrierWordsComplete : Prop :=
  (∀ (s : State) (h : Hdr) (d a : Reg) (imm : Word32),
     let c := turnCore s
     let q := s.turn.q
     let v := (regHere s a).val.toNat
     let x := v / 8 * 8
     let word := leNat (spadRead c s.turn.core (.seq q) s.cyc x 8)
     let low := decide (v % 8 ≠ 0)
     let warns := (if h.mbz then [warnMbz] else []) ++ if v % 8 = 0 then [] else [warnMod]
     v < 2 ^ 21 →
     (FieldsOk s [a] → NoHazard s [destHere s a] [] → phaseOk c 5 s.cyc false true x 8 = true →
       Leaves (.bbinit h a) s
         (goesOn (accessed { c with bars := c.bars ++ [⟨0, x, .init, q, warns, some (turnStream s)⟩] } s.cyc) q s.cyc 1 false)) ∧
     (q = .c → imm.toNat < 2 ^ 27 → NoHazard s [destHere s a] [] → phaseOk c 5 s.cyc false true x 8 = true →
       Leaves (.bbexp h a imm) s
         (goesOn (accessed { c with bars := c.bars ++ [⟨1, x, .expect imm.toNat, q, warns, some (turnStream s)⟩] } s.cyc)
           q s.cyc 2 false)) ∧
     (FieldsOk s [a] → NoHazard s [destHere s a] [] → phaseOk c 5 s.cyc true false x 8 = true → word.testBit 29 = true →
       word.testBit 30 = false →
       Leaves (.bbwait h a) s (goesOn (accessed (warnIf low warnMod c) s.cyc) q s.cyc 1 h.mbz)) ∧
     (FieldsOk s [d, a] → NoHazard s [destHere s a] [(destHere s d, 2)] → phaseOk c 5 s.cyc true false x 8 = true →
       Leaves (.bbtest h d a) s
         (goesOn (accessed (fly (warnIf low warnMod c) q s.cyc (.reg q d.toNat) 2 (.word (BitVec.ofNat 64 word) false)) s.cyc)
           q s.cyc 1 h.mbz))) ∧
  (∀ (w n : Nat), w < 2 ^ 64 →
     barStep w .init = some 0 ∧
     (2 ^ 27 - 1 < barPend w + n → barStep w (.expect n) = none) ∧
     (0 < barPend w + n → barPend w + n ≤ 2 ^ 27 - 1 → ∃ v, barStep w (.expect n) = some v ∧ barPend v = barPend w + n ∧
       v.testBit 28 = true ∧ v.testBit 29 = false ∧ v >>> 30 = w >>> 30) ∧
     (barPend w + n ≤ 0 → ∃ v, barStep w (.expect n) = some v ∧ barPend v = barPend w + n ∧
       v.testBit 28 = false ∧ v.testBit 29 = true ∧ v.testBit 30 = (w.testBit 30 || decide (barPend w + n < 0)) ∧
       v.testBit 31 = w.testBit 31 ∧ bitsOf v 47 32 = (bitsOf w 47 32 + 1) % 2 ^ 16 ∧ v >>> 48 = w >>> 48) ∧
     ∀ f : Bool,
       let left := max (-(2 ^ 27)) (barPend w - n)
       let settles := w.testBit 28 && decide (left ≤ 0)
       ∃ v, barStep w (.arrive n f) = some v ∧ barPend v = left ∧
         v.testBit 28 = (w.testBit 28 && decide (0 < left)) ∧ v.testBit 29 = (w.testBit 29 || settles) ∧
         v.testBit 30 = (w.testBit 30 || decide (barPend w - n < -(2 ^ 27)) || (settles && decide (left < 0))) ∧
         v.testBit 31 = (w.testBit 31 || f) ∧
         bitsOf v 47 32 = (if settles then (bitsOf w 47 32 + 1) % 2 ^ 16 else bitsOf w 47 32) ∧ v >>> 48 = w >>> 48)

/-! ### C's queues, events and control registers -/

/-- R381, R423: EVPOP takes the head record, or lands zero on an empty queue; EVWAIT issues once a record is there; SPUT appends to
cq, SGET takes the head of xq. R269, R270, R358, R375: CRD lands the register's value after 2 cycles, with warn(CRU) for an
unassigned number; CWR of WARN or LIVEV lands A there after 1, of a read-only register sets warn(CRRO), of an unassigned one
warn(CRU); CASK lands the balance of an island of the core, not static. The values of LIDX, LCOUNT, WORLD, SQMEM, the
LWORDs, TICKLOG2 and FRAMELOG2 are static; those of CORE_ID, DBGCTL, WARN, SLIP, LIVEV and the completion counts are not. -/
def Obligations.QueueAndControlRegisterWordsComplete : Prop :=
  (∀ (s : State) (h : Hdr) (d : Reg) (e : Nat × Nat × Word64) (es : List (Nat × Nat × Word64)) (v : Word64), s.turn.q = .c →
     let c := turnCore s
     (NoHazard s [] [(destHere s d, 2)] →
       (c.regs.events = [] → Gives (.evpop h d) s h.mbz 1 d 2 0 false) ∧
       (c.regs.events = e :: es → e.1 < s.cyc →
         Leaves (.evpop h d) s
           (goesOn
             (fly { c with regs := { c.regs with events := es }, evPop := s.cyc } .c s.cyc (.reg .c d.toNat) 2 (.word e.2.2 false))
             .c s.cyc 1 h.mbz)) ∧
       (headOf c.xq s.cyc = some v →
         Leaves (.sget h d) s (goesOn (fly { c with xq := popQ c.xq s.cyc } .c s.cyc (.reg .c d.toNat) 2 (.word v false)) .c s.cyc 1 h.mbz))) ∧
     (NoHazard s [] [] → c.regs.events = e :: es → e.1 < s.cyc → Leaves (.evwait h) s (goesOn c .c s.cyc 1 h.mbz)) ∧
     (NoHazard s [destHere s d] [] → roomFor c.cq 16 1 s.cyc = true →
       Leaves (.sput h d) s (goesOn { c with cq := pushQ c.cq (regHere s d).val s.cyc } .c s.cyc 1 h.mbz))) ∧
  (∀ (s : State) (h : Hdr) (d : Reg) (cr : BitVec 12) (k : BitVec 1), s.turn.q = .c →
     let c := turnCore s
     let l := launchOf s s.turn.core
     let used := decide (cr.toNat ≤ 0x004) || (decide (0x010 ≤ cr.toNat) && decide (cr.toNat ≤ 0x025)) ||
       (decide (0x030 ≤ cr.toNat) && decide (cr.toNat ≤ 0x034))
     let written := decide (cr = 0x022#12) || decide (cr = 0x025#12)
     (NoHazard s [] [(destHere s d, 2)] →
       Leaves (.crd h d cr) s
         (goesOn (fly (warnIf (!used) warnCru c) .c s.cyc (.reg .c d.toNat) 2 (.word (crdValue s cr.toNat).val (crdValue s cr.toNat).static))
           .c s.cyc 1 h.mbz) ∧
       Gives (.cask h d k) s h.mbz 1 d 2 (BitVec.ofInt 64 ((BitVec.ofInt 48 (smGet 0 s.casks (2 * s.turn.core + k.toNat))).toInt)) false) ∧
     (NoHazard s [destHere s d] [] →
       (written = true → Leaves (.cwr h d cr) s
         (goesOn (fly c .c s.cyc (.cr cr.toNat) 1 (.word (regHere s d).val false)) .c s.cyc 1 h.mbz)) ∧
       (written = false → Leaves (.cwr h d cr) s (goesOn (warn c (if used then warnCrro else warnCru)) .c s.cyc 1 h.mbz))) ∧
     crdValue s 0x000 = ⟨BitVec.ofNat 64 s.turn.core, false⟩ ∧ crdValue s 0x001 = ⟨BitVec.ofNat 64 c.lidx, true⟩ ∧
     crdValue s 0x002 = ⟨BitVec.ofNat 64 l.lcount, true⟩ ∧ crdValue s 0x003 = ⟨BitVec.ofNat 64 c.world, true⟩ ∧
     (∀ n, n < 16 → crdValue s (0x010 + n) = ⟨l.lwords.getD n 0, true⟩) ∧
     crdValue s 0x004 = ⟨sqmemWord l c.lidx, true⟩ ∧ crdValue s 0x020 = ⟨BitVec.ofNat 64 l.tick, true⟩ ∧
     crdValue s 0x021 = ⟨if l.haz then 1 else 0, false⟩ ∧ crdValue s 0x022 = ⟨c.snapWarn, false⟩ ∧
     crdValue s 0x023 = ⟨c.snapSlip, false⟩ ∧ crdValue s 0x024 = ⟨BitVec.ofNat 64 s.frameLog2, true⟩ ∧
     crdValue s 0x025 = ⟨c.regs.livev.setWidth 64, false⟩ ∧
     ∀ e, e < 5 → crdValue s (0x030 + e) = ⟨(smGet 0 c.snapCsn e).setWidth 64, false⟩)

/-! ### Handles -/

/-- R104, R109, R383, R384, R453: XLATE puts the handle of Table 4.5 on its way to hD, due in real cycle issue + 16: on a hit whose
page lies in the carve-out or outside package space, VALID with the translation's fields and the core's world; on a hit of a
package page that leaves the carve-out, nothing but the 0x23 of the landing cycle; on a revoked translation, VALID 0 with CAUSE 10;
on a miss, VALID 0 with CAUSE 01 and PID 0; for an address of 2^56 or more, VALID 0 with CAUSE 00. HINV revokes a valid handle's
PID from the next cycle on; HQRY lands the handle without its FRAME after 4. -/
def Obligations.HandleWordsComplete : Prop :=
  ∀ (s : State) (h : Hdr) (d a : Reg) (imm : Word32) (t : Trans), s.turn.q = .c →
    let c := turnCore s
    let va := (regHere s a).val + imm.signExtend 64
    let w := readHandle c a.toNat
    let puts (v : Word64) (outside : Bool) : Prop :=
      Leaves (.xlate h d a imm) s
        (goesOn { c with xlate := c.xlate ++ [⟨d.toNat, s.cyc + 16, v, outside, va⟩] } .c s.cyc 2 h.mbz)
    (NoHazard s [destHere s a] [] →
      (va.toNat < 2 ^ 56 → lookupTrans c.tcache va.toNat = some t →
        (revokedOn c t.pid = false → t.frame.toNat / 2 ^ 34 ≠ 0 ∨ inCarveOut (getWorld s c.world) t = true → ∃ v,
          hValid v = true ∧ hPid v = t.pid ∧ hWorld v = c.world % 64 ∧ hConf v = t.conf ∧ hSealed v = t.sealed_ ∧
          hWrite v = t.w ∧ v.extractLsb' 16 36 = t.frame ∧ hCause v = 0 ∧ (t.size < 16 → hSize v = pageBytes t.size) ∧
          puts v false) ∧
        (revokedOn c t.pid = false → t.frame.toNat / 2 ^ 34 = 0 → inCarveOut (getWorld s c.world) t = false → puts 0 true) ∧
        (revokedOn c t.pid = true → ∃ v, hValid v = false ∧ hCause v = 2 ∧ puts v false)) ∧
      (va.toNat < 2 ^ 56 → lookupTrans c.tcache va.toNat = none → ∃ v,
        hValid v = false ∧ hCause v = 1 ∧ hPid v = 0 ∧ puts v false) ∧
      (2 ^ 56 ≤ va.toNat → ∃ v, hValid v = false ∧ hCause v = 0 ∧ puts v false)) ∧
    (NoHazard s [.h a.toNat] [] →
      Leaves (.hinv h a) s (goesOn (if hValid w then { c with revoked := c.revoked ++ [(hPid w, s.cyc + 1)] } else c) .c s.cyc 1 h.mbz)) ∧
    (NoHazard s [.h a.toNat] [(destHere s d, 4)] →
      ∃ v : Word64, (∀ i, v.getLsbD i = (w.getLsbD i && !(decide (16 ≤ i) && decide (i < 52)))) ∧
        Gives (.hqry h d a) s h.mbz 1 d 4 v false)

/-- R107, R120, Table 4.6: the checks on the use of a handle come in order: a miss is 0x22 with the address XLATE was given, any other
invalid handle, another world's handle or the reserved space is 0x20, a range past the page 0x21, a sealed page outside the B
operand its own cause, a sealed page without a key 0x33, a write through a handle without W 0x24. -/
def Obligations.HandleUseChecks : Prop :=
  ∀ (s : State) (p k off len cause : Nat) (w : Word64) (b write : Bool),
    let use := useHandle s p k w off len none b cause write
    let valid := hValid w = true ∧ hWorld w = (getCore s p).world ∧ hSpace w ≠ 3
    (hValid w = false → hCause w = 1 → use = .error (Raise.at_ 0x22 off (smGet 0 (getCore s p).regs.hva k))) ∧
    (¬valid → ¬(hValid w = false ∧ hCause w = 1) → use = .error (Raise.at_ 0x20 off off)) ∧
    (valid → hSize w < off + len → use = .error (Raise.at_ 0x21 off off)) ∧
    (valid → off + len ≤ hSize w → hSealed w = true → b = false → use = .error (Raise.at_ cause off off)) ∧
    (valid → off + len ≤ hSize w → hSealed w = true → b = true → (getWorld s (getCore s p).world).sealKey = none →
      use = .error (Raise.at_ 0x33 off off)) ∧
    (valid → off + len ≤ hSize w → hSealed w = false → write = true → hWrite w = false → use = .error (Raise.at_ 0x24 off off)) ∧
    (valid → off + len ≤ hSize w → hSealed w = false → write = false ∨ hWrite w = true → use = .ok ())

/-! ### Phases and the nest unit -/

/-- R72, R73, R409, R410: a PHASE whose descriptor is static, in range and clear of the other classes' open sets opens its ranges
from the next cycle on; one that overlaps raises 0x25 and leaves its class closed; PHEND closes its class at once. R63, R401 to
R403: NEST puts the slice of its descriptor's iterations on its way to the nest unit, due after 4 cycles; NSLICE lands a bound,
the count, the total or the coordinate of a level times its multiplier after 1; R63's slices meet end to end. -/
def Obligations.PhaseAndNestWordsComplete : Prop :=
  (∀ (s : State) (h : Hdr) (k : BitVec 5) (e : BitVec 3) (a : Reg) (imm : Word32) (ws : List Word64) (low : Bool), s.turn.q = .c →
     let c := turnCore s
     let rs := phaseRanges ws
     let clash := (openSets c k.toNat).any fun o => o.any fun x => rs.any (phaseClash x)
     (k.toNat < 7 → NoHazard s [destHere s a] [] → ctlDescriptor s a imm 4 = .ok (ws, low) →
       (phaseOpen c k.toNat = false ∨ classQuiet s s.turn.core k.toNat = true) → (∀ r ∈ rs, r.base + r.len ≤ 2 ^ 21) →
       (clash = false → Leaves (.phase h k a imm) s
         (goesOn (warnIf (h.mbz || phaseMbz ws) warnMbz (warnIf low warnMod (setPhase c k.toNat s.cyc (some rs)))) .c s.cyc 2 false)) ∧
       (clash = true → ∀ n, RunsClean s n → ∃ t, exec (.phase h k a imm) s = .next t ∧
         (trapOf t n).map (fun x => (x.cause, x.cyc)) = some (0x25, s.cyc) ∧
         (smGet ⟨none, 0, none⟩ (turnCore t).phases k.toNat).now = none)) ∧
     (e.toNat < 7 → NoHazard s [] [] → phaseOpen c e.toNat = false ∨ classQuiet s s.turn.core e.toNat = true →
       Leaves (.phend h e) s (goesOn (if phaseOpen c e.toNat then
         { c with phases := smSet ⟨none, 0, none⟩ c.phases e.toNat ⟨none, s.cyc, none⟩ } else c) .c s.cyc 1 h.mbz))) ∧
  (∀ (s : State) (h : Hdr) (d a r : Reg) (imm : Word32) (sel : BitVec 3) (ws : List Word64) (low : Bool) (n : Nest), s.turn.q = .c →
     let c := turnCore s
     let members := smGet [] (launchOf s s.turn.core).squares ((ws.getD 0 0).extractLsb' 0 8).toNat
     (NoHazard s [destHere s a] [] → ctlDescriptor s a imm 4 = .ok (ws, low) → nestOf ws (sliceOf members c.lidx) = some n →
       Leaves (.nest h a imm) s (goesOn (fly (warnIf low warnMod c) .c s.cyc .nest 4 (.nest n)) .c s.cyc 2 h.mbz)) ∧
     (sel.toNat < 4 → NoHazard s [] [(destHere s d, 1)] →
       Gives (.nslice h d sel r) s (h.mbz || decide (r ≠ 0)) 1 d 1 (BitVec.ofNat 64
         (if sel = 0 then c.nest.lo else if sel = 1 then c.nest.hi else if sel = 2 then c.nest.hi - c.nest.lo else c.nest.total)) true) ∧
     (4 ≤ sel.toNat → NoHazard s [destHere s r] [(destHere s d, 1)] →
       Gives (.nslice h d sel r) s h.mbz 1 d 1 (BitVec.ofNat 64 (nsliceValue c.nest sel.toNat (regHere s r).val.toNat))
         (regHere s r).static) ∧
     ∀ (m : List Nat) (total k : Nat), m.Nodup → k + 1 < m.length →
       (sliceOf m (m.getD 0 0) total).1 = 0 ∧ (sliceOf m (m.getD (m.length - 1) 0) total).2 = total ∧
       (sliceOf m (m.getD k 0) total).2 = (sliceOf m (m.getD (k + 1) 0) total).1)

/-! ### Bins -/

/-- R150 to R153, R158 to R161, R352, R353, R415: BINDEF, BINRST, BINPASS, BINEND and ROUTE hand their command to the bin unit, where it has
room; BINFILL lands the field of Table 6.4 as the commands completed before its issue cycle left it, after 4 cycles, not static, and
raises 0x43 for a bin that is not defined. -/
def Obligations.BinWordsComplete : Prop :=
  ∀ (s : State) (h : Hdr) (n : BitVec 4) (d : Reg) (sel : BitVec 3) (imm : Word32) (w : XferWord),
    let c := turnCore s
    let queued (i : Instr) (c0 : Core) (cmd : BinCmd) (len : Nat) : Prop :=
      LeavesFrom i s { s with ids := s.ids + 1 } (goesOn { c0 with binQ := c0.binQ ++ [cmd] } s.turn.q s.cyc len h.mbz)
    let cmd (op : Nat) (v : Word64) : BinCmd := ⟨s.ids, op, s.cyc, .c, n.toNat, v, 0, false, 0, none, none, 0, 0, none, []⟩
    let b := getBin c.regs.bins n.toNat
    let was := getBin (c.binPrev.getD c.regs.bins) n.toNat
    let al := imm.toNat / 8 * 8
    (s.turn.q = .c → NoHazard s [] [] → (c.binQ.filter fun b => b.start.isNone).length < 8 →
      (imm.toNat < 2 ^ 16 → ctlStatic c al = true →
        queued (.bindef h (n.setWidth 5) imm) (warnIf (decide (imm.toNat % 8 ≠ 0)) warnMod c) (cmd 0 (memWord c.ctl al)) 2) ∧
      ((b.defined = false ∨ phaseOk c 3 s.cyc false true b.base (b.cap * b.rb) = true) → queued (.binrst h n) c (cmd 1 0) 1) ∧
      queued (.binpass h n) c (cmd 2 0) 1 ∧
      ((∀ oc, b.isRoot = true → b.final = true → liftCarry c.regs.bins b = some oc →
          binRegionOk s (getBin c.regs.bins oc) false true = true) → queued (.binend h n) c (cmd 3 0) 1)) ∧
    (s.turn.q = .c → sel.toNat < 4 → NoHazard s [] [(destHere s d, 4)] →
      (was.defined = true → Gives (.binfill h d n sel) s h.mbz 1 d 4 (BitVec.ofNat 64
        (if sel = 0 then was.fill else if sel = 1 then was.drop else if sel = 2 then was.defer else was.pass)) false) ∧
      (was.defined = false → ∀ m, RunsClean s m → Traps (.binfill h d n sel) s m 0x43 0 0 0 [])) ∧
    (let carry := w.fn.getLsbD 6
     let bv := w.fn.getLsbD 7
     let x := ((regHere s w.a).val + BitVec.ofNat 64 w.off.toNat).toNat
     let rows := (regHere s w.c).val.toNat
     let mbz := decide (w.b ≠ 0) || decide (w.fn.extractLsb' 8 3 ≠ 0) || decide (w.imm.extractLsb' 12 20 ≠ 0) ||
       (!bv && (decide (w.a ≠ 0) || decide (w.off ≠ 0)))
     let rs := if bv then [w.c, w.a] else [w.c]
     s.turn.q = .s → w.q.toNat < 16 → FieldsOk s rs → NoHazard s (rs.map (destHere s)) [] →
       (regHere s w.c).static = true → routeBad c.regs.bins w.q.toNat rows carry = false →
       routeRegionsOk s c.regs.bins w.q.toNat carry = true → (c.binQ.filter fun b => b.start.isNone).length < 8 →
       (bv = true → x < 2 ^ 21) →
       LeavesFrom (.route w) s { s with ids := s.ids + 1 }
         (goesOn { warnIf (decide (w.fn.extractLsb' 0 6 ≠ 0)) warnDec c with
             binQ := c.binQ ++ [⟨s.ids, 4, s.cyc, .s, w.q.toNat, 0, rows, carry, 16 * (w.imm.extractLsb' 0 12).toNat,
               if bv then some ⟨s.turn.core, x / 8 * 8⟩ else none, none, 0, 0, none, []⟩]
             takers := if carry then c.takers else c.takers ++ [s.ids] } .s s.cyc 3 mbz))

/-! ### Vector words -/

/-- R434, R96, R87: each float word rounds once, under RND where it uses it and its TYPE is no integer type, and under RNE elsewhere,
the exact value of its operands; a TYPE but f32 computes as f32 with its warning; latency 4, or 12 for the function units. -/
def Obligations.VectorFloatResults : Prop :=
  ∀ (s : State) (w : VecWord),
    let rm := if tyFloat w.ty.toNat then w.rnd.toNat else 0
    let a (x : VecArgs) (i : Nat) : FVal := dec32 (laneAt x.a i)
    let b (x : VecArgs) (i : Nat) : FVal := dec32 (laneAt x.b i)
    let c (x : VecArgs) (i : Nat) : FVal := dec32 (laneAt x.c i)
    let two (rnd : Bool) (n : Nat) : VecForm := floatForm w true false rnd n
    let three : VecForm := floatForm w true true true 4
    let one (n : Nat) : VecForm := floatForm w false false false n
    GivesEachLane (.vadd w) s w (two true 4) (fun x i => roundF32 rm (addF rm (a x i) (b x i))) ∧
    GivesEachLane (.vsub w) s w (two true 4) (fun x i => roundF32 rm (addF rm (a x i) (negF (b x i)))) ∧
    GivesEachLane (.vmul w) s w (two true 4) (fun x i => roundF32 rm (mulF (a x i) (b x i))) ∧
    GivesEachLane (.vfma w) s w three (fun x i => roundF32 rm (addF rm (mulF (a x i) (b x i)) (c x i))) ∧
    GivesEachLane (.vfms w) s w three (fun x i => roundF32 rm (addF rm (mulF (a x i) (b x i)) (negF (c x i)))) ∧
    GivesEachLane (.vfnma w) s w three (fun x i => roundF32 rm (addF rm (c x i) (negF (mulF (a x i) (b x i))))) ∧
    GivesEachLane (.vmin w) s w (two false 4) (fun x i => rne32 (minF (a x i) (b x i))) ∧
    GivesEachLane (.vmax w) s w (two false 4) (fun x i => rne32 (maxF (a x i) (b x i))) ∧
    GivesEachLane (.vabs w) s w (one 4) (fun x i => rne32 (absF (a x i))) ∧
    GivesEachLane (.vneg w) s w (one 4) (fun x i => rne32 (negF (a x i))) ∧
    GivesEachLane (.vrcp w) s w (one 12) (fun x i => rne32 (divF (.fin false 1 0) (a x i))) ∧
    GivesEachLane (.vrsq w) s w (one 12) (fun x i => rne32 (rsqrtF (a x i))) ∧
    GivesEachLane (.vsqrt w) s w (one 12) (fun x i => rne32 (sqrtF (a x i))) ∧
    GivesEachLane (.vdiv w) s w (two false 12) (fun x i => rne32 (divF (a x i) (b x i))) ∧
    GivesEachLane (.vexp2 w) s w (one 12) (fun x i => rne32 (exp2F (a x i))) ∧
    GivesEachLane (.vlog2 w) s w (one 12) (fun x i => rne32 (log2F (a x i)))

/-- R439, R435, R449, R326: each integer word computes its elements exactly, clamps under SAT and keeps the low bits; the logic words and
VSEL compute on whole lanes, VCLMUL gives a half of the carry-less product. -/
def Obligations.VectorIntegerResults : Prop :=
  ∀ (s : State) (w : VecWord),
    let int (i : Instr) (b c narrow : Bool) (f : Nat → Nat → Nat → Nat → Int) : Prop :=
      let t := intType w narrow
      GivesEachLane i s w (intForm w b c narrow) fun x j =>
        let v := f t (elemAt t x.a j) (elemAt t x.b j) (elemAt t x.c j)
        elemLane t (if w.sat = 1 then max (tyMin t) (min (tyMax t) v) else v) j
    let logic (i : Instr) (f : Word32 → Word32 → Word32) : Prop :=
      GivesEachLane i s w ⟨true, true, false, true, false, true, 0, laneTypeMod w ++ (rndMod w ++ satMod w), laneType w, 1, none, []⟩
        fun x j => f (laneAt x.a j) (laneAt x.b j)
    int (.viadd w) true false false (fun t a b _ => tyInt t a + tyInt t b) ∧
    int (.visub w) true false false (fun t a b _ => tyInt t a - tyInt t b) ∧
    int (.vimul w) true false true (fun t a b _ => tyInt t a * tyInt t b) ∧
    int (.vimulh w) true false true (fun t a b _ => tyInt t a * tyInt t b / 2 ^ tyBits t) ∧
    int (.vimac w) true true true (fun t a b c => tyInt t a * tyInt t b + tyInt t c) ∧
    int (.vshl w) true false false (fun t a b _ => tyInt t a * 2 ^ (b % tyBits t)) ∧
    int (.vshr w) true false false (fun t a b _ => tyInt t (a / 2 ^ (b % tyBits t))) ∧
    int (.vsha w) true false false (fun t a b _ => tyInt t (lowBits (tyBits t) (signed (tyBits t) a / 2 ^ (b % tyBits t)))) ∧
    int (.vimin w) true false false (fun t a b _ => min (tyInt t a) (tyInt t b)) ∧
    int (.vimax w) true false false (fun t a b _ => max (tyInt t a) (tyInt t b)) ∧
    int (.vpopc w) false false false (fun t a _ _ => onesIn a (tyBits t)) ∧
    logic (.vand w) (· &&& ·) ∧ logic (.vor w) (· ||| ·) ∧ logic (.vxor w) (· ^^^ ·) ∧ logic (.vandn w) (fun a b => a &&& ~~~ b) ∧
    GivesEachLane (.vsel w) s w ⟨true, true, true, true, false, true, 0, laneTypeMod w ++ (rndMod w ++ satMod w), laneType w, 1, none, []⟩
      (fun x j => if laneAt x.c (if ty64 (laneType w) then j / 2 * 2 else j) = 0 then laneAt x.b j else laneAt x.a j) ∧
    (let t := if ty64 w.ty.toNat then w.ty.toNat else 14
     GivesEachLane (.vclmul w) s w
       ⟨true, true, false, true, decide (8 ≤ w.fn.toNat), false, 0,
         (if ty64 w.ty.toNat then [] else [warnMod]) ++ (rndMod w ++ satMod w), t, 4, none, []⟩
       fun x j =>
         let p := clmul64 (if w.fn.getLsbD 1 then elemAt t x.a j % 2 ^ 32 else elemAt t x.a j)
           (if w.fn.getLsbD 2 then elemAt t x.b j % 2 ^ 32 else elemAt t x.b j)
         elemLane t ((if w.fn.getLsbD 0 then p / 2 ^ 64 else p % 2 ^ 64 : Nat) : Int) j)

/-- R436, R440, R445, R446, R450: the movement and packing words complete with these lanes; VSLIDE and VXS count lanes whatever the
TYPE, VPERM and VBCAST move lane pairs for a 64-bit TYPE. -/
def Obligations.VectorMoveResults : Prop :=
  ∀ (s : State) (w : VecWord),
    let t := w.ty.toNat
    let lt := laneType w
    let k := w.imm.toNat % 128
    let n := (packWidth t).getD 8
    let first := 4 * n * w.fn.toNat
    let warns := rndMod w ++ satMod w
    let noPack := match packWidth t with | none => true | some n => decide (32 / n ≤ w.fn.toNat)
    GivesEachLane (.vmov w) s w ⟨true, false, false, true, false, true, 0, laneTypeMod w ++ warns, lt, 1, none, []⟩
      (fun x i => laneAt x.a i) ∧
    GivesEachLane (.vbcast w) s w ⟨true, false, false, true, false, true, if ty64 lt then 0x3F else 0x7F, laneTypeMod w ++ warns, lt, 1,
        none, []⟩
      (fun x i => laneAt x.a (if ty64 lt then 2 * (w.imm.toNat % 64) + i % 2 else k)) ∧
    GivesEachLane (.vslide w) s w ⟨true, true, false, true, decide (2 ≤ w.fn.toNat), false, 0x7F, warns, t, 2, none, []⟩
      (fun x i => if w.fn = 0 then (if k ≤ i then laneAt x.a (i - k) else laneAt x.b (i + 128 - k))
        else if i + k < 128 then laneAt x.a (i + k) else laneAt x.b (i + k - 128)) ∧
    GivesEachLane (.viota w) s w ⟨false, false, false, true, decide (w.ty ≠ 9) && decide (w.ty ≠ 13), true, 2 ^ 32 - 1, warns, t, 2, none, []⟩
      (fun _ i => w.imm + BitVec.ofNat 32 i) ∧
    GivesEachLane (.vxs w) s w ⟨true, true, false, true, false, true, 0x7F7F, warns, t, 2, none, []⟩
      (fun x i => if i = k then laneAt x.b (w.imm.toNat / 256 % 128) else laneAt x.a i) ∧
    GivesEachLane (.vperm w) s w ⟨true, true, false, true, false, true, 0, warns, t, 3, none, []⟩
      (fun x i =>
        let j := laneAt x.b (if ty64 t then i / 2 * 2 else i)
        if j.getLsbD 31 then 0 else laneAt x.a (if ty64 t then 2 * (j.toNat % 64) + i % 2 else j.toNat % 128)) ∧
    GivesEachLane (.vshuf w) s w ⟨true, decide (w.fn.toNat ≠ 5), false, true, decide (6 ≤ w.fn.toNat), false, 0, warns, t, 2, none, []⟩
      (fun x i =>
        if w.fn = 0 then (if i % 2 = 0 then laneAt x.a (i / 2) else laneAt x.b (i / 2))
        else if w.fn = 1 then (if i % 2 = 0 then laneAt x.a (64 + i / 2) else laneAt x.b (64 + i / 2))
        else if w.fn = 2 then (if i < 64 then laneAt x.a (2 * i) else laneAt x.b (2 * (i - 64)))
        else if w.fn = 3 then (if i < 64 then laneAt x.a (2 * i + 1) else laneAt x.b (2 * (i - 64) + 1))
        else if w.fn = 4 then (if i < 64 then laneAt x.a i else laneAt x.b (i - 64))
        else if i < 64 then laneAt x.a (64 + i) else laneAt x.a (i - 64)) ∧
    GivesEachLane (.vpack w) s w ⟨true, true, false, true, noPack, false, 0, warns, t, 2, none, []⟩
      (fun x i => if first ≤ i ∧ i < first + 4 * n then
          BitVec.ofNat 32 ((List.range (32 / n)).foldl
            (fun acc e => acc + (laneAt x.a ((i - first) * (32 / n) + e)).toNat % 2 ^ n * 2 ^ (n * e)) 0)
        else laneAt x.b i) ∧
    GivesEachLane (.vunpk w) s w ⟨true, false, false, true, noPack, false, 0, warns, t, 2, none, []⟩
      (fun x e =>
        let v := (laneAt x.a (first + e / (32 / n))).toNat / 2 ^ (n * (e % (32 / n))) % 2 ^ n
        if tySigned t then BitVec.ofInt 32 (signed n v) else BitVec.ofNat 32 v)

/-- R437, R438, R444, R447, R448: VCMP gives all ones where its condition holds, with NaN unequal to everything; VMSK writes a mask
register after 1 cycle, or lanes from one; VCVT and VQNT convert each element or block; VRED reduces the active lanes by a tree of seven
levels, an inactive lane entering as its operation's idle value. That a NaN without a code becomes zero with warn(NANZ) under VCVT as
under VQNT is the model's choice (log 46), and so is how E2M1X is read and written (logs 45 and 85). -/
def Obligations.VectorTestResults : Prop :=
  ∀ (s : State) (w : VecWord),
    let fn := w.fn.toNat
    let warns := rndMod w ++ satMod w
    let n := w.imm.toNat % 8
    let ma := w.imm.toNat / 8 % 8
    let mb := w.imm.toNat / 64 % 8
    let w64 := ty64 w.ty.toNat || ty64 fn
    let word := w.imm.toNat % 2 ^ 16
    GivesEachLane (.vcmp w) s w ⟨true, true, false, true, decide (6 ≤ fn), false, 0, f32Mod w ++ warns, 0, 2, none, []⟩
      (fun x i =>
        let a := dec32 (laneAt x.a i)
        let b := dec32 (laneAt x.b i)
        let k := cmpF a b
        let holds := if a = .nan ∨ b = .nan then fn = 1
          else if fn = 0 then k = 0 else if fn = 1 then k ≠ 0 else if fn = 2 then k < 0 else if fn = 3 then k ≤ 0
          else if fn = 4 then 0 < k else 0 ≤ k
        if holds then 0xFFFFFFFF else 0) ∧
    (fn = 1 → GivesEachLane (.vmsk w) s w ⟨false, false, false, true, false, false, 0x7, warns, w.ty.toNat, 1, none, [n]⟩
      fun x i => if (x.mask n).getLsbD i then 0xFFFFFFFF else 0) ∧
    (fn ≠ 1 → fn < 7 → s.turn.q = .x →
      let f : VecForm := ⟨decide (fn = 0), false, false, false, false, false, if fn = 0 then 0x7 else if fn = 6 then 0x3F else 0x1FF, warns,
        w.ty.toNat, 1, some n, if fn = 0 then [] else if fn = 6 then [ma] else [ma, mb]⟩
      let x := vecArgs w f s
      vecBad w f = false → vecStall w f s = none →
        NoHazard s (vecPlan w f fun _ => ⟨[], false⟩).reads [(.m n, 1)] → ∃ m : BitVec 128,
          (∀ i, i < 128 → m.getLsbD i = (let p := (x.mask ma).getLsbD i
            let r := (x.mask mb).getLsbD i
            if fn = 0 then decide (laneAt x.a i ≠ 0) else if fn = 2 then p && r else if fn = 3 then p || r
            else if fn = 4 then p != r else if fn = 5 then p && !r else !p)) ∧
          exec (.vmsk w) s = .next (issued 3 (vecWarns w f)
            (updCore (popSources w f s) s.turn.core fun c => fly c .x s.cyc (.m n) 1 (.bits m x.active)) (.on (s.cyc + 1) false))) ∧
    GivesLanes (.vcvt w) s w
      ⟨true, false, false, true, decide (15 ≤ fn), false, if w.ty = 6 ∨ fn = 6 then 0xFFFF else 0,
        (if !tyFloat w.ty.toNat && !tyFloat fn then rndMod w else []) ++ (if fn = 0 then satMod w else []),
        if ty64 fn then fn else w.ty.toNat, 3, none, []⟩
      (fun x =>
        let e (i : Nat) : Int × Bool := cvtElem w.ty.toNat fn w.rnd.toNat (w.sat = 1) word (cvtRead w.ty.toNat w64 x.a i)
        ⟨tabulate fun i => cvtLane fn w64 (e i).1 i, (List.range 128).any fun i => x.active.getLsbD i && (e i).2⟩) ∧
    GivesEachLane (.vqnt w) s w
      ⟨true, false, false, true, decide (w.ty ≠ 0) || decide (fn < 3) || decide (6 < fn), false, 0, [], 0, 5, none, []⟩
      (fun x i => vqntBlock fn w.rnd.toNat (w.sat = 1)
        (((List.range 32).filter fun q => x.active.getLsbD (32 * (i / 32) + q)).map fun q =>
          (32 * (i / 32) + q, dec32 (laneAt x.a (32 * (i / 32) + q)))) i) ∧
    GivesEachLane (.vred w) s w
      ⟨true, false, false, true, decide (8 ≤ fn), false, 0, if fn ≤ 2 then f32Mod w ++ warns else [], 0, 9, none, []⟩
      (fun x _ => laneAt (laneTree (redNode fn) 7 (tabulate fun i => if x.active.getLsbD i then laneAt x.a i else redIdle fn)) 0)

/-! ### The matrix engine -/

/-- R394 to R398, R177: a matrix word whose stamp is absent or due and for which the engine has room is handed to it, with what its
handle checks gave, and X goes on; MRET waits for the tiles of its mask to have drained, MDRAIN for its tile; a stamped word
resets X's SLIP field (R40). R40, R177: a matrix word whose stamp lies d < 2^31 cycles ahead is held for d cycles and nothing
else changes; a stamp that has passed raises 0x10; a word for which the engine has no room raises 0x11. R398: an MDRAIN of no
rows, or of rows past 128, raises 0x01. -/
def Obligations.MatrixWordsComplete : Prop :=
  (∀ (s : State) (w : MatWord) (p : MatPlan), s.turn.q = .x → StampDue s w → matRoom (turnCore s) = true →
     let c := turnCore s
     let s0 := if w.stamp = 0xFFFFFFFF then s else resetSlip s
     let queued (i : Instr) (op : Nat) (warns : List Nat) (p : MatPlan) : Prop :=
       exec i s = .next (issued 6 warns (queueMat s0 op w p) (.on (s.cyc + 1) false))
     (stepBad w = false → NoHazard s (matReads 1 w) [] →
       (handleOperand w = none → queued (.mma w) 1 (stepWarns 1 w) ⟨0, 0, 1, []⟩ ∧ queued (.mmap w) 2 (stepWarns 2 w) ⟨0, 0, 1, []⟩) ∧
       (matHandles s 1 w = .ok p → queued (.mma w) 1 (stepWarns 1 w) p) ∧
       (matHandles s 2 w = .ok p → queued (.mmap w) 2 (stepWarns 2 w) p)) ∧
     (NoHazard s [] [] → (∀ t ∈ maskTiles w, tileDrained c t s.cyc = true) →
       queued (.mret w) 3 (if unusedMat 3 w then [warnMbz] else []) ⟨0, 0, 1, []⟩) ∧
     (NoHazard s [] [] → tileDrained c w.acc.toNat s.cyc = true → 0 < drainCount w → drainRow0 w + drainCount w ≤ 128 →
       queued (.mdrain w) 4 (if unusedMat 4 w then [warnMbz] else []) ⟨0, 0, 1, []⟩)) ∧
  (∀ (s : State) (n d : Nat) (w : MatWord), s.turn.q = .x →
     let c := turnCore s
     let abs := entryOf s s.turn.core + w.stamp.toNat
     let timed (i : Instr) : Prop :=
       (w.stamp ≠ 0xFFFFFFFF → 0 < d → d < 2 ^ 31 → (s.cyc + d) % 2 ^ 32 = abs % 2 ^ 32 →
         Leaves i s (setStream c .x { turnStream s with hold := s.cyc + d })) ∧
       (w.stamp ≠ 0xFFFFFFFF → 0 < d → d ≤ 2 ^ 31 → s.cyc % 2 ^ 32 = (abs + d) % 2 ^ 32 → RunsClean s n →
         Traps i s n 0x10 0 0 0 []) ∧
       (StampDue s w → matRoom c = false → RunsClean s n → Traps i s n 0x11 0 0 0 [])
     (stepBad w = false → NoHazard s (matReads 1 w) [] → timed (.mma w) ∧ timed (.mmap w)) ∧
     (NoHazard s [] [] → (∀ t ∈ maskTiles w, tileDrained c t s.cyc = true) → timed (.mret w)) ∧
     (NoHazard s [] [] → tileDrained c w.acc.toNat s.cyc = true → timed (.mdrain w) ∧
       (StampDue s w → matRoom c = true → drainCount w = 0 ∨ 128 < drainRow0 w + drainCount w → RunsClean s n →
         Traps (.mdrain w) s n 0x01 0 0 0 [])))

/-- R179, R183, R184, R429, R431: TRD delivers a row of a tile that nothing is about to write, after 6 cycles; TWR and TZERO hand their
write to the engine, for two cycles later at the earliest; TOPKC claims 2k + 4 entries of sq and hands its rows to the column select
unit. -/
def Obligations.TileWordsComplete : Prop :=
  ∀ (s : State) (w : VecWord), s.turn.q = .x →
    let c := turnCore s
    let tile := (w.imm.extractLsb' 8 3).toNat
    let row := w.imm.toNat % 128
    let ignored := (if w.ty ≠ 0 then [warnMbz] else []) ++ rndMod w ++ satMod w
    let done (i : Instr) (f : VecForm) (s1 : State) : Prop :=
      exec i s = .next (issued 3 (vecWarns w f) s1 (.on (s.cyc + 1) false))
    let ready (f : VecForm) : Prop := vecBad w f = false ∧ vecStall w f s = none ∧
      NoHazard s (vecPlan w f fun _ => ⟨[], false⟩).reads (vecPlan w f fun _ => ⟨[], false⟩).writes
    let rd : VecForm := ⟨false, false, false, true, false, true, 0x77F, ignored, 0, 6, none, []⟩
    let wr : VecForm := ⟨true, false, false, false, false, true, 0x77F, ignored, 0, 6, none, []⟩
    let zero : VecForm := ⟨false, false, false, false, false, true, 0x700, ignored ++ maskMod w, 0, 6, none, []⟩
    let topk : VecForm := ⟨false, false, false, true, decide (w.dst.toNat ≠ 34) || decide (32 ≤ w.fn.toNat), false, 0x77F,
      ignored ++ maskMod w, 0, 6, none, []⟩
    let k := w.fn.toNat % 32 + 1
    (ready rd → tileQuiet c tile s.cyc = true →
      done (.trd w) rd (deliverLanes s w.dst.toNat 6 (readMask c w.mask.toNat) false (tileRow (getTile c tile) row))) ∧
    (ready wr → done (.twr w) wr
      (queueTileWrite (popSources w wr s) tile (some row) (vecArgs w wr s).a (readMask c w.mask.toNat))) ∧
    (ready zero → done (.tzero w) zero (queueTileWrite s tile none [] 0)) ∧
    (vecBad w topk = false → NoHazard s [] [] → tileQuiet c tile s.cyc = true →
      done (.topkc w) topk (updCore { s with ids := s.ids + 1 } s.turn.core fun c =>
        { c with sq := claimQ c.sq s.ids (2 * k + 4),
                 topkQ := c.topkQ ++ [⟨s.ids, s.cyc + 2 * (row + 1) + k, topkcEntries (getTile c tile) (row + 1) k⟩] }))

/-- R175, R177, R179 to R182, R395 to R399, R429: the engine's steps. A word starts once the one before it has ended, reading its buffers,
its tiles or its rows; a tile step that has its lines completes with the tile it computes, a drain of 16 cycles and CR 0x031 advanced; MRET
completes with an event record; MDRAIN and TOPKC push an entry a cycle; a tile write takes effect in its turn. R23, R24, R157, R347: a
completion is posted at the end of its cycle, and not before: its engine's count goes up, its record, if it has one, joins the event queue
with that count, or is discarded with warn(EVQ) where 32 are held, and its arrival is made at its barrier, on the issuing core in its
engine's turn, on another after that core's own. R175, R112: the load pipe takes the line at slot 7's head for the first word that still
needs lines: the line leaves the slot and, where it passes its checks, is kept in plain form for the word; a line that does not pass raises
0x27. That a line of neither range is checked under the operand's handle is the model's choice (log 88), and so is the cycle of the place
that a pop frees (log 84). -/
def Obligations.MatrixEngineSteps : Prop :=
  (∀ (s : State) (p tile st : Nat) (m : MatCmd) (ms : List MatCmd) (x : TileWrite) (k : TopkCmd) (ks : List TopkCmd),
     let c := getCore s p
     let acc := m.w.acc.toNat
     (c.matQ = m :: ms → m.start = none → m.issued ≤ s.cyc → c.matFree ≤ s.cyc →
       (m.op ≤ 2 → CoreBecomes (.matrixWordStart p) s p
         { c with matQ := { captureStep c m with start := some s.cyc } :: ms }) ∧
       (m.op = 3 → ∃ t, exec (.matrixWordStart p) s = .next t ∧ (getCore t p).matQ = { m with start := some s.cyc } :: ms ∧
         ∀ j ∈ maskTiles m.w, smGet [] (getCore t p).retired j = getTile (getCore t p) j ∧
           smGet false (getCore t p).retireFresh j = true) ∧
       (m.op = 4 → ∃ t, exec (.matrixWordStart p) s = .next t ∧
         (getCore t p).sq = claimQ c.sq m.id (drainCount m.w) ∧
         ((getCore t p).matQ.headD m).rows = (List.range (drainCount m.w)).map fun r =>
           tileRow (getTile (getCore t p) acc) (drainRow0 m.w + r))) ∧
     (c.matQ = m :: ms → m.op ≤ 2 → stepDue c s.cyc = true →
       let tr := if m.op = 2 then selectPat (mwPat m.w) (mwPt m.w) c.regs.trellis else c.regs.trellis
       let new := tileStep m.w (if m.op = 2 then some tr else none) (stepImages m true) (stepImages m false) m.nb (getTile c acc)
       stepCause m tr = none → ∃ t, exec (.tileStepCompletion p) s = .next t ∧ getTile (getCore t p) acc = new.1 ∧
         (∀ j, j ≠ acc → getTile (getCore t p) j = getTile c j) ∧ smGet 0 (getCore t p).drain acc = s.cyc + 16 ∧
         (getCore t p).matQ = ms ∧ (getCore t p).matFree = s.cyc ∧ getCsn (getCore t p) 1 = getCsn c 1 + 1 ∧
         (getCore t p).regs.warn = (if new.2 then warnWord c.regs.warn warnIovf else c.regs.warn)) ∧
     (c.matQ = m :: ms → m.op = 3 → m.start = some st → st + max 1 (32 * (maskTiles m.w).length) ≤ s.cyc →
       CompletesOn (.mretCompletion p) s p .matrix m.id 1 0 none 0 false { c with matQ := ms, matFree := s.cyc }) ∧
     (∀ y : Post, c.posts = [y] →
       (s.cyc < y.due → getCore (flushPosts s p) p = c) ∧
       (y.due ≤ s.cyc → y.barrier = none →
         let n := getCsn c y.engine + 1
         let d : Core := { c with posts := [], regs := { c.regs with csn := smSet 0 c.regs.csn y.engine n } }
         (y.status = none → getCore (flushPosts s p) p = d) ∧
         ∀ k, y.status = some k → c.evPop < s.cyc → getCore (flushPosts s p) p =
           (if c.regs.events.length < 32 then
              { d with regs := { d.regs with events := c.regs.events ++ [(s.cyc, y.engine,
                  BitVec.ofNat 64 (k * 2 ^ 48 + n.toNat * 2 ^ 16 + y.engine * 2 ^ 8 + 1))] } }
            else warn d warnEvq)) ∧
       (∀ b : BarRef, y.due ≤ s.cyc → y.barrier = some b → b.core ≠ p →
         (getCore (flushPosts s p) b.core).bars = (getCore s b.core).bars ++
           [⟨8 + c.lidx, b.addr / 8 * 8, .arrive y.count y.fail, .c, [], none⟩]) ∧
       (∀ b : BarRef, y.due ≤ s.cyc → y.barrier = some b → b.core = p →
         (getCore (flushPosts s p) p).bars = c.bars ++
           [⟨(match y.party with | .copy => 2 | .matrix => 3 | .bin => 4 | .row => 5 | .coll => 6 | _ => 7),
             b.addr / 8 * 8, .arrive y.count y.fail, .c, [], none⟩])) ∧
     (c.matQ = m :: ms → mdrainDue c s.cyc = true →
       let c1 := { c with sq := fillQ c.sq m.id (m.rows.headD []) s.cyc }
       CoreBecomes (.mdrainEntryPush p) s p
         (if m.rows.length ≤ 1 then bumpCsn { c1 with matQ := ms, matFree := s.cyc } 1
          else { c1 with matQ := { m with rows := m.rows.drop 1, lastTake := s.cyc } :: ms })) ∧
     (smGet 0 c.drain tile ≤ s.cyc →
       CoreBecomes (.tileDrainEnd p tile) s p { c with drain := smSet 0 c.drain tile 0 }) ∧
     (nextTileWrite c s.cyc = some x →
       CoreBecomes (.tileWriteEffect p) s p
         (setTile { c with tileQ := c.tileQ.filter fun y => y.id ≠ x.id } x.tile
           (match x.row with
             | none => []
             | some q => setTileRow (getTile c x.tile) q x.active x.lanes))) ∧
     (c.topkQ = k :: ks → topkcDue c s.cyc = true → ∃ t, exec (.topkcEntryPush p) s = .next t ∧
       (getCore t p).sq = fillQ c.sq k.tag (k.entries.headD []) s.cyc ∧
       (1 < k.entries.length → (getCore t p).topkQ = { k with next := s.cyc + 1, entries := k.entries.drop 1 } :: ks))) ∧
  (∀ (s : State) (p i : Nat) (m : MatCmd) (x : SlotLine), pipeDue (getCore s p) s.cyc = true →
     pipeWord (getCore s p) = some (i, m) → landHead (getCore s p) 7 s.cyc = some x →
     let h := if m.need.contains x.addr && !inOperand m x.addr then m.hSc else m.hOp
     let after := deliverLine (setCore s p (popLand (getCore s p) 7 s.cyc)) (getCore s p).world (hConf h) (hSealed h) x
     (∀ v corr, after.2 = some (v, corr) → ∃ t, exec (.matrixPipeLineTake p) s = .next t ∧
       landSlot (getCore t p) 7 = (landSlot (getCore s p) 7).drop 1 ∧
       ((getCore t p).matQ[i]?.map (·.taken)) = some (m.taken ++ [(x.addr, v)])) ∧
     (after.2 = none → ∀ n, RunsClean { s with turn := { s.turn with core := p } } n → ∃ t, exec (.matrixPipeLineTake p) s = .next t ∧
       (trapOf t n).map (fun z => (z.cause, z.cyc, z.first)) = some (0x27, s.cyc, x.addr)))

/-! ### The feed and store ports -/

/-- R405, R441 to R443, R451, R452: VLD, OBLD and VST whose count is static and whose ranges lie within 2^21 and their class's open sets
queue their command, VLD with its claim on lq, VST as a taker of sq; a VST of no entry queues nothing. -/
def Obligations.FeedWordsComplete : Prop :=
  ∀ (s : State) (w : XferWord) (bar : Option BarRef), (regHere s w.c).static = true →
    let c := turnCore s
    let n := (regHere s w.c).val.toNat
    let base := (regHere s w.a).val.toNat + w.off.toNat
    let stride := if w.b = 0 then 512 else (regHere s w.b).val.toNat / 64 * 64
    let low := decide (w.b ≠ 0) && decide ((regHere s w.b).val.toNat % 64 ≠ 0)
    let mbz := decide (w.fn.toNat / 64 ≠ 0) || decide (w.imm ≠ 0)
    let decant := decide (w.fn.toNat % 64 ≠ 0)
    let s1 : State := { s with ids := s.ids + 1 }
    let ready (rs : List Reg) : Prop := FieldsOk s rs ∧ NoHazard s (rs.map (destHere s)) []
    (ready [w.a, w.b, w.c] → s.turn.q = .l → w.q = 0 → n ≤ 4096 → (n = 0 ∨ lqFree c s.cyc = true) →
      (∀ k, k < n → base + k * stride + 512 ≤ 2 ^ 21 ∧
        phaseOk c 1 s.cyc true false (base + k * stride) 512 = true) →
      LeavesFrom (.vld w) s s1
        (goesOnWarned
          { warnIf low warnMod c with
            feedQ := c.feedQ ++ [⟨s.ids, true, s.cyc, n, base, stride, 0, false, none, 0, s.cyc, []⟩],
                    lqOrder := if n = 0 then c.lqOrder else c.lqOrder ++ [(s.ids, n)] }
          .l s.cyc 3 ((if mbz then [warnMbz] else []) ++ (if decant then [warnDec] else [])))) ∧
    (let scale := w.fn.getLsbD 6
     let bv := w.fn.getLsbD 7
     let mbz := decide (w.fn.toNat / 256 ≠ 0) || decide (w.imm.toNat / 2 ^ 21 ≠ 0) || (!bv && (decide (w.b ≠ 0) || decide (w.imm ≠ 0)))
     ready (if bv then [w.a, w.b, w.c] else [w.a, w.c]) → s.turn.q = .l → w.q.toNat < 4 → n % 64 = 0 → 64 ≤ n →
         n ≤ (if scale then 4096 else 32768) → base + n ≤ 2 ^ 21 →
      phaseOk c 1 s.cyc true false base n = true →
      (if bv then barrierRef s (regHere s w.b).val (w.imm.toNat % 2 ^ 21) = .ok (bar.getD ⟨0, 0⟩) ∧ bar ≠ none else bar = none) →
      LeavesFrom (.obld w) s s1
        (goesOnWarned { c with feedQ := c.feedQ ++ [⟨s.ids, false, s.cyc, n, base, 512, w.q.toNat, scale, bar, 0, s.cyc, []⟩] } .l s.cyc 3
          ((if mbz then [warnMbz] else []) ++ (if decant then [warnDec] else [])))) ∧
    (let topk := w.fn.getLsbD 4 && !w.fn.getLsbD 5
     let k := w.imm.toNat % 64 + 1
     let vstride := if topk then 8 * k else stride
     let len := if topk then 8 * k else 512
     let mbz := decide (w.fn.toNat / 64 ≠ 0) || decide (w.imm.toNat / (if w.fn.getLsbD 4 then 64 else 1) ≠ 0)
     let decant := w.fn.getLsbD 0 || w.fn.getLsbD 1 || w.fn.getLsbD 2 || w.fn.getLsbD 3 || (w.fn.getLsbD 4 && w.fn.getLsbD 5)
     ready [w.a, w.b, w.c] → s.turn.q = .s → w.q = 0 → (topk = true → w.b = 0) → n ≤ 4096 → c.takers = [] →
         (n = 0 ∨ (headOf c.sq s.cyc).isSome = true) →
      (∀ j, j < n → base + j * vstride + len ≤ 2 ^ 21 ∧
        phaseOk c 2 s.cyc false true (base + j * vstride) len = true) →
      let c1 := warnIf low warnMod c
      LeavesFrom (.vst w) s s1
        (goesOnWarned (if n = 0 then c1
          else { c1 with
            storeQ := c.storeQ ++ [⟨s.ids, s.cyc, n, base, vstride, w.fn.getLsbD 5, if topk then some k else none, 0, s.cyc⟩]
            takers := c.takers ++ [s.ids] }) .s s.cyc 3 ((if mbz then [warnMbz] else []) ++ (if decant then [warnDec] else []))))

/-- R441, R451, R405: a count that is not static raises 0x14, one above 4,096 raises 0x21 with the base, and so does an OBLD of a
count that is no multiple of 64; an entry's range outside the open sets of the class raises 0x26. R370: the checks of a COPY, in
order: a count that is not static is 0x14, `.topk` of a count that is no multiple of 512 is 0x01, an own range past 2^21 or outside
class 0's open sets 0x26; a full engine is 0x11. FAR 0 without `.gcm`. R417, R163, R27: the row words' checks: a row count of zero
or above 4,096 is 0x01, an index list, local array or barrier outside class 4's open sets 0x26 with its address, a table handle of a
missed translation 0x22, a die address of a core the launch does not have 0x23, the frame giving the die's engine to another
world 0x23. That this check of R27 comes after those of class 4, and that a handle's checks 1 and 2 of R107 come before those of
steps 4 and 5 that depend on its space, are the model's choice (log 53). -/
def Obligations.EngineWordsTrap : Prop :=
  (∀ (s : State) (n : Nat) (w : XferWord), RunsClean s n → s.turn.q = .l → w.q.toNat < 4 → lqFree (turnCore s) s.cyc = true →
     let ready (rs : List Reg) : Prop := FieldsOk s rs ∧ NoHazard s (rs.map (destHere s)) []
     let vld := ready [w.a, w.b, w.c] ∧ w.q = 0
     let obld := ready (if w.fn.getLsbD 7 then [w.a, w.b, w.c] else [w.a, w.c])
     let k := (regHere s w.c).val.toNat
     let base := (regHere s w.a).val.toNat + w.off.toNat
     ((regHere s w.c).static = false → (vld → Traps (.vld w) s n 0x14 0 0 0 []) ∧ (obld → Traps (.obld w) s n 0x14 0 0 0 [])) ∧
     (vld → (regHere s w.c).static = true → 4096 < k → Traps (.vld w) s n 0x21 base base 0 []) ∧
     (obld → (regHere s w.c).static = true → k % 64 ≠ 0 → Traps (.obld w) s n 0x21 base base 0 []) ∧
     (vld → (regHere s w.c).static = true → 0 < k → k ≤ 4096 → 2 ^ 21 < base + 512 → Traps (.vld w) s n 0x26 base base 0 [])) ∧
  (∀ (s : State) (n : Nat) (w : XferWord), RunsClean s n → s.turn.q = .l → copyFar w = 0 → w.q = 0 → FieldsOk s [w.a, w.b, w.c, w.q] →
     NoHazard s [destHere s w.a, destHere s w.c, destHere s w.q, destHere s w.b] [] → decGcm w = false →
     let k := (regHere s w.c).val.toNat
     let loc := ((regHere s w.a).val + w.off.setWidth 64).toNat
     ((regHere s w.c).static = false → Traps (.copy w) s n 0x14 0 0 0 []) ∧
     ((regHere s w.c).static = true → decTopk w = true → decZfill w = false → k % 512 ≠ 0 → Traps (.copy w) s n 0x01 0 0 0 []) ∧
     ((regHere s w.c).static = true → decTopk w = false ∨ decZfill w = true → decZfill w = false ∨ copyDir w = true →
       2 ^ 21 < loc + k ∨ 0 < k ∧ phaseOk (turnCore s) 0 s.cyc (!copyDir w) (copyDir w) loc k = false →
       Traps (.copy w) s n 0x26 loc loc 0 []) ∧
     (copyChecks w (copyPlanOf w s) s = .ok () → copyRoom (turnCore s) = false → Traps (.copy w) s n 0x11 0 0 0 [])) ∧
  (∀ (s : State) (n : Nat) (h : Hdr) (a : Reg) (imm : Word32) (ws : List Word64) (low : Bool), RunsClean s n → s.turn.q = .c →
     ctlDescriptor s a imm 8 = .ok (ws, low) →
     let d := rowDesc ws
     let c := turnCore s
     let t := rowHandle s d
     let fine := rowFieldsBad ws d = false ∧ ((d.tkind = true ∧ rowHandleOk s d = false) ∨ rowWindowsBad ws d (rowPackage s d) = false)
     let index := d.idx + 4 * d.n ≤ 2 ^ 21 ∧ phaseOk c 4 s.cyc true false d.idx (4 * d.n) = true
     let local_ := d.loc + d.n * d.rb ≤ 2 ^ 21 ∧ phaseOk c 4 s.cyc false true d.loc (d.n * d.rb) = true
     let marked := d.bv = true → phaseOk c 4 s.cyc false true (d.bar / 8 * 8) 8 = true
     NoHazard s (destHere s a :: if d.tkind then [.h d.h] else []) [] →
     ((d.n = 0 ∨ 4096 < d.n) → Traps (.rowg h a imm) s n 0x01 0 0 0 [] ∧ Traps (.rows h a imm) s n 0x01 0 0 0 [] ∧
       Traps (.rowsa h a imm) s n 0x01 0 0 0 []) ∧
     (fine → ¬index → Traps (.rowg h a imm) s n 0x26 d.idx d.idx 0 []) ∧
     (fine → index → ¬local_ → Traps (.rowg h a imm) s n 0x26 d.loc d.loc 0 []) ∧
     (fine → index → local_ → d.bv = true → ¬marked → Traps (.rowg h a imm) s n 0x26 (d.bar / 8 * 8) (d.bar / 8 * 8) 0 []) ∧
     (fine → index → local_ → marked → d.tkind = true → hValid t = false → hCause t = 1 →
       Traps (.rowg h a imm) s n 0x22 d.table (smGet 0 c.regs.hva d.h) 0 []) ∧
     (fine → index → local_ → marked → d.tkind = false → lcountOf s s.turn.core ≤ d.table / 2 ^ 21 →
       Traps (.rowg h a imm) s n 0x23 d.table d.table 0 []) ∧
     (fine → index → local_ → marked → d.tkind = false → d.table / 2 ^ 21 < lcountOf s s.turn.core →
       rowWorld s (s.turn.core / 128) ≠ c.world → Traps (.rowg h a imm) s n 0x23 0 0 0 []))

/-- R405, R406, R442, R443, R452: VLD pushes an entry a cycle, read in the cycle of its push; OBLD reads 512 bytes a cycle, an aligned 8-byte
word whole (R219: the model's reading, log 91), and in its last cycle hands its bytes to its buffer and, with a barrier, makes there its
arrival of all its bytes, on its own core or on another; VST pops an entry a cycle and writes its 512 bytes, its zeros, or its k best:
these 4 k cycles after the pop, as R452 has it, where Table 7.5 differs: the model's choice (log 60). -/
def Obligations.FeedPortSteps : Prop :=
  ∀ (s : State) (p : Nat) (f : FeedCmd) (fs : List FeedCmd) (v : StoreCmd) (vs : List StoreCmd) (l : Lanes),
    let c := getCore s p
    let entry := packLanes (lanesOfBytes (spadRead c p (.seq .l) s.cyc (f.base + f.next * f.stride) 512))
    (c.feedQ = f :: fs → f.n ≠ 0 → vldDue c s.cyc = true →
      CoreBecomes (.vldEntryPush p) s p
        { c with lq := pushQ c.lq entry s.cyc, lqOrder := lqPushed c.lqOrder,
                 feedQ := if f.next + 1 < f.n then { f with next := f.next + 1, pos := s.cyc + 1 } :: fs else fs,
                 feedFree := if f.next + 1 < f.n then c.feedFree else s.cyc + 1 }) ∧
    (c.feedQ = f :: fs → obldDue c s.cyc = true →
      let from_ := f.base + f.data.length
      let stop := min ((f.base + 512 * (f.next + 1) + 7) / 8 * 8) (f.base + f.n)
      let data := f.data ++ spadRead c p (.seq .l) s.cyc from_ (stop - from_)
      (512 * (f.next + 1) < f.n → CoreBecomes (.obldCompletion p) s p
        { c with feedQ := { f with next := f.next + 1, pos := s.cyc + 1, data := data } :: fs }) ∧
      (f.n ≤ 512 * (f.next + 1) →
        let d : Core := { c with feedQ := fs, feedFree := s.cyc + 1, obNext := c.obNext ++ [(f.buf, f.scale, data)] }
        (f.barrier = none → CoreBecomes (.obldCompletion p) s p d) ∧
        ∀ b, f.barrier = some b →
          (b.core = p → CoreBecomes (.obldCompletion p) s p
            { d with bars := c.bars ++ [⟨7, b.addr / 8 * 8, .arrive f.n false, .c, [], none⟩] }) ∧
          (b.core ≠ p → ∃ t, exec (.obldCompletion p) s = .next t ∧ getCore t p = d ∧ getCore t b.core =
            { getCore s b.core with
              bars := (getCore s b.core).bars ++ [⟨8 + c.lidx, b.addr / 8 * 8, .arrive f.n false, .c, [], none⟩] }))) ∧
    (c.storeQ = v :: vs → headOf c.sq s.cyc = some l → vstDue c s.cyc = true → ∃ t, exec (.vstEntryPop p) s = .next t ∧
      (getCore t p).sq = popQ c.sq s.cyc ∧
      (getCore t p).storeQ = (if v.next + 1 < v.n then { v with next := v.next + 1, pos := s.cyc + 1 } :: vs else vs) ∧
      let w : SpadWrite := ⟨s.cyc + (match v.topk with | some k => 4 * k | none => 0), p, c.lidx, .seq .s,
        v.base + v.next * v.stride,
        if v.zfill then List.replicate 512 0 else (match v.topk with | some k => topkBytes k l | none => bytesOfLanes l), 0, 0, []⟩
      (getCore t p).recent = (spadWrite c w).recent)

/-! ### The copy engine -/

/-- R369 to R373: a COPY that passes its checks and finds the engine with room is queued as the transfer its word and registers give, with
the warnings of its qualifiers, and a FAR 5 transfer takes its turn at lq. -/
def Obligations.CopyWordCompletes : Prop :=
  ∀ (s : State) (w : XferWord) (bar : Option BarRef), copyBad w = false →
    FieldsOk s (if copyFar w ≤ 1 then [w.a, w.b, w.c, w.q] else [w.a, w.c, w.q]) → s.turn.q = .l ∨ (s.turn.q = .s ∧ copyFar w ≠ 5) →
    NoHazard s ([destHere s w.a, destHere s w.c, destHere s w.q] ++
      (if copyFar w ≤ 1 then [destHere s w.b] else if copyFar w ≤ 4 then [.h w.b.toNat] else [])) [] →
    let p := copyPlanOf w s
    copyChecks w p s = .ok () → copyBarrier w s = .ok bar → copyRoom (turnCore s) = true → ∃ t, exec (.copy w) s = .next t ∧
      OnlyCore { s with ids := s.ids + 1 } t s.turn.core
        (goesOn
          (let c1 := warnAll (copyWarns w p) (turnCore s)
           { c1 with
             copyQ := c1.copyQ ++ [⟨s.ids, s.turn.q, s.cyc, 16 * (w.imm.toNat % 2 ^ 12), p.far, copyDir w, p.count, p.loc,
               p.farAddr % (if p.far = 1 then 2 ^ 21 else 2 ^ 64), p.farCore, p.handle, copySlot w, p.key, decZfill w, p.topk, p.tr, bar,
               none, 0, 0, 0, 0, [], [], 0, 0, 0, 0, none, none, [], [], [], 0, false⟩]
             lqOrder := if p.far = 5 ∧ planDst p ≠ 0 then c1.lqOrder ++ [(s.ids, (planDst p + 511) / 512)] else c1.lqOrder })
          s.turn.q s.cyc 3 false)

/-- R373, R374, R371: the next transfer starts once the engine is free; while it has units left the engine moves them, at most two
in a cycle: FAR 0's are read and written in the cycle of the move, into the local array or from it; FAR 1's are sent to the other core's
inbound port, as lines to be written or as a read to be answered; FAR 2's are held for the segment's end, or read from host memory, from
another package's, or as the package's own remote bins brought them; a FAR 3 line is taken from its landing slot, a FAR 4 line
appended to its outgoing slot, a FAR 5 entry pushed into lq. In its completion cycle the engine's count advances, its event record
and its barrier's arrival are posted, and its writes are seen (R210). That they are seen then, where R202 alone would show them later, is
the model's reading (log 84); its choices are a wait's cycles (log 49), the lines that a misaligned transfer writes (log 91), the cycles
in which a gathered output leaves (log 92), and the cycle of a read from outside (log 20). R204, R74, R342: an inbound port takes one line
a cycle, the oldest first; a store that class 6 allows is written at the target in the cycle, a load answers with the bytes read there, an
atomic with the value it finds, whose new value it writes, a transfer's line is written there or read into its local array; one that class
6 does not allow raises 0x26 on the issuing core. -/
def Obligations.CopyEngineSteps : Prop :=
  (∀ (s : State) (p : Nat) (m : CopyCmd) (ms : List CopyCmd), (getCore s p).copyQ = m :: ms →
     let c := getCore s p
     let off := 64 * m.units
     (m.start = none → m.issued ≤ s.cyc → c.copyFree ≤ s.cyc → copyOutside m = false →
       let d0 := (if m.far = 5 then s.cyc + 8 else s.cyc) + (if copyEmits m then orderExtra m else 0)
       let m1 : CopyCmd := { m with start := some s.cyc, d0 := d0, lastMove := d0 - 1, own := none }
       CoreBecomes (.copyStart p) s p
         { c with copyQ := copySettle p (if copyEmits m then
             { m1 with units := copyUnits m, out := orderThree m (spadRead c p .copy s.cyc m.loc (copySrc m)) } else m1) :: ms }) ∧
     (m.lastMove = s.cyc → 2 ≤ m.movedNow →
       copyNext c s.cyc = none ∨ copyNext c s.cyc = some .open_ ∨ copyNext c s.cyc = some .complete) ∧
     ((countUnit p s.cyc m).lastMove = s.cyc ∧
       (countUnit p s.cyc m).movedNow = if m.lastMove = s.cyc then m.movedNow + 1 else 1) ∧
     (copyNext c s.cyc = some .unit → m.units < copyUnits m → m.zfill = false → copyGathers m = false →
       let at_ := unitOff m m.units
       let n := unitLen m m.units
       let read := copyRead c p s.cyc m (if m.toLocal then m.farAddr else m.loc)
       let lands (base : Nat) (bs : List Byte) (ahead : List Byte) : Prop :=
         let whole := wholeLines m base at_ bs
         ∃ t, exec (.copyCompletion p) s = .next t ∧
           (getCore t p).recent =
             (spadWrite c ⟨s.cyc, p, c.lidx, .copy, base + at_ - m.tail.length, whole.1, m.id, 0, []⟩).recent ∧
           (getCore t p).copyQ = countUnit p s.cyc { m with tail := whole.2, ahead := ahead } :: ms
       let sends (reqs : List InReq) (tail ahead : List Byte) : Prop :=
         ∃ t, exec (.copyCompletion p) s = .next t ∧ (getCore t m.farCore).inbound = (getCore s m.farCore).inbound ++ reqs ∧
           (getCore t p).copyQ =
             countUnit p s.cyc { m with tail := tail, ahead := ahead, pending := m.pending + reqs.length } :: ms
       let holds (space addr : Nat) : Prop :=
         ∃ t, exec (.copyCompletion p) s = .next t ∧ (getCore t p).held = c.held ++ [⟨m.id, space, addr, read.1, false⟩] ∧
           (getCore t p).copyQ = countUnit p s.cyc { m with ahead := read.2 } :: ms
       let device := hDevAddr m.handle + (m.farAddr + at_)
       (m.far = 0 → lands (if m.toLocal then m.loc else m.farAddr) read.1 read.2) ∧
       (m.far = 1 → m.toLocal = false →
         let whole := wholeLines m m.farAddr at_ read.1
         sends ((linesOf (m.farAddr + at_ - m.tail.length) whole.1).mapIdx fun k l =>
           ⟨s.ids + k, s.cyc, p, c.lidx, .copy, .copyWrite, l.1, l.2, m.id⟩) whole.2 read.2) ∧
       (m.far = 1 → m.toLocal = true →
         sends [⟨s.ids, s.cyc, p, c.lidx, .copy, .copyRead n at_, m.farAddr + at_, [], m.id⟩] m.tail m.ahead) ∧
       (m.far = 2 → m.toLocal = false → m.status ≠ 3 →
         (hSpace m.handle = 1 → dmaOpen s c.world = true → holds 1 (hAddr m.handle + (m.farAddr + at_))) ∧
         (hSpace m.handle ≠ 1 → ∀ k, domTarget s c.world (hDevice m.handle) device read.1.length = .away k → holds 3 k) ∧
         (hSpace m.handle ≠ 1 → ∀ w a, domTarget s c.world (hDevice m.handle) device read.1.length = .own w a →
           holds 2 (w * 2 ^ 48 + a))) ∧
       (m.far = 2 → m.toLocal = true →
         (m.own = none → hSpace m.handle = 1 → dmaOpen s c.world = true →
           lands m.loc (memRead s.host (hAddr m.handle + (m.farAddr + at_)) n) m.ahead) ∧
         (m.own = none → hSpace m.handle ≠ 1 → ∀ k, domTarget s c.world (hDevice m.handle) device n = .away k →
           lands m.loc (memRead s.domainMem k n) m.ahead) ∧
         ∀ a bs, m.own = some a → gotBytes m.got (a + at_) n = some bs → lands m.loc bs m.ahead)) ∧
     (copyNext c s.cyc = some .complete →
       CompletesOn (.copyCompletion p) s p .copy m.id 0 m.status m.barrier m.count (decide (m.status ≠ 0))
         { c with copyQ := ms, copyFree := s.cyc }) ∧
     (copyNext c s.cyc = some .landLine → ∀ x, landHead c m.slot s.cyc = some x → ∃ t, exec (.copyLandLineTake p) s = .next t ∧
       landSlot (getCore t p) m.slot = (landSlot c m.slot).drop 1 ∧
       (x.addr ≠ hAddr m.handle + m.farAddr + off → ∀ n, RunsClean { s with turn := { s.turn with core := p } } n →
         (trapOf t n).map (fun z => (z.cause, z.cyc, z.first, z.faddr)) =
           some (0x21, s.cyc, hAddr m.handle + m.farAddr + off, x.addr))) ∧
     (copyNext c s.cyc = some .append → m.far = 4 → m.toLocal = false → ∃ t, exec (.outgoingSlotLineAppend p) s = .next t ∧ ∃ line : Line,
       outSlot (getCore t p) m.slot = outSlot c m.slot ++
         [⟨hAddr m.handle + m.farAddr + (if m.units < copyUnits m then off else copyOut m - m.out.length), line, s.cyc⟩]) ∧
     (copyNext c s.cyc = some .lqPush → m.far = 5 → m.toLocal = false →
       let bs := if copyUnits m ≤ m.units then m.out.take 64
         else if m.zfill then List.replicate (min 64 (copySrc m - off)) 0 else (copyRead c p s.cyc m m.loc).1
       let at_ := if copyUnits m ≤ m.units then copyOut m - m.out.length else off
       512 ≤ m.data.length + bs.length ∨ copyOut m ≤ at_ + bs.length → ∃ t, exec (.copyLqEntryPush p) s = .next t ∧
         (getCore t p).lqOrder = lqPushed c.lqOrder ∧
         (getCore t p).lq = pushQ c.lq (packLanes (lanesOfBytes (sliceBytes (m.data ++ bs) 0 512))) s.cyc)) ∧
  (∀ (s : State) (p n : Nat) (r : InReq), inDue (getCore s p) s.cyc = true → inNext (getCore s p) = some r → r.party = .seq .c →
     let c := getCore s p
     let rest := c.inbound.filter fun x => decide (x.id ≠ r.id)
     (r.kind = .store → phaseOk c 6 s.cyc false true r.addr r.bytes.length = true → ∃ t, exec (.inboundLineTake p) s = .next t ∧
       (getCore t p).inbound = rest ∧ (getCore t p).inTaken = s.cyc + 1 ∧
       (getCore t p).recent = (spadWrite c ⟨s.cyc, r.fromCore, r.fromIdx, .seq .c, r.addr, r.bytes, 0, 0, []⟩).recent) ∧
     (∀ size sx, r.kind = .load size sx → phaseOk c 6 s.cyc true false r.addr size = true → p ≠ r.fromCore →
       ∃ t, exec (.inboundLineTake p) s = .next t ∧ (getCore t p).inbound = rest ∧
       ∀ f ∈ (getCore s r.fromCore).flight, f.awaits = some r.id →
         { f with awaits := none, val := .word (ldWord size sx (spadRead c r.fromCore (.seq .c) s.cyc r.addr size)) false,
                  real := s.cyc + (if dieOf r.fromCore = dieOf p then 72 else 200) } ∈ (getCore t r.fromCore).flight) ∧
     (∀ fn dv swap, r.kind = .atomic fn dv swap → fn < 7 → phaseOk c 6 s.cyc true true r.addr 8 = true → p ≠ r.fromCore →
       let old := BitVec.ofNat 64 (leNat (spadBefore c s.cyc r.fromIdx r.addr 8))
       let new : Option Word64 := if fn = 6 then (if old = dv then some swap else none)
         else some (if fn = 0 then old + dv else if fn = 1 then (if dv.toInt < old.toInt then dv else old)
           else if fn = 2 then (if old.toInt < dv.toInt then dv else old) else if fn = 3 then old &&& dv
           else if fn = 4 then old ||| dv else dv)
       ∃ t, exec (.inboundLineTake p) s = .next t ∧ (getCore t p).inbound = rest ∧
       (getCore t p).recent = (match new with
         | some z => (spadWrite c ⟨s.cyc, r.fromCore, r.fromIdx, .seq .c, r.addr, leBytes 8 z.toNat, 0, 0, []⟩).recent
         | none => c.recent) ∧
       ∀ f ∈ (getCore s r.fromCore).flight, f.awaits = some r.id →
         { f with awaits := none, val := .word old false,
                  real := s.cyc + (if dieOf r.fromCore = dieOf p then 72 else 200) } ∈ (getCore t r.fromCore).flight) ∧
     (r.kind = .store → phaseOk c 6 s.cyc false true r.addr r.bytes.length = false →
       RunsClean { s with turn := { s.turn with core := r.fromCore } } n → ∃ t, exec (.inboundLineTake p) s = .next t ∧
         (trapOf t n).map (fun z => (z.cause, z.cyc, z.core, z.first)) = some (0x26, s.cyc, some r.fromCore, r.addr))) ∧
  (∀ (s : State) (p n : Nat) (r : InReq) (m : CopyCmd) (ms : List CopyCmd), inDue (getCore s p) s.cyc = true →
     inNext (getCore s p) = some r → r.party = .copy → p ≠ r.fromCore → (getCore s r.fromCore).copyQ = m :: ms → m.id = r.cmd →
     let c := getCore s p
     let from_ := getCore s r.fromCore
     let counted (m : CopyCmd) : CopyCmd := { m with pending := m.pending - 1, late := max m.late (s.cyc - r.cyc) }
     let refused : Prop := RunsClean { s with turn := { s.turn with core := r.fromCore } } n →
       ∃ t, exec (.inboundLineTake p) s = .next t ∧ (getCore t r.fromCore).copyQ = ms ∧
         (trapOf t n).map (fun z => (z.cause, z.cyc, z.core, z.party, z.first)) = some (0x26, s.cyc, some r.fromCore, 4, r.addr)
     (r.kind = .copyWrite →
       (phaseOk c 6 s.cyc false true r.addr r.bytes.length = true → ∃ t, exec (.inboundLineTake p) s = .next t ∧
         (getCore t p).recent = (spadWrite c ⟨s.cyc, r.fromCore, r.fromIdx, .copy, r.addr, r.bytes, r.cmd, 0, []⟩).recent ∧
         (getCore t r.fromCore).copyQ = counted m :: ms) ∧
       (phaseOk c 6 s.cyc false true r.addr r.bytes.length = false → refused)) ∧
     ∀ len at_, r.kind = .copyRead len at_ → m.far = 1 → m.toLocal = true → copyGathers m = false →
       (phaseOk c 6 s.cyc true false r.addr len = true →
         let whole := wholeLines m m.loc at_ (spadRead c r.fromCore .copy s.cyc r.addr len)
         ∃ t, exec (.inboundLineTake p) s = .next t ∧
           (getCore t r.fromCore).recent = (spadWrite from_
             ⟨s.cyc, r.fromCore, from_.lidx, .copy, m.loc + at_ - m.tail.length, whole.1, m.id, 0, []⟩).recent ∧
           (getCore t r.fromCore).copyQ = counted { m with tail := whole.2 } :: ms) ∧
       (phaseOk c 6 s.cyc true false r.addr len = false → refused))

/-! ### Row engines and collectives -/

/-- R417: a ROWG, ROWS or ROWSA whose descriptor is in range and static and whose checks pass hands its command to its die's row engine,
with what the descriptor says, and C goes on. -/
def Obligations.RowWordsComplete : Prop :=
  ∀ (s : State) (h : Hdr) (a : Reg) (imm : Word32) (ws : List Word64) (low : Bool), s.turn.q = .c →
    ctlDescriptor s a imm 8 = .ok (ws, low) →
    let p := s.turn.core
    let d := rowDesc ws
    NoHazard s (destHere s a :: if d.tkind then [.h d.h] else []) [] →
    let queued (i : Instr) (op : Nat) : Prop :=
      rowChecks op ws d s = .ok () →
      exec i s = .next (issued 2 (if h.mbz then [warnMbz] else [])
        (setRows (warnHereIf low warnMod { s with ids := s.ids + 1 }) (p / 128) (getRows s (p / 128) ++
          [{ id := s.ids, op := op, core := p, lidx := (turnCore s).lidx, issued := s.cyc, bound := d.bound, n := d.n, rb := d.rb,
             idx := d.idx, loc := d.loc, table := d.table, handle := if d.tkind then some (rowHandle s d) else none,
             stride := d.stride, trows := d.trows, win0 := entryOf s p + d.stamp, wlen := d.wlen, nw := d.nw, cap := d.cap,
             fillAt := if rowPackage s d && d.fv then some d.fill else none,
             barrier := if d.bv then some ⟨p, d.bar⟩ else none, start := none, finish := 0, list := [], row := 0, entries := [],
             fills := [], done := [], sums := [], times := [], lines := 0, fail := false, waits := 0, got := [],
             late := 0, closed := false }])) (.on (s.cyc + 1) false))
    queued (.rowg h a imm) 0 ∧ queued (.rows h a imm) 1 ∧ queued (.rowsa h a imm) 2

/-- R418, R162, R163, R164, R165, R419: the row engine's steps on a scratchpad table: the command starts with its index list read and its
completion 8 cycles and a cycle for each 256 bytes away, with warn(RIDX) for an index past the table; row i is checked and applied in list
order, 256 bytes a cycle: ROWG copies its table row, or zeros where its index is skipped, ROWS its local row, ROWSA adds it lane by lane;
the first row whose rights fail ends the segment with 0x26; its completion advances CR 0x033 and posts its record and its barrier's
arrival; a package command's entry whose window has begun enters its channel's section, a ROWS entry with its local row's line (R142).
R298, R365, R368: an instance of distinct cores of one launch completes for all its participants together: each one's CR 0x034 advances
and its record is posted; the output of every participant, or of rank 0 alone for reduce, is the tree's result, rank 0's input or all
inputs in rank order. R300, R301, R366: an all-to-all gives each receiver its rows in the order of senders and rows, up to the bin's
CAPACITY; FILL and DROP, the records at META_OUT and those that go back to META_IN say where each went; a trap rule without room raises
0x40. R367: a combine gives each sender the row that came back under its record, times the record's weight, a dropped row as zeros.
R368: an instance that an abort of a participant, here or on another package, has cancelled does not complete, and a participant of it
ends with 0x10. The cycle in which a command of d cycles completes (log 35), the line that a ROWS entry takes as it enters its section
(log 93) and the cycle of an abort on another package (log 36) are the model's choices, and that a completion's writes are seen from its
cycle its reading (log 84). -/
def Obligations.RowAndCollectiveSteps : Prop :=
  (∀ (s : State) (die : Nat) (r : RowCmd) (rs : List RowCmd) (ch : Nat) (e : BinEntry), getRows s die = r :: rs →
     let list := (lanesOfBytes (spadRead (getCore s r.core) (512 + die) .row s.cyc r.idx (4 * r.n))).map (·.toNat)
     (r.start = none → r.issued ≤ s.cyc → r.handle = none → ∃ t, exec (.rowCommandStart die) s = .next t ∧
       getRows t die = { r with list := list, start := some s.cyc, finish := s.cyc + 8 + (r.n * r.rb + 255) / 256 } :: rs ∧
       (getCore t r.core).regs.warn =
         (if ∃ x ∈ list, x ≠ 2 ^ 32 - 1 ∧ r.trows ≤ x then warnWord (getCore s r.core).regs.warn warnRidx
          else (getCore s r.core).regs.warn)) ∧
     (∀ (st n : Nat), r.start = some st → r.handle = none → r.row < r.n →
       st + (((r.row + 1) * r.rb + 255) / 256 - 1) ≤ s.cyc →
       let x := r.list.getD r.row 0
       let skips := x = 2 ^ 32 - 1 ∨ r.trows ≤ x
       let home := getCore s r.core
       let from_ := r.loc + r.row * r.rb
       let target := physOf s r.core (r.table / 2 ^ 21)
       let there := r.table % 2 ^ 21 + x * r.stride
       let local_ := phaseOk home 4 s.cyc (decide (r.op ≠ 0)) (decide (r.op = 0)) from_ r.rb
       let held := decide (there + r.rb ≤ 2 ^ 21) &&
         phaseOk (getCore s target) (if target = r.core then 4 else 6) s.cyc (decide (r.op ≠ 1)) (decide (r.op ≠ 0)) there r.rb
       let old := spadRead (getCore s target) (512 + die) .row s.cyc there r.rb
       let mine := spadRead home (512 + die) .row s.cyc from_ r.rb
       let applied (t : State) : Prop :=
         exec (.rowCommandCompletion die) s = .next t ∧ getRows t die = { r with row := r.row + 1 } :: rs
       let stores (q a : Nat) (bs : List Byte) : Prop :=
         ∃ t, applied t ∧ OnlyCore { s with rows := t.rows } t q
           (spadWrite (getCore s q) ⟨s.cyc, 512 + die, r.lidx, .row, a, bs, r.id, 0, []⟩)
       let fails (a : Nat) : Prop := RunsClean { s with turn := { s.turn with core := r.core } } n →
         ∃ t, exec (.rowCommandCompletion die) s = .next t ∧ getRows t die = rs ∧
           (trapOf t n).map (fun z => (z.cause, z.cyc, z.core, z.party, z.first)) = some (0x26, s.cyc, some r.core, 7, a)
       (local_ = false → fails from_) ∧
       (local_ = true → skips → r.op = 0 → stores r.core from_ (List.replicate r.rb 0)) ∧
       (local_ = true → skips → r.op ≠ 0 → ∃ t, applied t ∧ t.cores = s.cores) ∧
       (local_ = true → ¬skips → held = false → fails there) ∧
       (local_ = true → ¬skips → held = true →
         (r.op = 0 → stores r.core from_ old) ∧ (r.op = 1 → stores target there mine) ∧
         (r.op = 2 → stores target there (((lanesOfBytes old).zip (lanesOfBytes mine)).flatMap fun y =>
           leBytes 4 (rne32 (addF 0 (dec32 y.1) (dec32 y.2))).toNat)))) ∧
     (r.start ≠ none → r.handle = none → r.n ≤ r.row → r.finish ≤ s.cyc →
       ∃ t, exec (.rowCommandCompletion die) s = .next t ∧ getRows t die = rs ∧
         Completes s t r.core .row r.id 3 0 r.barrier (r.n * r.rb) false (getCore s r.core)) ∧
     (∀ row line, r.start ≠ none → s.cyc ≤ r.finish → r.entries = [(ch, e)] → e.who = .rowLine die r.id row line → e.since ≤ s.cyc →
       (binSection s ch die).length < 64 →
       let held := lineOf (spadRead (getCore s r.core) (512 + die) .row s.cyc (r.loc + (row * r.rb + 64 * line)) 64)
       ∃ t, exec (.rowWindowStart die) s = .next t ∧
         binSection t ch die = binSection s ch die ++ [if r.op = 1 then { e with line := some held } else e] ∧
         getRows t die = { r with entries := [] } :: rs)) ∧
  (∀ (s : State) (n core : Nat) (i : Coll), s.colls = [i] → 
     let aborted := i.cancelled = true ∨ ∃ k, i.aborts = some k ∧ k ≤ s.cyc
     let due := ¬aborted ∧ (∃ f, i.finish = some f ∧ f ≤ s.cyc) ∧ (∀ p ∈ i.parts, p.waits = 0) ∧ (i.parts.map (·.core)).Nodup
     let done (t : State) (p : CollPart) (c : Core) : Prop :=
       Completes s t p.core .coll i.id 4 0 (if (partDesc p).bv then some ⟨p.core, (partDesc p).bar⟩ else none) 64 false c
     let read (p : CollPart) (a n : Nat) : List Byte := spadRead (getCore s p.core) 1000 .coll s.cyc a n
     let writes (p : CollPart) (a : Nat) (bs : List Byte) : Core :=
       spadWrite (getCore s p.core) ⟨s.cyc, 1000, 1024, .coll, a, bs, i.id, 0, []⟩
     let inLaunch := i.launch ≠ none ∧ ∀ p ∈ i.parts, (partDesc p).inb.mem = false ∧ (partDesc p).outb.mem = false
     (i.kind = 6 → due → ∃ t, exec (.collCompletion i.id) s = .next t ∧ t.colls = [] ∧
       ∀ p ∈ i.parts, done t p (getCore s p.core)) ∧
     (∀ count, i.kind < 4 → due → inLaunch → i.parts ≠ [] → (∀ p ∈ i.parts, (partDesc p).count = count) →
       let xs := i.parts.map fun p => read p (partDesc p).inb.off count
       let tree := ((treeResult (reduceNode i.elem i.rop) (xs.map lanesOfBytes)).flatMap fun w => leBytes 4 w.toNat).take count
       let result := if i.kind = 2 then xs.headD [] else if i.kind = 3 then xs.flatten else tree
       ∃ t, exec (.collCompletion i.id) s = .next t ∧ t.colls = [] ∧ ∀ k p, i.parts[k]? = some p →
         done t p (writes p (partDesc p).outb.off (if i.kind = 1 ∧ k ≠ 0 then [] else result))) ∧
     (i.kind = 4 → due → inLaunch →
       let sends (e : CollPart × Nat) : List SentRow := partSends s e.1 e.2 i.parts.length
         (read e.1 (partDesc e.1).inb.off ((partDesc e.1).nrows * (partDesc e.1).rb))
       let sent := i.parts.zipIdx.flatMap sends
       let bin (p : CollPart) : Bin := getBin (getCore s p.core).regs.bins (partDesc p).rbin
       let rows (q : Nat) : List SentRow := sent.filter fun r => decide (r.dst = some q)
       let capOf (q : Nat) : Nat := ((i.parts[q]?).map fun p => (bin p).cap).getD 0
       let kept (q : Nat) : List SentRow := (rows q).take (capOf q)
       let lost (q : Nat) : List SentRow := (rows q).drop (capOf q)
       let slot (q j : Nat) (r : SentRow) (p : CollPart) : Nat :=
         ((i.parts.zipIdx.take q).flatMap sends ++ (sends (p, q)).take j).countP fun x => decide (x.dst = r.dst)
       let goes (q : Nat) (p : CollPart) : Prop := (bin p).rule = 0 ∨ lost q = []
       (∀ p ∈ i.parts, (partDesc p).rb ≠ 0 ∧ (bin p).rb ≠ 0) →
       (∃ t, exec (.collCompletion i.id) s = .next t ∧ t.colls = [] ∧ ∀ q p, i.parts[q]? = some p →
         (∀ j r, (sends (p, q))[j]? = some r → Stored (getCore t p.core) s.cyc .coll ((partDesc p).metaIn + 16 * j)
           (match r.dst with
             | none => setRecord r.record 0xFFFF q true
             | some x =>
               if slot q j r p < capOf x then setRecord r.record (slot q j r p) q false else setRecord r.record 0xFFFF q true)) ∧
         (goes q p →
           getBin (getCore t p.core).regs.bins (partDesc p).rbin = { bin p with
             fill := (kept q).length
             drop := if (bin p).rule = 0 then min (2 ^ 32 - 1) ((bin p).drop + (lost q).length) else (bin p).drop } ∧
           (∀ k r, (kept q)[k]? = some r →
             Stored (getCore t p.core) s.cyc .coll ((bin p).base + k * (bin p).rb) (r.bytes.take (bin p).rb)) ∧
           (rows q ≠ [] → Stored (getCore t p.core) s.cyc .coll (partDesc p).metaOut
             ((((kept q).zipIdx.map fun e => setRecord e.1.record e.2 e.1.src false) ++
               (lost q).map fun r => setRecord r.record 0xFFFF r.src true).take 8192).flatten) ∧
           (getCore t p.core).binQ = (getCore s p.core).binQ.filter fun b => decide (b.id ≠ p.binId) ∧
           (getCore t p.core).posts = (post (getCore s p.core) s.cyc 4 (some (if 8192 < (rows q).length then 4 else 0)) .coll
             (if (partDesc p).bv then some ⟨p.core, (partDesc p).bar⟩ else none) 64 (decide (8192 < (rows q).length))).posts)) ∧
       ∀ q p, i.parts[q]? = some p → ¬goes q p → (∀ x y, i.parts[x]? = some y → x ≠ q → goes x y) →
         RunsClean { s with turn := { s.turn with core := p.core } } n → ∃ t, exec (.collCompletion i.id) s = .next t ∧
           (trapOf t n).map (fun z => (z.cause, z.cyc, z.core, z.party)) = some (0x40, s.cyc, some p.core, 8)) ∧
     (∀ ret : Nat → Nat → List Byte, i.kind = 5 → due → inLaunch →
       let record (p : CollPart) (j : Nat) : List Byte := read p ((partDesc p).metaIn + 16 * j) 16
       let dropped (p : CollPart) (j : Nat) : Prop := leField (record p j) 12 1 % 2 = 1
       (∀ k p j, i.parts[k]? = some p → j < (partDesc p).nrows → ¬dropped p j →
         ∃ q, (partDests s p i.parts.length)[j]? = some (some q) ∧
           ((returnedRows s i).filter fun b => decide (b.2.1 = record p j)) = [(q, record p j, ret k j)]) →
       ∃ t, exec (.collCompletion i.id) s = .next t ∧ t.colls = [] ∧ ∀ k p, i.parts[k]? = some p → ∀ out : List Byte,
         (out = (List.range (partDesc p).nrows).flatMap fun j =>
           if leField (record p j) 12 1 % 2 = 1 then List.replicate (partDesc p).rb 0
           else (lanesOfBytes (sliceBytes (ret k j) 0 (partDesc p).rb)).flatMap fun x =>
             leBytes 4 (rne32 (mulF (dec32 (BitVec.ofNat 32 (leField (record p j) 8 4))) (dec32 x))).toNat) →
         done t p (writes p (partDesc p).outb.off out)) ∧
     (aborted → Answers (.collCompletion i.id) s s) ∧
     (aborted → i.launch = none → (∃ p ∈ i.parts, p.core = core) →
       RunsClean { s with turn := { s.turn with core := core } } n → ∃ t, exec (.collInstanceCancel i.id core) s = .next t ∧
         (trapOf t n).map (fun z => (z.cause, z.cyc, z.core, z.party)) = some (0x10, s.cyc, some core, 8)))

/-- R361 to R364: a COLL whose stamp is absent or due and whose descriptor and checks pass joins its core to its instance, with the
descriptor, the buffers' handles and the replica table it names, a combine with that of its all-to-all (R302), and advances the core's
count on its group and square; an a2a also keeps its table, empties its receive bin and holds the bin unit. -/
def Obligations.CollWordsComplete : Prop :=
  ∀ (s : State) (h : Hdr) (a : Reg) (rel : BitVec 1) (elem rop : BitVec 2) (stamp : Word32) (ws : List Word64) (low : Bool),
    s.turn.q = .c → ctlDescriptor s a 0 8 = .ok (ws, low) →
    NoHazard s (destHere s a :: [(collDesc ws).inb, (collDesc ws).outb].filterMap fun b => if b.mem then some (.h b.h) else none) [] →
    (stamp = 0xFFFFFFFF ∨
      ((if rel = 1 then ((runningOn s s.turn.core).map fun r => r.2.2.dentry).getD 0 else (collDesc ws).dbase) + stamp.toNat) % 2 ^ 32 =
        s.dtime % 2 ^ 32) →
    let p := s.turn.core
    let c := turnCore s
    let d := collDesc ws
    let stamped := decide (stamp ≠ 0xFFFFFFFF)
    let members := smGet [] (launchOf s p).squares d.square
    let lid := c.launch.getD 0
    let member := members.contains c.lidx && (decide (d.dgroup = 0) || decide ((getLaunch s lid).dgroup.1 = d.dgroup))
    let current := if stamped then (getWorld s c.world).curReplica else ((runningOn s p).map fun r => r.2.2.table).getD []
    let joins (i : Instr) (kind el ro : Nat) : Prop :=
      collChecks kind stamped d s = .ok () →
      let s1 : State := { warnHereIf (collMbz kind ws) warnMbz (warnHereIf low warnMod s) with ids := s.ids + 1 }
      let table := if kind = 5 then tableOf c d current else current
      let part : CollPart := ⟨p, lid, (members.findIdx? (· = c.lidx)).getD 0, s.cyc, d.bound, ws, bufHandle s d.inb, bufHandle s d.outb,
        s.ids, table, 0, []⟩
      let s2 := updCore s1 p fun c =>
        let c1 := bumpCollSeq c d.dgroup d.square
        if kind = 4 then
          { recordTable c1 d table with
            binQ := c1.binQ ++ [{ binCommand s 5 d.rbin 0 with id := s.ids, start := some s.cyc }],
            regs := { c1.regs with bins := setBin c1.regs.bins d.rbin { getBin c1.regs.bins d.rbin with fill := 0 } } }
        else c1
      let s3 := joinColl s2 part d (collSeqOf c d.dgroup d.square) kind el ro member
      exec i s = .next (issued 2 (if h.mbz then [warnMbz] else []) (settleColls (if stamped then resetSlip s3 else s3))
        (.on (s.cyc + 1) false))
    (elem.toNat < 2 → rop.toNat < 3 → joins (.collAllred h a rel elem rop stamp) 0 elem.toNat rop.toNat ∧
      joins (.collReduce h a rel elem rop stamp) 1 elem.toNat rop.toNat) ∧
    joins (.collBcast h a rel stamp) 2 0 0 ∧ joins (.collGather h a rel stamp) 3 0 0 ∧ joins (.collA2a h a rel stamp) 4 0 0 ∧
    joins (.collCombine h a rel stamp) 5 0 0 ∧ joins (.collSync h a rel stamp) 6 0 0

/-! ### The bin unit -/

/-- R148 to R161, Table 18.7: the bin unit starts its next command in order, once free, refusing with 0x43 what the descriptors do
not allow; a BINDEF then writes its descriptor with every piece of state at its reset value, a BINRST empties its bin and zeroes
its region, a BINPASS empties its tree, swaps the carries and counts a pass. R152, R154, R416: a running ROUTE whose turn it is
takes its selector from sq, or waits a cycle where there is none; with all its rows in it completes: the descriptors become what
its rows leave, CR 0x032 advances, its record and its barrier's arrival are posted. R161: a BINEND that finds rows in the active carry
raises 0x42 with FINAL = 0, and with FINAL = 1 lifts them in slot order into the outer tree's active carry, tagged with LIFT and its level,
as far as there is room; past that the outer carry's rule drops and counts them or raises 0x41, as does an outer root without carries;
then the inner carry is empty. The model's choices: a command of d cycles from s ends in s + d − 1 (log 72); BINRST's zeros and the
lifted rows are written in that cycle (log 89); that a ROUTE's writes are seen from it is the model's reading (log 84). -/
def Obligations.BinUnitSteps : Prop :=
  (∀ (s : State) (p n st : Nat) (b : BinCmd) (bs : List BinCmd), (getCore s p).binQ = b :: bs →
     let c := getCore s p
     let d := getBin c.regs.bins b.bin
     let takes := if b.op = 1 then (d.cap * d.rb + 4095) / 4096
       else if b.op = 3 then (if binLifts c.regs.bins d then 4 + (getBin c.regs.bins d.activeCarry).cap * d.entries else 2)
       else if b.op = 4 then 4 + b.n * d.entries else 2
     let ended (v : SMap Bin) : Core :=
       countCommand { c with binQ := bs, binFree := s.cyc + 1, binPrev := some (c.binPrev.getD c.regs.bins),
                             regs := { c.regs with bins := v } } s.cyc 2 .bin
     (b.start = none → b.issued ≤ s.cyc → c.binFree ≤ s.cyc →
       (binStartBad c.regs.bins b = false → CoreBecomes (.binCommandStart p) s p
         { c with binQ := { b with start := some s.cyc, finish := s.cyc + takes - 1 } :: bs }) ∧
       (binStartBad c.regs.bins b = true → RunsClean { s with turn := { s.turn with core := p } } n →
         ∃ t, exec (.binCommandStart p) s = .next t ∧
           (trapOf t n).map (fun z => (z.cause, z.cyc, z.core, z.party)) = some (0x43, s.cyc, some p, 6))) ∧
     (b.start = some st → b.finish ≤ s.cyc →
       (b.op = 0 → CoreBecomes (.binCommandCompletion p) s p
         (warnIf (decide (b.word ≠ 0) && decide ((b.word.extractLsb' 45 2).toNat = 3)) warnBrule
           (ended (setBin c.regs.bins b.bin (bindefBin c.regs.bins b.word))))) ∧
       (b.op = 1 → ∃ t, exec (.binCommandCompletion p) s = .next t ∧
         (getBin (getCore t p).regs.bins b.bin).fill = 0 ∧ (getCore t p).posts = (countCommand c s.cyc 2 .bin).posts ∧
         (∀ x, (∀ w ∈ c.recent, w.cyc ≤ s.cyc ∧ (w.cyc = s.cyc → w.lidx ≤ c.lidx)) → d.base ≤ x → x < d.base + d.cap * d.rb →
           spadNow (getCore t p) s.cyc x 1 = [0])) ∧
       (b.op = 2 → CoreBecomes (.binCommandCompletion p) s p (ended (binpassBins c.regs.bins b.bin))) ∧
       (b.op = 3 → d.hasCarry = false ∨ (getBin c.regs.bins d.activeCarry).fill = 0 →
         CoreBecomes (.binCommandCompletion p) s p (ended c.regs.bins)))) ∧
  (∀ (s : State) (p st : Nat) (b : BinCmd) (bs : List BinCmd) (v : Lanes), (getCore s p).binQ = b :: bs → b.op = 4 → b.start = some st →
     let c := getCore s p
     let e := (getBin c.regs.bins b.bin).entries
     routeNext c.regs.bins b ≤ s.cyc →
     (b.carry = false → b.sel = none → b.n ≠ 0 → c.takers.head? = some b.id → headOf c.sq s.cyc = some v →
       CoreBecomes (.routeCompletion p) s p { c with sq := popQ c.sq s.cyc, binQ := { b with sel := some v } :: bs }) ∧
     (b.carry = false → b.sel = none → headOf c.sq s.cyc = none →
       CoreBecomes (.routeCompletion p) s p { c with binQ := { b with wait := b.wait + 1 } :: bs }) ∧
     (b.carry = false → b.sel ≠ none → b.n * e ≤ b.rows.length →
       let run := routeRows c.regs.bins b b.n
       run.stop = none → ∃ t v, exec (.routeCompletion p) s = .next t ∧ (∀ x, getBin v x = getBin run.bins x) ∧
         Completes s t p .bin b.id 2 0 b.barrier (b.n * (getBin run.bins b.bin).rb) false
           (warnIf run.bcnt warnBcnt
             { c with binQ := bs, binFree := s.cyc + 1, binPrev := some (c.binPrev.getD c.regs.bins),
                      regs := { c.regs with bins := v } }))) ∧
  (∀ (s : State) (p n st : Nat) (b : BinCmd) (bs : List BinCmd), (getCore s p).binQ = b :: bs → b.op = 3 → b.start = some st →
     b.finish ≤ s.cyc →
     let c := getCore s p
     let bin (x : Nat) : Bin := getBin c.regs.bins x
     let d := bin b.bin
     let a := bin d.activeCarry
     let outer := ((chainOf c.regs.bins d.lift).getLast?).getD 15
     let oc := (bin outer).activeCarry
     let o := bin oc
     let room := min a.fill (o.cap - o.fill)
     let lost := a.fill - room
     let put (c1 : Core) (k : Nat) : Core :=
       spadWrite c1 ⟨s.cyc, p, c.lidx, .bin, o.base + (o.fill + k) * o.rb, spadRead c1 p .bin s.cyc (a.base + k * a.rb) a.rb, b.id, 0, []⟩
     let taken : Bin := { o with
       fill := o.fill + room
       tags := (List.range room).foldl
         (fun m k => smSet 0 m (o.fill + k) (BitVec.ofNat 8 (binLevel c.regs.bins d.lift * 16 + d.lift))) o.tags
       drop := if o.drop < 2 ^ 32 - 1 then min (2 ^ 32 - 1) (o.drop + lost) else o.drop }
     let stops (cause : Nat) (detail : List Nat) : Prop := RunsClean { s with turn := { s.turn with core := p } } n →
       ∃ t, exec (.binCommandCompletion p) s = .next t ∧
         (trapOf t n).map (fun z => (z.cause, z.cyc, z.core, z.party, z.detail)) = some (cause, s.cyc, some p, 6, detail)
     d.hasCarry = true → a.fill ≠ 0 →
     (d.final = false → stops 0x42 [b.bin, d.activeCarry, d.pass, a.fill]) ∧
     (d.final = true → (bin outer).hasCarry = false → stops 0x41 [b.bin, 15, 0]) ∧
     (d.final = true → (bin outer).hasCarry = true →
       (lost ≠ 0 → o.rule ≠ 0 → stops 0x41 [b.bin, oc, room]) ∧
       (lost = 0 ∨ o.rule = 0 → ∃ v,
         (∀ x, getBin v x =
           let y := if x = oc then taken else bin x
           if x = d.activeCarry then { y with fill := 0 } else y) ∧
         CoreBecomes (.binCommandCompletion p) s p
           (let w := warnIf (decide (lost ≠ 0) && decide (2 ^ 32 - 1 < o.drop + lost)) warnBcnt ((List.range room).foldl put c)
            countCommand { w with binQ := bs, binFree := s.cyc + 1, binPrev := some (w.binPrev.getD w.regs.bins),
                                  regs := { w.regs with bins := v } } s.cyc 2 .bin))))

/-- R154, R155: where a row of a ROUTE goes, whose path is the bins from the root down to its leaf, from its resume level on: with no
bin of the path full, to the next slot of each, and each bin's FILL advances; else to those above the first full one, which decides
by its rule: it counts the row dropped; or it counts it deferred, and the row goes to the next slot of the root's active carry,
tagged with its leaf and the deciding level (a root without carries, or a full carry that does not drop, stops the command with 0x41,
a full carry that drops counts the row); or it stops the command with 0x40 and that bin. A selector's row starts at the root; a carry's
row at its tag's level, where the tag still names a bin of the tree. A leaf of 15 goes nowhere. The trees are sound, which R148's
BINDEF keeps. -/
def Obligations.RouteRowPlacement : Prop :=
  (∀ (r : RouteRun) (b : BinCmd) (k : Nat), r.stop = none → BinTrees r.bins →
    let row := routeRow b r k
    let nowhere (bpath : Bool) : Prop := row.bins = r.bins ∧ row.at_ = [] ∧ row.bpath = bpath
    let more (n : Nat) : Nat := if n < 2 ^ 32 - 1 then n + 1 else n
    let placed (leaf res : Nat) : Prop :=
      let path := (chainOf r.bins leaf).reverse.drop res
      let bin (x : Nat) : Bin := getBin r.bins x
      let slot (x : Nat) : Nat := (bin x).base + (bin x).fill * (bin x).rb
      let filled (xs : List Nat) (x : Nat) : Bin := if x ∈ xs then { bin x with fill := (bin x).fill + 1 } else bin x
      let leaves (at_ : List Nat) (stop : Option (Nat × Nat × Nat)) (bins : Nat → Bin) : Prop :=
        row.at_ = at_ ∧ row.stop = stop ∧ ∀ x, getBin row.bins x = bins x
      ((∀ x ∈ path, (bin x).fill ≠ (bin x).cap) → leaves (path.map slot) none (filled path)) ∧
      ∀ pre d post, path = pre ++ d :: post → (∀ x ∈ pre, (bin x).fill ≠ (bin x).cap) → (bin d).fill = (bin d).cap →
        let a := (bin b.bin).activeCarry
        let deferred (x : Nat) : Bin := if x = d then { bin d with defer := more (bin d).defer } else filled pre x
        ((bin d).rule = 0 →
          leaves (pre.map slot) none fun x => if x = d then { bin d with drop := more (bin d).drop } else filled pre x) ∧
        (2 ≤ (bin d).rule → leaves (pre.map slot) (some (0x40, d, k)) (filled pre)) ∧
        ((bin d).rule = 1 →
          ((bin b.bin).hasCarry = false → leaves (pre.map slot) (some (0x41, 15, k)) deferred) ∧
          ((bin b.bin).hasCarry = true →
            ((bin a).fill < (bin a).cap → leaves (pre.map slot ++ [slot a]) none fun x =>
              if x = a then { bin a with
                fill := (bin a).fill + 1
                tags := smSet 0 (bin a).tags (bin a).fill (BitVec.ofNat 8 ((res + pre.length) * 16 + leaf)) }
              else deferred x) ∧
            ((bin a).cap ≤ (bin a).fill → (bin a).rule = 0 → leaves (pre.map slot) none fun x =>
              if x = a then { bin a with drop := more (bin a).drop } else deferred x) ∧
            ((bin a).cap ≤ (bin a).fill → (bin a).rule ≠ 0 → leaves (pre.map slot) (some (0x41, a, k)) deferred)))
    (b.carry = false →
      let leaf := (laneAt (b.sel.getD []) k).toNat % 16
      (leaf = 15 → nowhere r.bpath) ∧
      (leaf ≠ 15 → inTree r.bins b.bin leaf = false → nowhere true) ∧
      (leaf ≠ 15 → inTree r.bins b.bin leaf = true → placed leaf 0)) ∧
    (b.carry = true →
      let root := getBin r.bins b.bin
      let rc := getBin r.bins root.readCarry
      let tag := (smGet 0 rc.tags (root.cur + k)).toNat
      let leaf := tag % 16
      let res := tag / 16 % 4
      let live := inTree r.bins b.bin leaf = true ∧ res ≤ binLevel r.bins leaf
      (rc.fill ≤ root.cur + k → nowhere r.bpath) ∧
      (root.cur + k < rc.fill → ¬live → nowhere true) ∧
      (root.cur + k < rc.fill → live → placed leaf res))) ∧
  ∀ (bs : SMap Bin) (n : Nat) (w : Word64), n < 16 → BinTrees bs → bindefBad bs n w = false → BinTrees (setBin bs n (bindefBin bs w))

/-! ### Patterns -/

/-- R192 to R196, R408: each pattern word of a program that has neither ended nor faulted does what its rule gives, on the registers
it names; after the end or a fault a word does nothing. R194, R195: a hash row holds distinct columns, below the column count,
as many as asked for; a row in ascending order holds the same columns, each once. That a PDIL before its register's PDIM completes, and that
the first check to fail decides, are the model's choices (log 32). So is that PBAND, PBLK and PHASH complete on a register whose
dimensions a PKRON gave, without a PDIM of its own, where Table 7.9 faults a register with no PDIM (log 113). -/
def Obligations.PatternWordsComplete : Prop :=
  (∀ (s : State) (g a b : BitVec 3) (pr pc : BitVec 4) (o x : BitVec 1) (w : BitVec 11) (d : BitVec 6) (r : BitVec 10)
     (m n m2 n2 : Nat) (rows : List (List Nat)),
     let c := turnCore s
     let t := c.regs.trellis
     let y := getG t g.toNat
     let makes (i : Instr) (t' : Trellis) : Prop := Leaves i s { c with regs := { c.regs with trellis := t' } }
     (t.run.ended = false → t.run.cause = none →
       (pr.toNat ≤ 11 → pc.toNat ≤ 11 →
         makes (.pdim g pr pc o) (setG t g.toNat ⟨some (2 ^ pr.toNat, 2 ^ pc.toNat), o.toNat, 1, 0, none⟩)) ∧
       (12 ≤ pr.toNat → makes (.pdim g pr pc o) { t with run := { t.run with cause := some 0x62 } }) ∧
       (1 ≤ d.toNat → (∀ p, y.dims = some p → w.toNat < p.2) →
         makes (.pdil g w d) (setG t g.toNat { y with step := d.toNat, off := w.toNat })) ∧
       (y.dims = some (m, n) → 1 ≤ w.toNat → w.toNat ≤ n →
         let cols (r : Nat) : List Nat :=
           let all := (List.range w.toNat).map fun k => r * n / m + y.off + y.step * k
           if x = 1 then all.map (· % n) else all.filter fun c => decide (c < n)
         ((List.range m).all fun r => noRepeats (cols r)) = true →
           makes (.pband g w x) (setG t g.toNat { y with pat := some ((List.range m).map cols) })) ∧
       (y.dims = some (m, n) → 1 ≤ w.toNat → m % w.toNat = 0 → w.toNat * n % m = 0 →
         makes (.pblk g w) (setG t g.toNat { y with pat := some ((List.range m).map fun r =>
           (List.range (w.toNat * n / m)).map fun i => r / w.toNat * (w.toNat * n / m) + i) })) ∧
       (y.dims = some (m, n) → 1 ≤ w.toNat → w.toNat ≤ n → hashRows d.toNat n w.toNat (List.range m) = some rows →
         makes (.phash g w d) (setG t g.toNat { y with pat := some rows })) ∧
       (let ga := getG t a.toNat
        let gb := getG t b.toNat
        ga.pat ≠ none → gb.pat ≠ none → ga.dims = some (m, n) → gb.dims = some (m2, n2) →
         (m * m2 ≤ 2048 → n * n2 ≤ 2048 → makes (.pkron g a b) (setG t g.toNat { y with
             dims := some (m * m2, n * n2), order := ga.order
             pat := some ((enumRows ga).flatMap fun ra => (enumRows gb).map fun rb => ra.flatMap fun ca => rb.map fun cb => ca * n2 + cb) })) ∧
         (2048 < m * m2 → makes (.pkron g a b) { t with run := { t.run with cause := some 0x61 } })) ∧
       (1 ≤ r.toNat → r.toNat ≤ 512 → y.pat ≠ none → (∀ row ∈ enumRows y, row.length ≤ r.toNat) →
         makes (.pemit g r) { t with run := { t.run with
           emitted := some (g.toNat, r.toNat), rows := enumRows y, dims := y.dims.getD (0, 0), inv := none } }) ∧
       (t.run.emitted = some (g.toNat, m) →
         let inv := transposeRows t.run.rows t.run.dims.2 m
         ((∀ c ∈ inv, c.length = (inv.headD []).length) → makes (.pinv g) { t with run := { t.run with inv := some inv } }) ∧
         ((∃ c ∈ inv, c.length ≠ (inv.headD []).length) → makes (.pinv g) { t with run := { t.run with cause := some 0x60 } })) ∧
       (g = 0 → t.run.emitted ≠ none → makes (.pend g) { t with run := { t.run with ended := true } }) ∧
       (t.run.emitted = none → makes (.pend g) { t with run := { t.run with cause := some 0x62 } })) ∧
     (t.run.ended = true ∨ t.run.cause ≠ none →
       makes (.pdim g pr pc o) t ∧ makes (.pband g w x) t ∧ makes (.pemit g r) t ∧ makes (.pend g) t)) ∧
  (∀ (seed r pc h n : Nat) (row l : List Nat), 0 < pc →
     (hashRow seed r pc h n 0 [] = some row → row.length = h ∧ row.Nodup ∧ ∀ c ∈ row, c < pc) ∧
     (orderRow 0 l).Pairwise (· < ·) ∧ (∀ x, x ∈ orderRow 0 l ↔ x ∈ l))

/-! ### Channels -/

/-- R126, R130 to R135, R141, R376, R377, R455: each channel word whose bank and gaps allow it issues with its effect and its program moves
on. A DIND asks that every bank be Closed, and checks no gap: the model's reading (log 57, DEDUCED). -/
def Obligations.ChannelWordsComplete : Prop :=
  ∀ (s : State) (run : ChanRun) (dl : BitVec 10) (bank col : BitVec 4) (row rep : BitVec 16) (core : BitVec 9) (slot : BitVec 3)
    (lenw : BitVec 11) (x : SlotLine) (e : BinEntry) (es : List BinEntry) (die : Nat),
    let ch := s.turn.chan
    let c := getChan s ch
    let b := bank.toNat
    let p := (getLaunch s run.launch).cores.getD core.toNat 0
    let addr := row.toNat * 2 ^ 23 + b * 2 ^ 19 + ch * 2 ^ 10 + col.toNat * 64
    c.run = some run →
    (getBank c b = .closed → gapsOk c kDact b s.cyc = true →
      ChanIssues (.dact dl bank row) s (note (setBank c b (.opened row.toNat)) kDact b s.cyc)) ∧
    (isRefreshing c b = false → (isOpen c b = true → gapsOk c kDpre b s.cyc = true) →
      ChanIssues (.dpre dl bank) s (if isOpen c b then note (setBank c b .closed) kDpre b s.cyc else c)) ∧
    ((∀ k, k < 16 → isRefreshing c k = false ∧ (isOpen c k = true → gapsOk c kDpre k s.cyc = true)) →
      ChanIssues (.dpreAll dl) s ((List.range 16).foldl (precharge s.cyc) c)) ∧
    (getBank c b = .opened row.toNat → gapsOk c kDrd b s.cyc = true → landCount s p slot.toNat < 64 →
      ChanIssues (.drd dl bank row col core slot) s (note { c with flight := c.flight ++
        [⟨s.cyc + 22, p, slot.toNat, readLine s addr (s.cyc + 22), run.launch, chanIndex run, s.cyc⟩] } kDrd b s.cyc)) ∧
    (getBank c b = .opened row.toNat → gapsOk c kDwr b s.cyc = true → outHead (getCore s p) slot.toNat s.cyc = some x → x.addr = addr →
      ∃ t, exec (.dwr dl bank row col core slot) s = .next t ∧ getCore t p = popOut (getCore s p) slot.toNat s.cyc ∧
        getChan t ch = chanAdvance (note { c with writes := c.writes ++ [(s.cyc + 8, addr, x.line)] } kDwr b s.cyc) s.cyc) ∧
    (allClosed c = true → gapsOk c kDref 0 s.cyc = true → ChanIssues (.dref dl) s (refreshAll c s.cyc)) ∧
    (getBank c b = .closed → gapsOk c kDrefPb b s.cyc = true → ChanIssues (.drefPb dl bank) s
      (note { setBank c b (.refreshing (s.cyc + 224)) with lastRef := smSet 0 c.lastRef b s.cyc } kDrefPb b s.cyc)) ∧
    ChanIssues (.dnop dl) s c ∧
    (allClosed c = true → ChanBecomes (.dnopEnd dl) s ch { c with run := none }) ∧
    (allClosed c = true → slot ≠ 0 → c.bin1 = e :: es → s.ports = [] →
      ChanIssues (.dind dl slot) s { note (note (note c kDact (bankOf e.addr) s.cyc) (if e.write then kDwr else kDrd) (bankOf e.addr)
        (s.cyc + 12)) kDpre (bankOf e.addr) (s.cyc + 27) with bin1 := es, windows := c.windows ++ [⟨s.cyc, e, none, false⟩] }) ∧
    (allClosed c = true → slot = 0 → bin0Die s ch = some die → binSection s ch die = e :: es →
      ChanIssues (.dind dl slot) s { note (note (note c kDact (bankOf e.addr) s.cyc) (if e.write then kDwr else kDrd) (bankOf e.addr)
        (s.cyc + 12)) kDpre (bankOf e.addr) (s.cyc + 27) with
          bin0 := smSet [] c.bin0 die es, windows := c.windows ++ [⟨s.cyc, e, none, false⟩] }) ∧
    (allClosed c = true → (if slot = 0 then bin0Die s ch = none else c.bin1 = []) → ChanIssues (.dind dl slot) s c) ∧
    ChanIssues (.dloop lenw rep) s { c with run := some { run with loop := some (run.pc + 1, lenw.toNat, rep.toNat) } }

/-- R134, R131, R377, Table 5.5: a channel command whose bank is not in the state it needs ends the segment with 0x52, one inside a gap,
DACT, DPRE, DPRE.all, DRD, DWR, DREF and DREF.pb alike, or a fifth activation within 16 cycles, with 0x50, a DRD to a full landing slot and
a DWR without a line with 0x10, a DWR whose line is of another address with 0x21; among the gaps, in cycles: 12 from a DACT to its bank's
DRD, 27 to its DPRE, 39 to its next DACT, 12 from a DPRE to its bank's DACT, 16 between reads and writes, 280 from a DREF. The order of
the words of DETAIL, channel, word and cycle, is the model's choice (log 44). -/
def Obligations.ChannelTimingTraps : Prop :=
  (∀ b, b < 16 → gapBetween kDact kDrd b b = 12 ∧ gapBetween kDact kDwr b b = 12 ∧ gapBetween kDact kDpre b b = 27 ∧
    gapBetween kDact kDact b b = 39 ∧ gapBetween kDpre kDact b b = 12 ∧ gapBetween kDrefPb kDact b b = 224 ∧
    ∀ k, k < 16 → gapBetween kDwr kDrd b k = 16 ∧ gapBetween kDrd kDwr b k = 16 ∧ gapBetween kDref kDact 0 k = 280 ∧
      (b ≠ k → gapBetween kDact kDact b k = if b / 4 = k / 4 then 3 else 2) ∧
      gapBetween kDrd kDrd b k = if b / 4 = k / 4 then 2 else 1) ∧
  ∀ (s : State) (n : Nat) (dl : BitVec 10) (bank col : BitVec 4) (row : BitVec 16) (core : BitVec 9) (slot : BitVec 3) (f : DramCmd),
    let ch := s.turn.chan
    let c := getChan s ch
    let b := bank.toNat
    ChanRunsClean s ch n →
    let inside (kind k : Nat) : Prop := f ∈ c.recent ∧ s.cyc < f.cyc + gapBetween f.kind kind f.bank k
    let fifth := 4 ≤ (c.recent.filter fun r => (r.kind = kDact || r.kind = kDrefPb) && decide (s.cyc < r.cyc + 16)).length
    (getBank c b ≠ .closed → ChanTraps (.dact dl bank row) s ch n 0x52 ∧ ChanTraps (.drefPb dl bank) s ch n 0x52) ∧
    (isRefreshing c b = true → ChanTraps (.dpre dl bank) s ch n 0x52 ∧ ChanTraps (.dpreAll dl) s ch n 0x52) ∧
    (getBank c b = .closed → inside kDact b ∨ fifth → ChanTraps (.dact dl bank row) s ch n 0x50) ∧
    (getBank c b = .closed → inside kDrefPb b ∨ fifth → ChanTraps (.drefPb dl bank) s ch n 0x50) ∧
    (isOpen c b = true → inside kDpre b → ChanTraps (.dpre dl bank) s ch n 0x50 ∧
      ((∀ k, k < 16 → isRefreshing c k = false) → ChanTraps (.dpreAll dl) s ch n 0x50)) ∧
    (getBank c b = .opened row.toNat → inside kDrd b → ChanTraps (.drd dl bank row col core slot) s ch n 0x50) ∧
    (getBank c b = .opened row.toNat → inside kDwr b → ChanTraps (.dwr dl bank row col core slot) s ch n 0x50) ∧
    (allClosed c = true → inside kDref 0 → ChanTraps (.dref dl) s ch n 0x50) ∧
    (getBank c b ≠ .opened row.toNat → ChanTraps (.drd dl bank row col core slot) s ch n 0x52 ∧
      ChanTraps (.dwr dl bank row col core slot) s ch n 0x52) ∧
    (allClosed c = false → ChanTraps (.dref dl) s ch n 0x52 ∧ ChanTraps (.dnopEnd dl) s ch n 0x52 ∧ ChanTraps (.dind dl slot) s ch n 0x52) ∧
    (∀ run, c.run = some run → getBank c b = .opened row.toNat → gapsOk c kDrd b s.cyc = true →
      64 ≤ landCount s ((getLaunch s run.launch).cores.getD core.toNat 0) slot.toNat → ChanTraps (.drd dl bank row col core slot) s ch n 0x10) ∧
    (∀ run, c.run = some run → getBank c b = .opened row.toNat → gapsOk c kDwr b s.cyc = true →
      let head := outHead (getCore s ((getLaunch s run.launch).cores.getD core.toNat 0)) slot.toNat s.cyc
      let addr := row.toNat * 2 ^ 23 + b * 2 ^ 19 + ch * 2 ^ 10 + col.toNat * 64
      (head = none → ChanTraps (.dwr dl bank row col core slot) s ch n 0x10) ∧
      ∀ x, head = some x → x.addr ≠ addr → ∃ t, exec (.dwr dl bank row col core slot) s = .next t ∧ (getChan t ch).run = none ∧
        trapOf t n = some ⟨0x21, s.cyc, ch, 9, true, none, addr, x.addr, [ch, chanIndex run, s.cyc], 0⟩ ∧ t.cores = s.cores)

/-- R130, R134, R136 to R142, R118, R145: a DRD's line lands in its slot at its cycle, a sealed one bound for slots 0 to 6 ends the
segment with 0x30 and its launch's program on the channel; a refresh ends with its bank Closed; a bank whose refresh a program has
let come due ends it with 0x51; the seal ends a program still running, and its segment with 0x13 (R127); an idle channel closes its banks,
refreshes them and serves its remote bin; a lead-in refreshes every bank. R142: a window of a DIND or of an idle channel reads its line
12 cycles after its start and delivers it at 34, to the local row of a ROWG's entry (24 cycles later still where it is CONF: log 94) or to
the port that asked; a write window takes its line from the entry, a ROWS row's or a port's, stored 8 cycles after; a port's write is
answered then (log 95). R136: an all-bank refresh leaves every bank Refreshing for 280
cycles, its LASTREF at its cycle, and nothing else but the command noted. The model's choices: the order of the words of DETAIL (log 44),
what the record of 0x51 names (log 96), the party of 0x13 (log 43), when an idle channel refreshes (log 38), and that a lead-in always
does (log 56). -/
def Obligations.ChannelEvents : Prop :=
  (∀ (s : State) (ch b n k : Nat) (f : ChanFlight) (fs : List ChanFlight) (e : BinEntry) (es : List BinEntry) (w : Window),
     let c := getChan s ch
     (c.flight = f :: fs → f.due ≤ s.cyc → f.line.line.ot.getLsbD 6 = false ∨ f.slot = 7 → ∃ t, exec (.drdLineLanding ch) s = .next t ∧
       (getChan t ch).flight = fs ∧ landSlot (getCore t f.core) f.slot = landSlot (getCore s f.core) f.slot ++ [{ f.line with cyc := s.cyc }]) ∧
     (c.flight = f :: fs → f.due ≤ s.cyc → f.line.line.ot.getLsbD 6 = true → f.slot ≠ 7 → f.launch = n →
       (∃ r, (getLaunch s n).run = some r ∧ r.trap = none) → ∃ t, exec (.drdLineLanding ch) s = .next t ∧ t.cores = s.cores ∧
         trapOf t n = some ⟨0x30, s.cyc, ch, 9, true, none, f.line.addr, f.line.addr, [ch, f.word, f.issued], 0⟩ ∧
         (getChan t ch).flight = fs ∧ ∀ run, (getChan t ch).run = some run → run.launch ≠ n) ∧
     (getBank c b = .refreshing k → k ≤ s.cyc → ChanBecomes (.refreshComplete ch b) s ch (setBank c b .closed)) ∧
     (ChanRunsClean s ch n → getRef c b + 3120 ≤ s.cyc → ChanTraps (.refreshDeadlineMissed ch b) s ch n 0x51) ∧
     (∀ run, c.run = some run → inGap s = true →
       (¬LaunchClean s run.launch → ChanBecomes (.idleChannelRefresh ch) s ch { c with run := none }) ∧
       (LaunchClean s run.launch → ∃ t, exec (.idleChannelRefresh ch) s = .next t ∧ getChan t ch = { c with run := none } ∧
         t.cores = s.cores ∧ trapOf t run.launch = some ⟨0x13, s.cyc, managerIdx, 0, true, none, 0, 0, [], 0⟩)) ∧
     (c.run = none → closable (inGap s) c s.cyc = some b → ChanBecomes (.idleChannelRefresh ch) s ch (note (setBank c b .closed) kDpre b s.cyc)) ∧
     (c.run = none → closable (inGap s) c s.cyc = none → refreshWanted s c = true → refreshReady c s.cyc = true →
       ChanBecomes (.idleChannelRefresh ch) s ch (refreshAll c s.cyc)) ∧
     (remoteDue s c = true → c.bin1 = e :: es → s.ports = [] → ∃ t, exec (.idleRemoteWindow ch) s = .next t ∧
       (getChan t ch).bin1 = es ∧ (getChan t ch).windows = c.windows ++ [⟨s.cyc, e, none, false⟩]) ∧
     (leadInDue c s.cyc = true → ChanBecomes (.leadInRefresh ch) s ch (refreshAll c s.cyc)) ∧
     (c.windows = [w] → w.done = false → w.entry.write = false → w.line = none → w.start + 12 ≤ s.cyc →
       ChanBecomes (.dindLineDelivery ch) s ch { c with windows := [{ w with line := some (readLine s w.entry.addr s.cyc) }] })) ∧
  (∀ (s : State) (ch die cmd row line : Nat) (w : Window) (x : SlotLine) (r : RowCmd) (rs : List RowCmd) (q : RemoteReq)
     (v bits : BitVec 512) (corr : Bool),
     let c := getChan s ch
     let served := setChan s ch { c with windows := [{ w with done := true }] }
     let conf := hConf (r.handle.getD 0)
     let world := (getCore s r.core).world
     let runs := getRows s die = r :: rs ∧ r.id = cmd ∧ r.start ≠ none ∧ r.closed = false
     let answers (late : Nat) (bs : List Byte) (outbox : List Reply) : List Reply :=
       outbox ++ [⟨0x14, q.target, late, [0#8] ++ leBytes 2 q.pkg ++ [BitVec.ofNat 8 q.world] ++ leBytes 8 q.tag ++ bs⟩]
     c.windows = [w] → w.done = false →
     (w.entry.write = false → w.line = some x → w.start + 34 ≤ s.cyc →
       (w.entry.who = .rowLine die cmd row line → runs → r.op = 0 → r.loc % 8 = 0 → r.rb % 64 = 0 → 64 * (line + 1) ≤ r.rb →
         x.line.ot.getLsbD 6 = false → (deliverLine served world conf false x).2 = some (v, false) →
         ∃ t y, exec (.dindLineDelivery ch) s = .next t ∧ getRows t die = y :: rs ∧ y.done = r.done ++ [(row, line)] ∧
           (getCore t r.core).recent = (spadWrite (getCore s r.core) ⟨min (r.finish + r.late) (s.cyc + if conf then 24 else 0), 512 + die,
             r.lidx, .row, r.loc + row * r.rb + 64 * line, lineBytes v, r.id, 0, []⟩).recent) ∧
       (w.entry.who = .port q → (portLine served q.target x).2 = .got v corr → ∃ t, exec (.dindLineDelivery ch) s = .next t ∧
         (getChan t ch).windows = [{ w with done := true }] ∧
         t.outbox = answers (s.cyc + if corr then 80 else 0) (lineBytes v) (portLine served q.target x).1.outbox)) ∧
     (w.entry.write = true → w.line = none → w.start + 12 ≤ s.cyc →
       let stores (t : State) (late : Nat) (l : Line) : Prop := exec (.dindLineDelivery ch) s = .next t ∧
         getChan t ch = { c with windows := [{ w with done := true }], writes := c.writes ++ [(s.cyc + 8 + late, w.entry.addr, l)] }
       (w.entry.who = .rowLine die cmd row line → runs → r.op = 1 → w.entry.line = some bits → r.done = [] →
         ∃ t y, stores t (if conf then 24 else 0) (lineSeal served world conf false w.entry.addr bits) ∧ getRows t die = y :: rs ∧
           y.done = [(row, line)]) ∧
       (w.entry.who = .port q → portInside s q.target w.entry.addr = true → (readLine s w.entry.addr s.cyc).line.ot.getLsbD 6 = false →
         q.wdata = some bits → ∃ t, stores t 0 (lineSeal served q.target false false w.entry.addr bits) ∧
           t.outbox = answers s.cyc [] s.outbox))) ∧
  (∀ (c : Channel) (cyc b : Nat), b < 16 →
     getBank (refreshAll c cyc) b = .refreshing (cyc + 280) ∧ getRef (refreshAll c cyc) b = cyc ∧
       refreshAll c cyc = { c with banks := (refreshAll c cyc).banks, lastRef := (refreshAll c cyc).lastRef,
                                   recent := c.recent ++ [⟨kDref, 0, cyc⟩] })

/-! ### Results landing -/

/-- R17, R18, R48, R50, R51, R265, R444, R453: a due result is landed in its destination, where register 0 and m0 ignore it, and only the
lanes and mask bits that were active change; of two results for one register that land in one stream cycle the later-issued one's value
remains, though the other come late (R50); a stream whose due result has not come back stalls (R204, R388), until it has: the model's
reading (log 77); a handle is written in its real cycle, or 0x23 raised and its register left; a due push fills the entry it claimed, of
sq or of xq. -/
def Obligations.LandingsComplete : Prop :=
  (∀ (s : State) (p : Nat) (q : Seq) (f g : Landing) (rest : List Landing) (x : XlateLanding) (u : PendingPush),
    let c := getCore s p
    (c.flight = f :: rest → f.q = q → landingDue c s.cyc f = true → f.awaits = none → f.real ≤ s.cyc →
      (∀ g ∈ rest, g.q = q → landingDue c s.cyc g = false) →
      CoreBecomes (.registerResultLanding p q) s p (landInto { c with flight := rest } f.dest f.val)) ∧
    (c.flight = [f, g] → f.q = q → g.q = q → f.dest = g.dest → f.due = g.due → landingDue c s.cyc f = true →
      (landingReady s.cyc f = true → landingReady s.cyc g = true →
        CoreBecomes (.registerResultLanding p q) s p (landInto (landInto { c with flight := [] } f.dest f.val) g.dest g.val)) ∧
      (landingReady s.cyc f = false → ∃ t, exec (.registerResultLanding p q) s = .next t ∧
        (getCore t p).flight = [f, g] ∧ (getCore t p).regs = c.regs)) ∧
    ((∃ g ∈ c.flight, g.q = q ∧ landingDue c s.cyc g = true) → (streamOf c q).ended = false →
      (∀ g ∈ c.flight, g.q = q → landingDue c s.cyc g = true → landingReady s.cyc g = false) →
      let st := streamOf c q
      ∃ g ∈ c.flight, g.q = q ∧ landingDue c s.cyc g = true ∧
        CoreBecomes (.registerResultLanding p q) s p (setStream c q { st with
          hold := max st.hold (s.cyc + 1), stalls := st.stalls + 1,
          stallRun := if st.stallAt + 1 = s.cyc ∧ st.stallLate = true then st.stallRun + 1 else 1,
          stallAt := s.cyc, stallLate := true, awaits := .result g.dest, slip := slipNext st.slip,
          base := if st.fixed then st.base else st.base + 1 })) ∧
    (c.xlate = [x] → x.due ≤ s.cyc → x.outside = false →
      CoreBecomes (.xlateLanding p) s p
        { c with xlate := [], regs := { c.regs with h := smSet 0 c.regs.h x.h x.val, hva := smSet 0 c.regs.hva x.h x.va.toNat } }) ∧
    (c.xlate = [x] → x.due ≤ s.cyc → x.outside = true → ∀ n, c.launch = some n → LaunchClean s n →
      ∃ t, exec (.xlateLanding p) s = .next t ∧ SameRegisters s t ∧
        trapOf t n = some ⟨0x23, s.cyc, c.lidx, partyNo (.seq .c), false, some p, x.va.toNat, x.va.toNat, [], 0⟩) ∧
    (c.pushes = [u] → u.due ≤ s.cyc →
      CoreBecomes (.vectorQueuePush p) s p
        (if u.toXq then { c with pushes := [], xq := fillQ c.xq u.tag u.word s.cyc }
         else { c with pushes := [], sq := fillQ c.sq u.tag u.lanes s.cyc }))) ∧
  ∀ (c : Core) (q r : Seq) (k j i : Nat) (w : Word64) (st : Bool) (l : Lanes) (a b : BitVec 128),
    (q ≠ .x → k ≠ 0 → readReg (landInto c (.reg q k) (.word w st)) q k = ⟨w, st⟩) ∧
    (r ≠ q ∨ j ≠ k → readReg (landInto c (.reg q k) (.word w st)) r j = readReg c r j) ∧
    landInto c (.reg q 0) (.word w st) = c ∧ landInto c (.m 0) (.bits b a) = c ∧
    (k ≠ 0 → i < 128 → (readMask (landInto c (.m k) (.bits b a)) k).getLsbD i =
      if a.getLsbD i then b.getLsbD i else (readMask c k).getLsbD i) ∧
    (i < 128 → laneAt (readVec (landInto c (.v k) (.lanes l a)) k) i = if a.getLsbD i then laneAt l i else laneAt (readVec c k) i) ∧
    (landInto c (.cr 0x022) (.word w st)).regs.warn = w &&& 0xFFFFF#64 ∧
    (landInto c (.cr 0x025) (.word w st)).regs.livev = w.setWidth 32

/-! ### Overruns, and the end of a trapped segment -/

/-- R44, R47, R112, R234: a stall that has reached the allowance ends with 0x11 of its sequencer, and the record names it, its issue
position and what it waits for; a command past its issue and bound with 0x11 of its unit, and the record names its place in its queue and
its barrier; a segment past its cost or into the edge gap with 0x13. R112 extends a bound by 80 cycles for each line corrected: a COPY's
as it counts them, a matrix word's as its line is taken. The model's choices: the order of the words of DETAIL (log 44), how a corrected
line lengthens its command (log 87), the party of 0x13 (log 43). -/
def Obligations.OverrunsTrap : Prop :=
  ∀ (s : State) (p n k : Nat) (q : Seq) (u : UnitId) (b : Option BarRef) (g : Segment) (r : SegRun),
    let c := getCore s p
    let l := getLaunch s n
    l.run = some r → r.trap = none → l.segs[r.seg]? = some g →
    (c.launch = some n → 0 < (streamOf c q).stallRun → g.slipa ≤ (streamOf c q).stallRun →
      ∃ t, exec (.slipAllowanceOverrun p q) s = .next t ∧ SameRegisters s t ∧ SameMemory s t ∧
        trapOf t n = some ⟨0x11, s.cyc, c.lidx, partyNo (.seq q), false, some p, 0, 0,
          partyNo (.seq q) :: (streamOf c q).pc :: (match (streamOf c q).awaits with
            | .pop queue n => [1, queue, n]
            | .push queue n => [2, queue, n]
            | .token i => [3, i, 0]
            | .tile i => [4, i, 0]
            | .barrier a => [5, a, 0]
            | other => awaitWords other), 0⟩) ∧
    (c.launch = some n → c.stopAt = none → overBound s p u = some (k, b) →
      ∃ t, exec (.commandBoundOverrun p u) s = .next t ∧ SameRegisters s t ∧ SameMemory s t ∧
        (getCore t p).stopAt = some (s.cyc + 1) ∧
        trapOf t n = some ⟨0x11, s.cyc, c.lidx, partyNo (unitParty u), false, some p, 0, 0,
          partyNo (unitParty u) :: k :: (match b with | some x => [1, (getCore s x.core).lidx, x.addr] | none => [0, 0, 0]), 0⟩) ∧
    ((∃ m ∈ c.copyQ, m.issued + m.bound + 80 * m.fixed ≤ s.cyc) → (overBound s p .copy).isSome = true) ∧
    ((∃ m ∈ c.matQ, m.issued + m.bound ≤ s.cyc) → (overBound s p .matrix).isSome = true) ∧
    ((∀ m ∈ c.copyQ, s.cyc < m.issued + m.bound + 80 * m.fixed) → overBound s p .copy = none) ∧
    ((∀ m ∈ c.matQ, s.cyc < m.issued + m.bound) → overBound s p .matrix = none) ∧
    (∀ (i : Nat) (m : MatCmd) (x : SlotLine) (v : BitVec 512) (corr : Bool), pipeDue c s.cyc = true → pipeWord c = some (i, m) →
      landHead c 7 s.cyc = some x →
      let h := if m.need.contains x.addr && !inOperand m x.addr then m.hSc else m.hOp
      (deliverLine (setCore s p (popLand c 7 s.cyc)) c.world (hConf h) (hSealed h) x).2 = some (v, corr) →
      ∃ t, exec (.matrixPipeLineTake p) s = .next t ∧
        (getCore t p).matQ[i]?.map (·.bound) = some (m.bound + if corr then 80 else 0)) ∧
    (r.gap ≤ s.cyc ∨ r.entry + g.cost ≤ s.cyc →
      ∃ t, exec (.frameOverrun n) s = .next t ∧ t.cores = s.cores ∧ SameMemory s t ∧
        trapOf t n = some ⟨0x13, s.cyc, managerIdx, 0, true, none, 0, 0, [], 0⟩) ∧
    (s.cyc < r.gap → s.cyc < r.entry + g.cost → exec (.frameOverrun n) s = .next s)

/-- R248 to R253, R106, R229: the raising core of a trap stops in the cycle after it, the others of its die 64 cycles after it, every
other core 192, with its commands abandoned and its counts recorded; the segment is replayed from its entry state for a restartable cause,
a missing translation installed first; any other cause, a page without a mapping and the seventeenth replay in a row end the launch. Every
register of the entry state comes back, the handles of translations revoked in the segment among them, since the revocation ends with the
segment (R109, R383): the model's reading (log 65), and so are the counts of the record (log 67). -/
def Obligations.TrapsEndSegments : Prop :=
  ∀ (s : State) (n p : Nat) (r : SegRun) (x : Trap) (v : Trans),
    let l := getLaunch s n
    let c := getCore s p
    let ends (flags : Nat) : Prop :=
      ∃ t, exec (.trapSegmentEnd n) s = .next t ∧ (getLaunch t n).phase = .ended x.cause ∧ (getLaunch t n).run = none ∧
        (dmaOpen s l.world = true → memRead t.host (recCompl l.record) 64 = completionRecord l x.cause flags s.cyc)
    let replays (also : Launch → Prop) : Prop :=
      ∃ t, exec (.trapSegmentEnd n) s = .next t ∧
        (let m := getLaunch t n
         m.phase = .waiting ∧ m.run = none ∧ m.seg = l.seg ∧ m.row = l.row + 1 ∧ m.replays = l.replays + 1 ∧ also m) ∧
        ∀ j ∈ l.cores, (getCore t j).regs = (getCore s j).entry ∧ (getCore t j).spad = (getCore s j).spad ∧
          (getCore t j).ctl = (getCore s j).ctl
    l.run = some r → r.trap = some x →
    (c.launch = some n → (∀ e ∈ r.sections, e.1 ≠ c.lidx) →
      (c.stopAt = none → coreStopCycle x p c = match x.core with
        | none => x.cyc + 192
        | some j => if p = j then x.cyc + 1 else if dieOf p = dieOf j then x.cyc + 64 else x.cyc + 192) ∧
      (coreStopCycle x p c ≤ s.cyc → ∃ t, exec (.coreStop n p) s = .next t ∧
        (let d := getCore t p
         d.copyQ = [] ∧ d.matQ = [] ∧ d.tileQ = [] ∧ d.feedQ = [] ∧ d.storeQ = [] ∧ d.binQ = [] ∧ d.topkQ = [] ∧ d.pushes = [] ∧
         d.posts = [] ∧ (∃ y, d.stopAt = some y ∧ y ≤ s.cyc) ∧ d.regs = c.regs ∧ d.spad = c.spad ∧ d.ctl = c.ctl) ∧
        (∀ e ∈ getRows t (p / 128), e.core ≠ p) ∧
        (getLaunch t n).run.map (fun z => smGet [] z.sections c.lidx) =
          some (sectionCut c (match c.stopAt with | some y => y - 1 | none => coreStopCycle x p c)))) ∧
    (trapEndDue s n = true → r.others = [] →
      (restartable x.cause = false → ends 0) ∧
      (x.cause = 0x22 → lookupTrans (getWorld s l.world).table x.faddr = none → ends 1) ∧
      (x.cause = 0x10 ∨ x.cause = 0x13 ∨ x.cause = 0x20 → 16 ≤ l.row → ends 2) ∧
      (x.cause = 0x10 ∨ x.cause = 0x13 ∨ x.cause = 0x20 → l.row < 16 → replays fun _ => True) ∧
      (x.cause = 0x22 → lookupTrans (getWorld s l.world).table x.faddr = some v → l.row < 16 →
        replays fun m => (x.lidx, v) ∈ m.installs))

/-! ### Segments -/

/-- R38, R126, R181, R215, R218, R229, R232, R233, R235, R246: a segment enters with its streams at their entries, its tiles at their
committed images, nothing in flight and its registers as they were; it ends with its vector registers outside LIVEV zeroed and its leftovers
gone; tiles left live are retired first, 32 cycles each, with warn(LIVE); its writes are committed in their order, and then the launch ends
or waits for its next segment, whose entry is the first tick cycle that leaves its cost before the gap and for which its islands hold its
energy; on the channels it names that is no sooner than the windows, refreshes and Open banks in progress leave room for a lead-in, and
leaves each of them its refresh deadlines (R138, R139, R145; log 38). A write
to the package's own memory that its remote bins still have to make holds back the next (log 51). The model's choices: a world in RUN
without a bound stream changes no host memory (R280, log 90); a next segment is placed as its last commit is acknowledged, or at G + 320 of
an edge gap (logs 82 and 12). -/
def Obligations.SegmentSteps : Prop :=
  ∀ (s : State) (n a e k : Nat) (g : Segment) (r : SegRun) (w : Held),
    let l := getLaunch s n
    (l.segs[l.seg]? = some g → l.phase = .placed e → e ≤ s.cyc → ∃ t run, exec (.segmentEntry n) s = .next t ∧
      (getLaunch t n).phase = .running ∧ (getLaunch t n).run = some run ∧ run.seg = l.seg ∧ run.entry = s.cyc ∧ run.dentry = s.dtime ∧
      run.trap = none ∧
      (∀ j ∈ l.cores,
        let c := getCore s j
        let d := getCore t j
        d.regs = { c.regs with trellis := d.regs.trellis, events := [] } ∧ d.spad = c.spad ∧ d.ctl = c.ctl ∧ d.ctlTag = c.ctlTag ∧
        (∀ i, getTile d i = smGet [] c.committed i) ∧ d.flight = [] ∧ d.lq = Queue.zero ∧ d.sq = Queue.zero ∧ d.tokens = [] ∧ d.phases = [] ∧
        ∀ q, streamOf d q = entryStream (g.entries.getD (seqNo q) 0) s.cyc) ∧
      ((g.chans.map (·.1)).Nodup → ∀ z ∈ g.chans, ∃ c, (getChan t z.1).run = some c ∧ c.launch = n)) ∧
    (l.run = some r → r.trap = none →
      ((∃ j ∈ l.cores, retireReady (getCore s j) s.cyc = true) → ∃ t, exec (.segmentEnd n) s = .next t ∧
        ∀ j ∈ l.cores, retireReady (getCore s j) s.cyc = true → unretired (getCore t j) = [] ∧
          (getCore t j).matFree = s.cyc + 32 * (unretired (getCore s j)).length ∧ (getCore t j).regs.warn.getLsbD warnLive = true) ∧
      ((∀ j ∈ l.cores, retireReady (getCore s j) s.cyc = false) → segmentOver s n = true → ∃ t, exec (.segmentEnd n) s = .next t ∧
        (let m := getLaunch t n
         m.phase = .committing (l.halt || decide (l.segs.length ≤ l.seg + 1)) ∧ m.run = none ∧ m.seg = l.seg + 1 ∧ m.done = l.done + 1) ∧
        ∀ j ∈ l.cores,
          (∀ v, v < 32 → readVec (getCore t j) v =
            if (getCore s j).regs.livev.getLsbD v then readVec (getCore s j) v else []) ∧
          (getCore t j).regs.s = (getCore s j).regs.s ∧ (getCore t j).spad = (getCore s j).spad ∧ (getCore t j).ctl = (getCore s j).ctl ∧
          (getCore t j).lq.places = [] ∧ (getCore t j).phases = [])) ∧
    (commitQueued s n = false → l.phase = .committing true → l.commits = [] → ∃ t, exec (.commitAcknowledge n) s = .next t ∧
      (getLaunch t n).phase = .ended 0 ∧
      (dmaOpen s l.world = true → memRead t.host (recCompl l.record) 64 = completionRecord l 0 0 l.endCyc) ∧
      (dmaOpen s l.world = false → t.host = s.host) ∧ t.outbox = s.outbox ++ [⟨0, l.world, s.cyc, []⟩]) ∧
    (commitQueued s n = false → l.phase = .committing false → l.commits = [] → gapStart s ≤ s.cyc → s.gapDone ≤ gapStart s + 320 →
      ∃ t, exec (.commitAcknowledge n) s = .next t ∧ getLaunch t n = { l with phase := .waiting }) ∧
    (∀ b, commitQueued s n = true → l.phase = .committing b → Answers (.commitAcknowledge n) s s) ∧
    (∀ b, commitQueued s n = false → l.phase = .committing b → (l.commits.find? fun z => decide (z.1 ≤ s.cyc)) = some (a, w) →
        w.space = 1 → w.add = false →
      ∃ t, exec (.commitAcknowledge n) s = .next t ∧ getLaunch t n = { l with commits := l.commits.erase (a, w) } ∧
        (dmaOpen s l.world = true → memRead t.host w.addr w.bytes.length = w.bytes ∧
          ∀ y, y < w.addr ∨ w.addr + w.bytes.length ≤ y → memGet t.host y = memGet s.host y) ∧
        (dmaOpen s l.world = false → t.host = s.host)) ∧
    (entryIn s n l g k a = some e →
      let cs := g.chans.map fun z => getChan s z.1
      let low := (cs.map fun c => leadLow c s.cyc).foldl max a
      let fits (e : Nat) : Prop := low ≤ e ∧ e % 2 ^ l.tick = 0 ∧
        ∀ c ∈ cs, e ≤ oldestRef c + 3420 ∨ refreshFrom c s.cyc + 580 ≤ e
      fits e ∧ (∀ x, x < e → ¬fits x) ∧ e + g.cost ≤ (k + 1) * 2 ^ s.frameLog2 - 1024 ∧ casksHold s l g = true)

/-! ### Frames -/

/-- R108, R109, R125, R239, R241, R242, R245, R287, R288, R296, R297, R308, R309, R311, R314: a frame start refills every cask by its
island's weight, to twice that at most, and takes from it what the placements of the gap before cost; an edge gap takes in keys and
domain tables at its first cycle, and 320 cycles later clears the command memories, seals the state of the launches whose cores go to
another world and the scratchpads of cores that no launch holds, measures the lock, and zeroes every core that changes worlds or that no
launch holds for the coming frame; a revocation
reaches every launch of its world, on its cores and in its sealed images, and, from its cycle on, makes every handle of its PID
invalid. The model's choices: the two cycles of an edge gap (log 12), the broadcast's reach into sealed images (log 65), the casks' wrap
at 48 bits (log 98), and the measured offset, a free value (log 26). -/
def Obligations.FrameSteps : Prop :=
  ∀ (s : State) (p k w d time : Nat) (pid : BitVec 12) (x : Nat × BitVec 256) (y : BitVec 512),
    let c := getCore s p
    (frameStartDue s = true → ∃ t, exec .frameStart s = .next t ∧ t.boot = .running ∧ t.frameDone = s.cyc + 1 ∧
      t.reached = false ∧ t.owed = [] ∧
      t.throttle = (if s.reached = true ∨ 95 ≤ s.hottest then min 4 (s.throttle + 1) else if s.cool then s.throttle - 1 else s.throttle) ∧
      ∀ i, i < 1040 →
        let wrap (z : Int) : Int := (BitVec.ofInt 48 z).toInt
        let refill := (if 1024 ≤ i then 32 else if i % 2 = 0 then 4 else 1) * 5000 * 2 ^ s.frameLog2 / 2 ^ 16 / 2 ^ t.throttle
        let full := wrap (min (smGet 0 s.casks i + (refill : Int)) (2 * (refill : Int)))
        ((∀ z ∈ s.owed, z.1 ≠ i) → smGet 0 t.casks i = full) ∧
        ∀ cost, s.owed = [(i, cost)] → smGet 0 t.casks i = wrap (full - (cost : Int))) ∧
    (edgePart s = some false → ∃ t, exec .edgeGap s = .next t ∧ t.gapDone = gapStart s + 1 ∧
      ((getKey s k).pending = some x → getKey t k = { getKey s k with key := some x, empty := true, last := 0, pending := none, log := [] }) ∧
      ((getWorld s w).sealPending = some y → (getWorld t w).sealKey = some y ∧ (getWorld t w).sealPending = none) ∧
      (getWorld t w).domain = (getWorld s w).domainNext) ∧
    (edgePart s = some true → (∀ e ∈ s.launches, waitsHeld e.2 = false ∧ inLists e.2 = false) → ∃ t, exec .edgeGap s = .next t ∧
      t.gapDone = gapStart s + 321 ∧ ((∀ e ∈ s.launches, e.2.cores = [] ∨ launchEnded e.2 = true) → ∀ ch, (getChan t ch).mem = []) ∧
      t.locked = (if dtimeFollows s then decide (-12 ≤ Config.linkOffset s.free ∧ Config.linkOffset s.free ≤ 12) else true) ∧
      (let stays := unitWorld s (frameOf s s.cyc + 1) p = c.world
       (stays → c.launch.isSome = true ∨ (ringOwner s p).isSome = true → getCore t p = c) ∧
       (¬(stays ∧ (c.launch.isSome = true ∨ (ringOwner s p).isSome = true)) → ∃ v, getCore t p = { Core.zero with world := v }) ∧
       ∀ n, c.launch = some n → ¬stays → (∀ j, j ≠ p → (getCore s j).launch ≠ some n) →
         (c.lidx, sealCore c s.cyc) ∈ (getLaunch t n).images) ∧
      (c.launch = none → (unitWorld s (frameOf s s.cyc + 1) p = c.world → ringOwner s p = none) → settleAll c s.cyc ≠ [] →
        (p, settleAll c s.cyc) ∈ (getWorld t c.world).idle)) ∧
    ((pid, d) ∈ c.revoked → d ≤ s.cyc → ∃ t, exec (.revocationEffect p pid) s = .next t ∧
      OnlyCore s t p { c with revoked := (getCore t p).revoked } ∧ revokedOn (getCore t p) pid = true ∧
      (hValid (smGet 0 c.regs.h k) = true → hPid (smGet 0 c.regs.h k) = pid →
        hValid (readHandle (getCore t p) k) = false ∧ hCause (readHandle (getCore t p) k) = 2)) ∧
    (s.cyc + 256 ≤ time → ∃ t, exec (.revocationBroadcast w pid time) s = .next t ∧
      (getWorld t w).table = (getWorld s w).table.filter (fun z => decide (z.pid ≠ pid)) ∧
      (getWorld t w).gone = (getWorld s w).gone ++ (getWorld s w).table.filter (fun z => decide (z.pid = pid)) ∧
      (∀ n, (getLaunch s n).world = w → (∃ e ∈ s.launches, e.1 = n) → (∀ e ∈ s.launches, e.1 = n → e.2 = getLaunch s n) →
        (getLaunch t n).images = (getLaunch s n).images.map fun z => (z.1, { z.2 with revoked := z.2.revoked ++ [(pid, time)] })) ∧
      (c.launch.isSome = true → c.world = w → (pid, time) ∈ (getCore t p).revoked)) ∧
    (time < s.cyc + 256 → Answers (.revocationBroadcast w pid time) s s)

/-! ### Worlds: records, keys, replica tables, rings -/

/-- R168, R169, R224, R286 to R288, R302, R305: a record fetch takes as long as the read does (a free value, log 20) and then HEAD moves on
and the record waits for admission; an import ends with its code; an armed replica switch makes the next table current; a packet becomes a
row of its flow's filling bin, is held back, lost or discarded, under UUD as it arrives, under ROD in the order of its message sequence
(R304), a second one of a sequence too; a swap turns the bins and writes the status line. The model's choices: the order of an import's
codes (log 74), the packet that waits within 192 cycles of a swap (log 68), the port's place among the writers (log 41), that the first
packet of an ordered flow fixes where its sequence begins (log 102), that a row holds the payload without its tag, and so one of at most
RB − 16 bytes (log 110), and that a packet lost to a full bin leaves the flow's last sequence number as it was (log 111). -/
def Obligations.WorldSteps : Prop :=
  ∀ (s : State) (w f d : Nat) (fl : NetFlow) (msg : Word64) (payload plain key : List Byte),
    let x := getWorld s w
    let rec_ := memRead x.keyWindow 0 256
    let rb := flowRb fl.entry
    (recordFetchDue s w = true →
      (x.fetch = none →
        WorldFrom (.launchRecordFetch w) s { s with free := s.free + 1 } w { x with fetch := some (s.cyc + Config.returnDelay s.free) }) ∧
      (x.fetch = some d → ∃ t, exec (.launchRecordFetch w) s = .next t ∧
        getWorld t w = { x with fetch := none, head := (x.head + 1) % ringSize x } ∧
        getLaunch t s.ids = { Launch.zero with world := w, record := memRead x.ring (256 * x.head) 256, order := s.ids })) ∧
    (keyImportDue s w = true → ∃ t code, exec (.keyImportResult w) s = .next t ∧ (getWorld t w).keyBusy = none ∧
      (getWorld t w).keyCode = code ∧ t.outbox = s.outbox ++ [⟨1, w, s.cyc, [BitVec.ofNat 8 code]⟩] ∧
      (x.tdisp ≠ .run → code = 4) ∧
      (x.tdisp = .run → impMalformed rec_ = true → code = 2) ∧
      (x.tdisp = .run → impMalformed rec_ = false →
        (impType rec_ = 1 → x.sealKey.isSome = true → code = 3) ∧
        (impType rec_ ≠ 1 → (getKey s (impSlot rec_)).world ≠ some w → code = 5) ∧
        (impType rec_ = 1 → x.sealKey = none → x.sealPending = none →
          (unwrapKey x.privKey.toNat rec_ = none → code = 1) ∧
          (unwrapKey x.privKey.toNat rec_ = some key → leNat (key.drop 64) = 0 →
            code = 0 ∧ (getWorld t w).sealPending = some (BitVec.ofNat 512 (leNat key)) ∧ (getWorld t w).sealKey = none)))) ∧
    (replicaDue s w = true →
      WorldFrom (.replicaTableSwitch w) s (reply s 2 w [0]) w { x with rtArmed := false, curReplica := parseReplicas x.nextReplica }) ∧
    (getFlow s w f = some fl → framesRun s = true → fl.valid = true →
      let arrives (g : NetFlow) : Prop := ∃ t, exec (.packetArrival w f msg payload) s = .next t ∧ t = { s with worlds := t.worlds } ∧
        getFlow t w f = some g
      let inTurn := flowOrdered fl = false ∨ fl.early = [] ∧ (fl.nextSeq = none ∨ fl.nextSeq = some msg.toNat)
      let after (g : NetFlow) : NetFlow := if flowOrdered fl then { g with nextSeq := some (msg.toNat + 1), early := [] } else g
      (∀ q, flowOrdered fl = true → fl.nextSeq = some q → q < msg.toNat →
        arrives { fl with early := insertEarly (msg, payload) fl.early }) ∧
      (flowOrdered fl = true → fl.nextSeq = some msg.toNat → (∀ e ∈ fl.early, e.1.toNat = msg.toNat) →
        ∃ t g, exec (.packetArrival w f msg payload) s = .next t ∧ getFlow t w f = some g ∧ g.nextSeq = some (msg.toNat + 1) ∧
          g.early = [] ∧ (swapDue s fl = true ∨ toSwap fl s.cyc < 192 → g.held = fl.held ++ (msg, payload) :: fl.early)) ∧
      (inTurn → swapDue s fl = true ∨ toSwap fl s.cyc < 192 → arrives (after { fl with held := fl.held ++ [(msg, payload)] })) ∧
      (inTurn → swapDue s fl = false → 192 ≤ toSwap fl s.cyc →
        ((∃ q, fl.lastSeq = some q ∧ msg.toNat ≤ q) ∨ openPacket s fl msg payload = none →
          arrives (after { fl with tagFail := fl.tagFail + 1 })) ∧
        ((∀ q, fl.lastSeq = some q → q < msg.toNat) → openPacket s fl msg payload = some plain → plain.length ≤ rb - 16 →
          (fl.fill < flowRcap fl.entry → ∃ t, exec (.packetArrival w f msg payload) s = .next t ∧
            getFlow t w f = some (after { fl with lastSeq := some msg.toNat, fill := fl.fill + 1 }) ∧
            (getCore t fl.core).recent = (spadWrite (getCore s fl.core) ⟨s.cyc, portPlace, 512, .port,
              flowRbase fl.entry + (fl.filling * flowRcap fl.entry + fl.fill) * rb, packetRow rb msg plain, 0, 0, []⟩).recent) ∧
          (fl.fill = flowRcap fl.entry → flowRule fl = 0 → arrives (after { fl with lost := fl.lost + 1 }))))) ∧
    (getFlow s w f = some fl → swapDue s fl = true → fl.trapPending = false → fl.trapOwed = false → fl.spill = [] → fl.held = [] →
      ∃ t, exec (.ringSwap w f) s = .next t ∧
        getFlow t w f = some { fl with filling := 1 - fl.filling, fill := 0, cycles := fl.cycles + 1, swapped := s.cyc + 1 } ∧
        (getCore t fl.core).recent = (spadWrite (getCore s fl.core) ⟨s.cyc, portPlace, 512, .port,
          flowRbase fl.entry + 2 * flowRcap fl.entry * rb, statusLine fl, 0, 0, []⟩).recent)

/-! ### The host's requests -/

/-- R9, R100, R101, R118, R222, R224, R254, R277, R278, R280, R282, R286, R288, R302, R314: what the host's accepted requests do to a
world's queue, windows, keys and function, and which of them are ignored; a write to a listed register acts as its request does, and
BAR0 reads a register with its reserved bits zero and an unlisted offset as zero; line and MAC keys are free values (log 23), and so
are the cycles an import takes (log 20). What a late RTCTL and a VF reset leave (log 73), the layout of a debug read's answer (log 81),
that a doorbell's cycle is kept, for which host writes its records' fetch awaits (log 99), that a VF_ENABLE whose carve-out holds a row
that the training found bad is ignored (log 64), and that a queue's destruction, asked for or written to register 0x000, keeps its size
(log 114), are the model's choices. -/
def Obligations.HostRequestsComplete : Prop :=
  ∀ (s : State) (w off base size slot a : Nat) (ql : BitVec 4) (tail : BitVec 12) (bs : List Byte) (time : Word64) (tee : Bool)
    (units : List Nat) (p st : Nat) (v : Word64),
    let x := getWorld s w
    let same (i j : Instr) : Prop := ∃ t u, exec i s = .next t ∧ exec j s = .next u ∧ t = { u with worlds := t.worlds } ∧
      ∀ k, getWorld t k = getWorld u k
    let reg (r : Nat) : Instr := .registerWrite w r (leBytes 8 v.toNat) tee
    let line := readLine s (a / 64 * 64) s.cyc
    (vfOpen s w = true →
      (x.lqEn = false → WorldFrom (.lqCreate w ql) s s w { x with
        lqEn := true, qlog2 := ql.toNat, tail := 0, head := 0, ign := false, dropped := false, fetch := none, ring := [] }) ∧
      (x.lqEn = true → WorldFrom (.lqDestroy w) s s w { x with
        lqEn := false, dropped := x.dropped || x.fetch.isSome, fetch := none, ring := [] }) ∧
      (x.lqEn = true → WorldFrom (.doorbell w tail) s s w { x with tail := tail.toNat % ringSize x, rung := s.cyc } ∧
        ∃ ring, WorldFrom (.recordWindowWrite w off bs) s s w { x with ring := ring } ∧ ∀ y, memGet ring y =
          if off ≤ y ∧ y < off + bs.length ∧ y < 2 ^ 20 then bs.getD (y - off) 0 else memGet x.ring y) ∧
      (x.lqEn = false → WorldFrom (.doorbell w tail) s s w { x with ign := true } ∧
        WorldFrom (.recordWindowWrite w off bs) s s w { x with ign := true }) ∧
      (x.keyBusy = none → WorldFrom (.keyImportGo w) s { s with free := s.free + 1 } w
        { x with keyBusy := some (s.cyc + Config.returnDelay s.free) }) ∧
      (x.keyBusy.isSome = true → Answers (.keyImportGo w) s s) ∧
      (s.dtime ≤ time.toNat → WorldFrom (.replicaSwitchArm w time) s s w { x with rtSwitch := time, rtLate := false, rtArmed := true }) ∧
      (time.toNat < s.dtime → WorldFrom (.replicaSwitchArm w time) s (reply s 2 w [2]) w
        { x with rtSwitch := time, rtLate := true, rtArmed := false }) ∧
      (x.tdisp ≠ .run ∨ tee = true →
        same (reg 0x000) (if v.getLsbD 0 then .lqCreate w (v.extractLsb' 4 4) else .lqDestroy w) ∧
        same (reg 0x008) (.doorbell w (v.extractLsb' 0 12)) ∧
        (v.getLsbD 0 = true → same (reg 0x100) (.keyImportGo w)) ∧
        same (reg 0x180) (.replicaSwitchArm w v) ∧
        (bs ≠ [] → off + bs.length ≤ 2 ^ 20 → same (.registerWrite w (0x100000 + off) bs tee) (.recordWindowWrite w off bs))) ∧
      (x.tdisp ≠ .run ∨ tee = true → 0x188 ≤ off → off + bs.length ≤ 0x100000 → ∃ kw fw nr dn, WorldFrom (.registerWrite w off bs tee) s s w
          { x with keyWindow := kw, flowWindow := fw, nextReplica := nr, domainNext := dn } ∧
        (∀ y, memGet kw y = if off ≤ 0x20000 + y ∧ 0x20000 + y < off + bs.length ∧ y < 256
          then bs.getD (0x20000 + y - off) 0 else memGet x.keyWindow y) ∧
        ∀ y, memGet dn y = if off ≤ 0x80000 + y ∧ 0x80000 + y < off + bs.length ∧ y < 0x2000
          then bs.getD (0x80000 + y - off) 0 else memGet x.domainNext y) ∧
      (x.tdisp = .run → Answers (.registerWrite w off bs false) s s)) ∧
    (framesRun s = true → 1 ≤ w → w ≤ 63 → x.enabled = false → 0 < size → base % 2 ^ 30 = 0 → size % 2 ^ 30 = 0 → base + size ≤ 3 * 2 ^ 37 →
      carveFree s w base size = true → (∀ y ∈ s.badRows, y < base ∨ base + size ≤ y) → ∃ t, exec (.vfEnable w base size units) s = .next t ∧
        getWorld t w = { World.zero with
          enabled := true, cbase := base, csize := size, lineKey := Config.drbg s.free,
          macKey := (Config.drbg (s.free + 1)).setWidth 256, units := units.filter fun u => decide (u < 1028) } ∧
        ∀ y, memGet t.pkg y = if base ≤ y ∧ y < base + size then 0 else memGet s.pkg y) ∧
    (x.enabled = true → w ≠ 0 → ∃ t, exec (.vfReset w) s = .next t ∧ (getWorld t w).tdisp = .unlocked ∧ (getWorld t w).privKey = 0 ∧
      (getWorld t w).sealKey = none ∧ (getWorld t w).lqEn = false ∧
      (∀ k, (getKey s k).world = some w → getKey t k = { KeySlot.zero with world := some w }) ∧
      (∀ n, (getLaunch s n).world = w → launchEnded (getLaunch s n) = false → (∃ e ∈ s.launches, e.1 = n) →
        (getLaunch t n).phase = .ended 0x201) ∧
      ∀ y, x.cbase ≤ y → y < x.cbase + x.csize → memGet t.pkg y = 0) ∧
    (3 * 2 ^ 37 < base + size → Answers (.vfEnable w base size units) s s) ∧
    ((∃ y ∈ s.badRows, base ≤ y ∧ y < base + size) → Answers (.vfEnable w base size units) s s) ∧
    (w ≠ 0 → x.enabled = true → barRead s w 0x008 8 = leBytes 8 (x.tail % 2 ^ 12) ∧ barRead s w 0x010 8 = leBytes 8 (x.head % 2 ^ 12) ∧
      barRead s w 0x108 8 = leBytes 8 ((if x.keyBusy.isSome then 256 else 0) + x.keyCode % 256) ∧
      ∀ n, 0x190 ≤ off → off + n ≤ 0x20000 → barRead s w off n = List.replicate n 0) ∧
    (framesRun s = true → slot < 4096 → 1 ≤ w → w ≤ 63 → (getKey s slot).world = none → ∃ t, exec (.keySlotAssignment slot w) s = .next t ∧
      t = { s with keys := t.keys } ∧ getKey t slot = { KeySlot.zero with world := some w } ∧ ∀ k, k ≠ slot → getKey t k = getKey s k) ∧
    (x.enabled = true →
      (x.cbase ≤ a → a < x.cbase + x.csize → cellarLine s w a = false → line.line.ot.getLsbD 6 = false →
        Answers (.debugRead w (.line a)) s (reply s rDebug w (0 :: lineBytes line.line.data))) ∧
      (x.cbase ≤ a → a < x.cbase + x.csize → cellarLine s w a = true ∨ line.line.ot.getLsbD 6 = true →
        WorldFrom (.debugRead w (.line a)) s (reply (reply s 3 w []) rDebug w [0x32]) w { x with faultLog := x.faultLog ++ [[0x32]] }) ∧
      WorldFrom (.debugRead w (.bBuffer p a)) s (reply (reply s 3 w []) rDebug w (0x32 :: List.replicate 64 0)) w
        { x with faultLog := x.faultLog ++ [[0x32]] } ∧
      (p < 512 → (getCore s p).world = w →
        Answers (.debugRead w (.scratchpad p off)) s (reply s rDebug w (0 :: spadNow (getCore s p) s.cyc off 64)))) ∧
    (st < 64 → tdispOpen s w = true → x.tdisp = .unlocked → WorldFrom (.ideStreamSetup st w) s s w { x with stream := some st })

/-- R280 to R284, R289 to R292: an interface goes from CONFIG_UNLOCKED to CONFIG_LOCKED with a fresh key pair, on to RUN with its image log
started, and back with its world reset; out of turn a request is answered INVALID_INTERFACE_STATE; an integrity failure and a change of
frozen configuration lead to ERROR. The SPDM responder answers certificates, signed challenges and measurements, and writes slots 1 to 7 only
inside a session. Keys are free values (log 23), and the octets of the messages presumed (log 27). -/
def Obligations.InterfaceRequestsComplete : Prop :=
  ∀ (s : State) (w st : Nat) (slot : BitVec 3) (secure : Bool) (bs z : List Byte) (nonce px py : BitVec 256) (index : BitVec 8),
    let x := getWorld s w
    let wrong := reply s rError w [invalidInterfaceState]
    let fresh : State := { s with free := s.free + 1 }
    let seed (k : Nat) : Nat := p256KeyFromSeed ((leBytes 64 (Config.drbg k).toNat).take 32)
    (tdispOpen s w = true →
      (x.tdisp = .unlocked → WorldFrom (.lockInterfaceRequest w) s (reply fresh rLock w []) w
        { x with tdisp := .locked, privKey := BitVec.ofNat 256 (seed s.free) }) ∧
      (x.tdisp ≠ .unlocked → Answers (.lockInterfaceRequest w) s wrong) ∧
      (x.tdisp = .locked → WorldFrom (.startInterfaceRequest w) s (reply s rStart w []) w { x with tdisp := .run, imageLog := 0 }) ∧
      (x.tdisp ≠ .locked → Answers (.startInterfaceRequest w) s wrong) ∧
      (∃ t, exec (.stopInterfaceRequest w) s = .next t ∧ (getWorld t w).tdisp = .unlocked ∧ (getWorld t w).privKey = 0 ∧
        (getWorld t w).sealKey = none ∧ ∀ y, x.cbase ≤ y → y < x.cbase + x.csize → memGet t.pkg y = 0) ∧
      (secure = true → s.session.isSome = true →
        (x.tdisp = .locked ∨ x.tdisp = .run → ∃ t sign, exec (.getDeviceInterfaceReport w secure) s = .next t ∧ t.worlds = s.worlds ∧
          t.outbox = s.outbox ++ [⟨rReport, w, s.cyc, Config.standardReport 512 false ++ reportData w x ++ sign⟩]) ∧
        (x.tdisp = .unlocked ∨ x.tdisp = .error → Answers (.getDeviceInterfaceReport w secure) s wrong)) ∧
      (secure = false → Answers (.getDeviceInterfaceReport w secure) s (reply s rError w [unexpectedRequest]))) ∧
    (x.stream = some st → x.enabled = true → ∃ t, exec (.ideIntegrityFailure st) s = .next t ∧ (getWorld t w).tdisp = .error) ∧
    (x.enabled = true → x.tdisp = .locked ∨ x.tdisp = .run → ∃ t, exec (.frozenConfigChange w) s = .next t ∧
      (getWorld t w).tdisp = .error ∧ (getWorld t w).privKey = 0) ∧
    (doeOpen s = true →
      (certSlot s slot ≠ [] → Answers (.getCertificate slot) s (reply s rCert 0 (certSlot s slot)) ∧
        (∃ t sign, exec (.challenge slot nonce) s = .next t ∧
          t.outbox = s.outbox ++ [⟨rChallenge, 0, s.cyc, sha256 (certSlot s slot) ++ sign⟩]) ∧
        (p256Ecdh (seed s.free) px.toNat py.toNat = some z → ∃ t sign, exec (.keyExchange slot px py) s = .next t ∧
          t.session = some (BitVec.ofNat 256 (beNat z)) ∧
          t.outbox = s.outbox ++ [⟨rKeyEx, 0, s.cyc, p256Public (seed s.free) ++ sign⟩])) ∧
      (certSlot s slot = [] → Answers (.getCertificate slot) s (reply s rError 0 [invalidRequest])) ∧
      (slot = 0 → Answers (.setCertificate slot secure bs) s (reply s rError 0 [invalidRequest])) ∧
      (slot ≠ 0 → secure = true → s.session.isSome = true → ∃ t, exec (.setCertificate slot secure bs) s = .next t ∧
        certSlot t slot = bs ∧ ∀ k, k ≠ slot → certSlot t k = certSlot s k) ∧
      (slot ≠ 0 → secure = false → Answers (.setCertificate slot secure bs) s (reply s rError 0 [unexpectedRequest])) ∧
      ∃ t sign, exec (.getMeasurements index) s = .next t ∧ t.outbox = s.outbox ++ [⟨rMeas, 0, s.cyc,
        ((measurementsAt s index.toNat).flatMap fun m => BitVec.ofNat 8 m.1 :: beBytes 32 m.2.toNat) ++ sign⟩])

/-! ### The package -/

/-- R142, R237, R293, R294, R296, R299, R307, R311, R313 to R315: boot verifies the flash image, whatever the package was doing, and goes
on or into recovery, where LOAD, requested or written to RCV_CTL, starts a verification, which RCV_STAT shows; a recovery image that passes
replaces the flash, shows code 6 with BUSY clear and then resets the package, one that does not changes nothing; temperature and supply
outside their ranges end every launch and power the islands off; a port's request waits in its channel's bin or is refused, as a host's is
in a world in RUN without the TEE bit and a bound stream; a link's bring-up gives a number and a key for each port, and a flit without one
is dropped; an enrolment joins its group, and makes one of two groups that it finds. World 0 draws its keys, and its carve-out is clear of the
rows that the training found bad; its place and size (log 106), FRAMELOG2's setting
(log 83) and the rows the training finds bad (log 64) are free values. The model's choices: a refused flash leaves CODE 0, and when the
verification ends and the reset follows (log 80); package 0 is a source, and a later bring-up follows a link's reset (log 26); which pages
a port may not reach (log 33); the keys' agreement (log 100); the layout of the PF log's entries, [4, cycle] for a DRBG that fails, [2, the
temperature] and [3, the supply] before the reset reports, which R311 and R314 do not give (log 121); that an enrolment merges the two
groups that it finds (R299, log 128). No test shows an image that is accepted: its signature's key digest is a free value. -/
def Obligations.PlatformEventsComplete : Prop :=
  ∀ (s : State) (temp mv pkg world group count code port k : Nat) (source tee : Bool) (r : RemoteReq) (rs : List RemoteReq) (v : Word64)
    (a b : Nat × Nat × Nat),
    let off (i : Instr) (cause value : Nat) : Prop :=
      ∃ t, exec i s = .next t ∧ t.off = true ∧ t.cores = [] ∧ t.chans = [] ∧ t.rows = [] ∧ t.colls = [] ∧
        (t.pfLog = s.pfLog ++ [[cause, value]] ++ s.worlds.flatMap fun (e : Nat × World) => resetReport s e.1) ∧
            ∀ n, launchEnded (getLaunch s n) = false → (∃ e ∈ s.launches, e.1 = n) →
          (getLaunch t n).phase = .ended 0x201
    (∃ t, exec .packageResetRelease s = .next t ∧ t.cyc = 0 ∧ t.flash = s.flash ∧ t.launches = [] ∧ t.cores = [] ∧
      (verifyImage s s.flash = 0 → t.minSvn = max (max s.minSvn Config.fusedMinSvn) (fwSvn s.flash) ∧
        t.frameLog2 = 14 + (Config.frameSetting s.free).val ∧ 14 ≤ t.frameLog2 ∧ t.frameLog2 ≤ 20 ∧
        (Config.drbgFails s.free = false → t.boot = .step 5 ∧ t.badRows = Config.trainErrors s.free ∧
          (let z := getWorld t 0
           z.lineKey = Config.drbg (s.free + 2) ∧ z.macKey = (Config.drbg (s.free + 3)).setWidth 256 ∧
           z.cbase % 2 ^ 30 = 0 ∧ z.csize % 2 ^ 30 = 0 ∧ z.cbase + z.csize ≤ 3 * 2 ^ 37 ∧
           (∀ y ∈ t.badRows, y < z.cbase ∨ z.cbase + z.csize ≤ y) ∧
           ((∃ g, g < 384 ∧ ∀ y ∈ t.badRows, y / 2 ^ 30 ≠ g) → 0 < z.csize))) ∧
        (Config.drbgFails s.free = true → t.boot = .step 4 ∧ t.pfLog = [[4, 0]])) ∧
      (verifyImage s s.flash ≠ 0 → t.boot = .recovery false 0 ∧ t.minSvn = s.minSvn)) ∧
    (s.boot = .recovery false code → Answers .recoveryLoad s { s with boot := .recovery true code } ∧
      (v.getLsbD 0 = true → Answers (.registerWrite 0 0x000 (leBytes 8 v.toNat) tee) s { s with boot := .recovery true code }) ∧
      (v.getLsbD 0 = false → Answers (.registerWrite 0 0x000 (leBytes 8 v.toNat) tee) s s) ∧
      barRead s 0 0x008 8 = leBytes 8 (code % 256)) ∧
    (s.boot = .recovery true code → Answers .recoveryLoad s s ∧ barRead s 0 0x008 8 = leBytes 8 (256 + code % 256)) ∧
    (s.boot = .accepted k → Answers .recoveryLoad s s ∧ barRead s 0 0x008 8 = leBytes 8 6) ∧
    (s.boot = .recovery true code →
      (verifyImage s s.rcvWindow ≠ 0 → Answers .recoveryVerifyDone s { s with boot := .recovery false (verifyImage s s.rcvWindow) }) ∧
      (verifyImage s s.rcvWindow = 0 → ∃ t, exec .recoveryVerifyDone s = .next t ∧
        t.boot = .accepted (s.cyc + 1 + Config.returnDelay s.free) ∧
        (∀ a, a < 256 + fwLength s.rcvWindow → memGet t.flash a = memGet s.rcvWindow a) ∧
        t.minSvn = max (max s.minSvn Config.fusedMinSvn) (fwSvn s.rcvWindow))) ∧
    (s.boot = .accepted k → (s.cyc < k → Answers .recoveryVerifyDone s s) ∧
      (k ≤ s.cyc → ∃ t, exec .recoveryVerifyDone s = .next t ∧ t.boot = .off ∧ t.cyc = 0 ∧ t.flash = s.flash ∧
        t.minSvn = s.minSvn ∧ t.launches = [])) ∧
    (temp < 105 ∨ s.off = true → Answers (.thermalThrottle temp) s
      { s with hottest := temp, cool := s.cool && decide (temp < 90), reached := s.reached || decide (95 ≤ temp) }) ∧
    (s.off = false → 105 ≤ temp → off (.thermalThrottle temp) 2 temp ∧ off (.thermalShutdown temp) 2 temp) ∧
        (temp < 105 → Answers (.thermalShutdown temp) s s) ∧
    (s.off = false → mv < 40000 ∨ 60000 < mv → off (.supplyOutOfRange mv) 3 mv) ∧
    (40000 ≤ mv → mv ≤ 60000 → Answers (.supplyOutOfRange mv) s s) ∧
    (doeOpen s = true → pkg < 1024 → ∃ keys groups, Answers (.linkBringUp pkg source) s
        { s with domain := some pkg, source := source || decide (pkg = 0), linkKeys := keys, free := s.free + 16, groups := groups } ∧
      (∀ i, (∃ e ∈ keys, e.1 = i) ↔ i < 16) ∧
      (s.domain = none → groups = s.groups.map fun g => (g.1, g.2.1, g.2.2.map fun m => if m.1 = 0 then (pkg, m.2) else m)) ∧
      ∀ old, s.domain = some old → old ≠ pkg → ∀ g ∈ groups, ∀ m ∈ g.2.2, m.1 ≠ old) ∧
    (group ≠ 0 → ∀ own, s.domain = some own → own ≠ pkg → (∀ e ∈ s.groups, e.1 ≠ group) →
      ∃ t, exec (.groupEnrolment group count pkg world) s = .next t ∧ t.groups = s.groups ++ [(group, count, [(pkg, world, 0)])]) ∧
    (group ≠ 0 → ∀ own, s.domain = some own → own ≠ pkg → a.1 = own → b.1 = own → namesBack s a.2.1 pkg world = true →
      namesBack s b.2.1 pkg world = true → 3 ≤ count → s.groups = [(group, count, [a]), (group, count, [b])] →
      ∃ t, exec (.groupEnrolment group count pkg world) s = .next t ∧ t.groups = [(group, count, [a, b, (pkg, world, 2)])]) ∧
    (r.pkg = hostPkg → (getWorld s r.target).tdisp = .run → r.tee = false ∨ (getWorld s r.target).stream = none →
      portAllowed s r = false) ∧
    (framesRun s = true →
      let ch := chanOf (portEntry s r).addr
      (portAllowed s r = true → s.ports = [] → (getChan s ch).bin1.length < 64 →
        ChanBecomes (.remoteRequest r) s ch { getChan s ch with bin1 := (getChan s ch).bin1 ++ [portEntry s r] }) ∧
      (portAllowed s r = true → s.ports = [] → 64 ≤ (getChan s ch).bin1.length →
        Answers (.remoteRequest r) s { s with ports := [portEntry s r] }) ∧
      (portAllowed s r = false → Answers (.remoteRequest r) s (portReply s r 1 [] 0)) ∧
      ((∃ e ∈ s.linkKeys, e.1 = port) → portAllowed s r = false → Answers (.scemelFlitReceive port true [r]) s (portReply s r 1 [] 0)) ∧
      ((∃ e ∈ s.linkKeys, e.1 = port) → portAllowed s r = true → s.ports = [] → (getChan s ch).bin1.length < 64 →
        ChanBecomes (.scemelFlitReceive port true [r]) s ch { getChan s ch with bin1 := (getChan s ch).bin1 ++ [portEntry s r] })) ∧
    Answers (.scemelFlitReceive port false rs) s s ∧
    ((∀ e ∈ s.linkKeys, e.1 ≠ port) → ∀ ok, Answers (.scemelFlitReceive port ok rs) s s)

/-! ### Decoding and the step -/

/-- A step tries the word at the position of the stream whose turn it is: where no request, event or gap comes first and its parcels
decode, step is exec of the decoded instruction with the turn given to that stream; a word that does not decode or cannot be fetched raises
its trap; a line that the core's inbound port takes from a lower logical index comes before the core's own word (R206, R342); a due event is
performed; a cycle with nothing left to do ends. The order of the actions of a cycle is the model's (log 1). -/
def Obligations.StepRunsDecodedWord : Prop :=
  ∀ (s : State) (p : Nat) (q : Seq) (i : Instr) (w : Word32) (ws : List Word32) (e : DecodeError) (k : Nat),
    let c := getCore s p
    let ps := fetchFrom c q (streamOf c q).pc
    s.boot ≠ .off → dueRequest s = none →
    (earlyEvent s = some i → step s = exec i s) ∧
    (earlyEvent s = none → inGap s = false → dueStream s = some (p, q) → inboundFirst c s.cyc = true →
      step s = exec (.inboundLineTake p) s) ∧
    (earlyEvent s = none → inGap s = false → dueStream s = some (p, q) → inboundFirst c s.cyc = false → owedTrap s p = none →
      (missingParcel ps = none → decode ps = .ok i → step s = exec i (s.withTurn ⟨p, q, 0⟩)) ∧
      (missingParcel ps = none → ps = w :: ws → decode ps = .error e → step s = exec (.reservedOpcode w) (s.withTurn ⟨p, q, 0⟩)) ∧
      (missingParcel ps = some k → step s = exec (.fetchFault k) (s.withTurn ⟨p, q, 0⟩))) ∧
    (earlyEvent s = none → inGap s = false → dueStream s = none → ∀ ch, dueChannel s = some (ch, i) →
      step s = exec i (s.withTurn ⟨0, .c, ch⟩)) ∧
    (earlyEvent s = none → nextWord s = none → lateEvent s = none → ∃ t, step s = .next t ∧ t.cyc = s.cyc + 1)

/-- R255 to R268, Table 10.13: the manual's own encodings decode to the words they stand for. -/
def Obligations.DecodesSpecWords : Prop :=
  decode [0x00823020#32] = .ok (.add ⟨0, false⟩ 3 1 2) ∧
  decode [0x01401068#32] = .ok (.addi ⟨2, false⟩ 1 0 5) ∧
  decode [0xFFC21060#32] = .ok (.addi ⟨0, false⟩ 1 1 0x3FF) ∧
  decode [0x2FC44160#32] = .ok (.ld ⟨0, false⟩ 4 2 31 5) ∧
  decode [0xFFFA0200#32] = .ok (.b ⟨0, false⟩ 0x7FFD) ∧
  decode [0x002C0480#32] = .ok (.tkget ⟨0, false⟩ 6 1) ∧
  decode [0x000806A0#32] = .ok (.segend ⟨0, false⟩ 4) ∧
  decode [0x00005021#32, 0x12345678#32] = .ok (.li ⟨0, false⟩ 5 0x12345678) ∧
  decode [0x20043022#32, 0, 0] = .ok (.vadd ⟨0, 3, 1, 32, 0, 0, 0, 0, 0, 0, 0, 0, 0, 0, 0⟩) ∧
  decode [0x25044082#32, 0x00900044#32, 0x40000000#32] = .ok (.vfma ⟨0, 4, 1, 37, 4, 1, 0, 0, 0, 2, 0, 2, 0, 0x40000000, 0⟩) ∧
  decode [0x25249382#32, 0x00048000#32, 0x1F#32] = .ok (.vsha ⟨0, 9, 9, 37, 0, 0, 0, 0, 9, 0, 0, 0, 0, 0x1F, 0⟩) ∧
  decodeChannel 0x0000012001414021#64 = .ok (.dact 20 5 0x120) ∧
  decodeChannel 0x400001200140C061#64 = .ok (.drd 12 5 0x120 0 0 2)

/-- No bit of an encoding is dropped: every well-formed word, with every operand at every value its encoding admits, is read back from
its parcels as it stands, whatever parcels follow. -/
def Obligations.EncodeDecodeRoundTrip : Prop :=
  ∀ (i : Instr) (rest : List Word32), i.wf = true →
    match i with
    | .pdim .. | .pband .. | .pdil .. | .pblk .. | .pkron .. | .phash .. | .pemit .. | .pinv .. | .pend .. =>
      ∃ w, encode i = [w] ∧ decodePattern w = .ok i
    | .dact .. | .dpre .. | .dpreAll .. | .drd .. | .dwr .. | .dref .. | .drefPb .. | .dnop .. | .dnopEnd .. | .dind .. | .dloop .. =>
      ∃ w v, encode i = [w, v] ∧ decodeChannel (v ++ w) = .ok i
    | i => decode (encode i ++ rest) = .ok i

/-- Each word has one meaning: where the parcels of an instruction, pattern or channel word decode to a well-formed word, they are that
word's encoding. -/
def Obligations.DecodingIsUnambiguous : Prop :=
  ∀ (i : Instr) (ps : List Word32) (w v : Word32), i.wf = true →
    (decode ps = .ok i → ps.take (encode i).length = encode i ∧ (encode i).length = parcelsOf (ps.headD 0)) ∧
    (decodePattern w = .ok i → encode i = [w]) ∧
    (decodeChannel (v ++ w) = .ok i → encode i = [w, v])

/-! ### The whole machine -/

/-- Nothing stops this machine: every instruction answers a next state in every state, and so does every step. -/
def Obligations.NothingStopsTheMachine : Prop := (∀ (i : Instr) (s : State), ∃ t, exec i s = .next t) ∧ ∀ s, Safe s

/-- Every step keeps every memory in its canonical form, so that equal memories stay equal data: package, host and domain memory, every core's
scratchpad and control memory, those sealed for a launch or kept for a world; and the lines that wait at each inbound port keep numbers of
their own. -/
def Obligations.StepKeepsMemoriesCanonical : Prop := ∀ s t : State, s.Canonical → step s = .next t → t.Canonical

/-- Reset leaves every memory in its canonical form, and no line at any inbound port. -/
def Obligations.ResetIsCanonical : Prop := State.reset.Canonical ∧
  ∀ p, (getCore State.reset p).Canonical ∧ (getCore State.reset p).inbound = []

/-- R14, R17, R19, R57, R123, R237, Table 1.2: at reset CYC is 0; every s and a register is 0 and static, every jump-target, vector and
handle register 0; control memory is zero with every word static, package memory zero; FRAMELOG2 has its default of 16; the core's
queues are empty. m0 reads all ones. The step from it releases the package. That registers, static bits and handles have at reset the values
of a launch's start (log 3), that unwritten scratchpad and package memory read zero (log 2), and FRAMELOG2's 16 (log 83) are the model's
choices. -/
def Obligations.ResetState : Prop :=
  let s := State.reset
  s.cyc = 0 ∧ s.frameLog2 = 16 ∧ s.boot = .off ∧ (∀ a, memGet s.pkg a = 0) ∧
  (∀ p,
    let c := getCore s p
    (∀ q r, readReg c q r = ⟨0, true⟩) ∧ (∀ q j, readJt c q j = 0) ∧ (∀ v i, laneAt (readVec c v) i = 0) ∧ readMask c 0 = BitVec.allOnes 128 ∧
    (∀ m, m ≠ 0 → readMask c m = 0) ∧ (∀ h, readHandle c h = 0) ∧ c.regs.warn = 0 ∧ (∀ a, memGet c.ctl a = 0) ∧ (∀ a, ctlStatic c a = true) ∧
    (∀ cyc a, spadNow c cyc a 1 = [0]) ∧ c.lq = Queue.zero ∧ c.sq = Queue.zero ∧ c.launch = none) ∧
  (∀ w, (getWorld s w).enabled = false ∧ (getWorld s w).tdisp = .unlocked) ∧
  step s = exec .packageResetRelease s
end

