-- ==== Sys2Proof/Laws/Maps.lean ====
section
/-!
SUPPORT. Sparse maps and memories: what is read after a write, and that every write keeps the canonical form.
-/

namespace Sys2Proof.Machine

open Sys2Proof

variable {α : Type}

/-- A map that does not list a key reads as its default there. -/
theorem smGet_unlisted (d : α) (m : SMap α) (k : Nat) (h : ∀ e ∈ m, e.1 ≠ k) : smGet d m k = d := by
  induction m with
  | nil => rfl
  | cons e m ih =>
    obtain ⟨j, v⟩ := e
    have hj : j ≠ k := h (j, v) (by simp)
    simp only [smGet, hj, if_false]
    exact ih fun e he => h e (by simp [he])

/-- Reading past a part of a map that does not list the key. -/
theorem smGet_append_unlisted (d : α) (m n : SMap α) (k : Nat) (h : ∀ e ∈ m, e.1 ≠ k) : smGet d (m ++ n) k = smGet d n k := by
  induction m with
  | nil => rfl
  | cons e m ih =>
    obtain ⟨j, v⟩ := e
    have hj : j ≠ k := h (j, v) (by simp)
    simp only [List.cons_append, smGet, hj, if_false]
    exact ih fun e he => h e (by simp [he])

/-- Entries of other keys do not matter to a read. -/
theorem smGet_filter (d : α) (m : SMap α) (k : Nat) (p : Nat → Bool) (h : p k = true) :
    smGet d (m.filter fun e => p e.1) k = smGet d m k := by
  induction m with
  | nil => rfl
  | cons e m ih =>
    obtain ⟨j, v⟩ := e
    by_cases hj : j = k
    · subst hj; simp [h, smGet]
    · by_cases hp : p j = true <;> simp [hp, smGet, hj, ih]

/-- A part of a map that ends before the key, with the rest: a read of a key that the first part cannot list. -/
theorem smGet_append_of_listed (d : α) (m n : SMap α) (k : Nat) (h : ∀ e ∈ n, e.1 ≠ k) : smGet d (m ++ n) k = smGet d m k := by
  induction m with
  | nil => exact smGet_unlisted d n k h
  | cons e m ih =>
    obtain ⟨j, v⟩ := e
    by_cases hj : j = k <;> simp [smGet, hj, ih]

/-- A read at the key just written gives the value written. -/
@[simp] theorem smGet_smSet_same [DecidableEq α] (d : α) (m : SMap α) (k : Nat) (v : α) : smGet d (smSet d m k v) k = v := by
  rw [smSet, List.append_assoc, smGet_append_unlisted d _ _ k (by
    intro e he; have := (List.mem_filter.mp he).2; simp at this; omega)]
  by_cases hv : v = d
  · simp only [hv, if_true, List.nil_append]
    exact smGet_unlisted d _ k (by intro e he; have := (List.mem_filter.mp he).2; simp at this; omega)
  · simp [hv, smGet]

/-- A write leaves every other key alone. -/
theorem smGet_smSet_ne [DecidableEq α] (d : α) (m : SMap α) (k j : Nat) (v : α) (h : j ≠ k) :
    smGet d (smSet d m k v) j = smGet d m j := by
  have hmid : ∀ e ∈ (if v = d then ([] : SMap α) else [(k, v)]), e.1 ≠ j := by
    intro e he; split at he <;> simp_all; exact fun h' => h h'.symm
  rw [smSet]
  rcases Nat.lt_or_gt_of_ne h with hl | hg
  · rw [List.append_assoc, smGet_append_of_listed, smGet_filter d m j (fun i => decide (i < k)) (by simp [hl])]
    intro e he
    rcases List.mem_append.mp he with he | he
    · exact hmid e he
    · have := (List.mem_filter.mp he).2; simp at this; omega
  · rw [smGet_append_unlisted, smGet_filter d m j (fun i => decide (k < i)) (by simp [hg])]
    intro e he
    rcases List.mem_append.mp he with he | he
    · have := (List.mem_filter.mp he).2; simp at this; omega
    · exact hmid e he

/-- A read at any key after a write. -/
theorem smGet_smSet [DecidableEq α] (d : α) (m : SMap α) (k j : Nat) (v : α) :
    smGet d (smSet d m k v) j = if j = k then v else smGet d m j := by
  split
  · subst_vars; simp
  · exact smGet_smSet_ne d m k j v ‹_›

/-! ### The canonical form -/

/-- Rising keys, as a relation between every two entries. -/
theorem keysRise_iff (m : SMap α) : keysRise m = true ↔ m.Pairwise fun a b => a.1 < b.1 := by
  induction m with
  | nil => simp [keysRise]
  | cons e m ih =>
    obtain ⟨j, v⟩ := e
    cases m with
    | nil => simp [keysRise]
    | cons f m =>
      obtain ⟨k, w⟩ := f
      simp only [keysRise, Bool.and_eq_true, decide_eq_true_eq, ih, List.pairwise_cons]
      constructor
      · rintro ⟨h, h2, h3⟩
        refine ⟨?_, h2, h3⟩
        intro a ha
        rcases List.mem_cons.mp ha with rfl | ha
        · exact h
        · exact Nat.lt_trans h (h2 a ha)
      · rintro ⟨h, h2⟩
        exact ⟨h (k, w) (by simp), h2⟩

/-- The canonical form, as a relation between entries. -/
theorem smWf_iff [DecidableEq α] (d : α) (m : SMap α) :
    smWf d m = true ↔ (m.Pairwise fun a b => a.1 < b.1) ∧ ∀ e ∈ m, e.2 ≠ d := by
  simp [smWf, keysRise_iff]

/-- A canonical map stays canonical when one key is written. -/
theorem smSet_wf [DecidableEq α] (d : α) (m : SMap α) (k : Nat) (v : α) (h : smWf d m = true) : smWf d (smSet d m k v) = true := by
  rw [smWf_iff] at h ⊢
  obtain ⟨hp, hd⟩ := h
  refine ⟨?_, ?_⟩
  · rw [smSet, List.append_assoc]
    refine List.pairwise_append.mpr ⟨hp.filter _, List.pairwise_append.mpr ⟨?_, hp.filter _, ?_⟩, ?_⟩
    · split <;> simp
    · intro a ha b hb
      have hb := (List.mem_filter.mp hb).2
      split at ha <;> simp_all
    · intro a ha b hb
      have ha := (List.mem_filter.mp ha).2
      rcases List.mem_append.mp hb with hb | hb
      · split at hb <;> simp_all
      · have hb := (List.mem_filter.mp hb).2
        simp at ha hb; omega
  · intro e he
    rw [smSet] at he
    simp only [List.mem_append, List.mem_filter] at he
    rcases he with (⟨he, _⟩ | he) | ⟨he, _⟩
    · exact hd e he
    · split at he <;> simp_all
    · exact hd e he

/-- The empty map is canonical. -/
@[simp] theorem smWf_nil [DecidableEq α] (d : α) : smWf d ([] : SMap α) = true := rfl

/-! ### Memories -/

/-- The addresses of cells made from bytes lie in the bytes' range, and no cell is blank. -/
theorem cellsOf_mem (a : Nat) (bs : List Byte) (e : Host.Cell) (h : e ∈ cellsOf a bs) :
    a ≤ e.1 ∧ e.1 < a + bs.length ∧ e.2 ≠ Memory.blank := by
  induction bs generalizing a with
  | nil => simp [cellsOf] at h
  | cons b bs ih =>
    simp only [cellsOf] at h
    split at h
    · have := ih (a + 1) h
      exact ⟨by omega, by simp only [List.length_cons]; omega, this.2.2⟩
    · rcases List.mem_cons.mp h with rfl | h
      · exact ⟨Nat.le_refl _, by simp, ‹_›⟩
      · have := ih (a + 1) h
        exact ⟨by omega, by simp only [List.length_cons]; omega, this.2.2⟩

/-- Cells made from bytes rise. -/
theorem cellsOf_rise (a : Nat) (bs : List Byte) : (cellsOf a bs).Pairwise fun x y => x.1 < y.1 := by
  induction bs generalizing a with
  | nil => simp [cellsOf]
  | cons b bs ih =>
    simp only [cellsOf]
    split
    · exact ih (a + 1)
    · refine List.pairwise_cons.mpr ⟨?_, ih (a + 1)⟩
      intro e he
      have := cellsOf_mem (a + 1) bs e he
      simp; omega

/-- What cells made from bytes read as inside their range. -/
theorem smGet_cellsOf (a : Nat) (bs : List Byte) (i : Nat) (h : i < bs.length) :
    smGet Memory.blank (cellsOf a bs) (a + i) = bs.getD i Memory.blank := by
  induction bs generalizing a i with
  | nil => simp at h
  | cons b bs ih =>
    simp only [cellsOf]
    cases i with
    | zero =>
      split
      · rename_i hb
        rw [smGet_unlisted]
        · simp [hb]
        · intro e he; have := cellsOf_mem (a + 1) bs e he; omega
      · simp [smGet]
    | succ i =>
      have hi : i < bs.length := by simpa using h
      have he : a + (i + 1) = a + 1 + i := by omega
      rw [he]
      split
      · rw [ih (a + 1) i hi]; simp
      · have hne : ¬ a = a + 1 + i := by omega
        simp only [smGet, hne, if_false]
        rw [ih (a + 1) i hi]; simp

/-- A byte inside a range just written is the byte written. -/
theorem memGet_memWrite_in (m : List Host.Cell) (a i : Nat) (bs : List Byte) (h : i < bs.length) :
    memGet (memWrite m a bs) (a + i) = bs.getD i Memory.blank := by
  rw [memGet, memWrite, List.append_assoc, smGet_append_unlisted _ _ _ _ (by
    intro e he; have := (List.mem_filter.mp he).2; simp at this; omega), smGet_append_of_listed]
  · exact smGet_cellsOf a bs i h
  · intro e he; have := (List.mem_filter.mp he).2; simp at this; omega

/-- A byte outside a range just written is as before. -/
theorem memGet_memWrite_out (m : List Host.Cell) (a j : Nat) (bs : List Byte) (h : j < a ∨ a + bs.length ≤ j) :
    memGet (memWrite m a bs) j = memGet m j := by
  have hmid : ∀ e ∈ cellsOf a bs, e.1 ≠ j := by
    intro e he; have := cellsOf_mem a bs e he; omega
  rw [memGet, memGet, memWrite]
  rcases h with h | h
  · rw [List.append_assoc, smGet_append_of_listed, smGet_filter _ m j (fun i => decide (i < a)) (by simp [h])]
    intro e he
    rcases List.mem_append.mp he with he | he
    · exact hmid e he
    · have := (List.mem_filter.mp he).2; simp at this; omega
  · rw [smGet_append_unlisted, smGet_filter _ m j (fun i => decide (a + bs.length ≤ i)) (by simp [h])]
    intro e he
    rcases List.mem_append.mp he with he | he
    · have := (List.mem_filter.mp he).2; simp at this; omega
    · exact hmid e he

/-- A zeroed byte reads as a byte that nothing has written; any other is as before. -/
theorem memGet_memZero (m : List Host.Cell) (a n j : Nat) :
    memGet (memZero m a n) j = if a ≤ j ∧ j < a + n then Memory.blank else memGet m j := by
  rw [memGet, memGet, memZero]
  split
  · rename_i h
    apply smGet_unlisted
    intro e he
    rcases List.mem_append.mp he with he | he <;> have := (List.mem_filter.mp he).2 <;> simp at this <;> omega
  · rename_i h
    by_cases hl : j < a
    · rw [smGet_append_of_listed, smGet_filter _ m j (fun i => decide (i < a)) (by simp [hl])]
      intro e he; have := (List.mem_filter.mp he).2; simp at this; omega
    · have hg : a + n ≤ j := by omega
      rw [smGet_append_unlisted, smGet_filter _ m j (fun i => decide (a + n ≤ i)) (by simp [hg])]
      intro e he; have := (List.mem_filter.mp he).2; simp at this; omega

/-- Memory.wf as a relation between cells. -/
theorem Memory.wf_iff (m : List Host.Cell) :
    Memory.wf m = true ↔ (m.Pairwise fun a b => a.1 < b.1) ∧ ∀ e ∈ m, e.2 ≠ Memory.blank := smWf_iff _ m

/-- The empty memory is canonical. -/
@[simp] theorem Memory.wf_nil : Memory.wf [] = true := rfl

/-- A write of bytes keeps the canonical form. -/
theorem memWrite_wf (m : List Host.Cell) (a : Nat) (bs : List Byte) (h : Memory.wf m = true) : Memory.wf (memWrite m a bs) = true := by
  rw [Memory.wf_iff] at h ⊢
  obtain ⟨hp, hd⟩ := h
  refine ⟨?_, ?_⟩
  · rw [memWrite, List.append_assoc]
    refine List.pairwise_append.mpr ⟨hp.filter _, List.pairwise_append.mpr ⟨cellsOf_rise a bs, hp.filter _, ?_⟩, ?_⟩
    · intro x hx y hy
      have hx := cellsOf_mem a bs x hx
      have hy := (List.mem_filter.mp hy).2
      simp at hy; omega
    · intro x hx y hy
      have hx := (List.mem_filter.mp hx).2
      simp at hx
      rcases List.mem_append.mp hy with hy | hy
      · have hy := cellsOf_mem a bs y hy; omega
      · have hy := (List.mem_filter.mp hy).2; simp at hy; omega
  · intro e he
    rw [memWrite] at he
    simp only [List.mem_append, List.mem_filter] at he
    rcases he with (⟨he, _⟩ | he) | ⟨he, _⟩
    · exact hd e he
    · exact (cellsOf_mem a bs e he).2.2
    · exact hd e he

/-- Zeroing a range keeps the canonical form. -/
theorem memZero_wf (m : List Host.Cell) (a n : Nat) (h : Memory.wf m = true) : Memory.wf (memZero m a n) = true := by
  rw [Memory.wf_iff] at h ⊢
  obtain ⟨hp, hd⟩ := h
  refine ⟨?_, ?_⟩
  · rw [memZero]
    refine List.pairwise_append.mpr ⟨hp.filter _, hp.filter _, ?_⟩
    intro x hx y hy
    have hx := (List.mem_filter.mp hx).2
    have hy := (List.mem_filter.mp hy).2
    simp at hx hy; omega
  · intro e he
    rw [memZero] at he
    simp only [List.mem_append, List.mem_filter] at he
    rcases he with ⟨he, _⟩ | ⟨he, _⟩ <;> exact hd e he

end Sys2Proof.Machine
end

