-- ==== Sys2Proof/Laws/State.lean ====
section
/-!
SUPPORT. What each update of the state leaves as it was, field by field, and what the parts of the state read as after an update.
-/

namespace Sys2Proof.Machine

open Sys2Proof


/-! ### setCore -/

@[simp] theorem setCore_cyc (s : State) (p : Nat) (c : Core) : (setCore s p c).cyc = s.cyc := rfl
@[simp] theorem setCore_dtime (s : State) (p : Nat) (c : Core) : (setCore s p c).dtime = s.dtime := rfl
@[simp] theorem setCore_turn (s : State) (p : Nat) (c : Core) : (setCore s p c).turn = s.turn := rfl
@[simp] theorem setCore_ids (s : State) (p : Nat) (c : Core) : (setCore s p c).ids = s.ids := rfl
@[simp] theorem setCore_free (s : State) (p : Nat) (c : Core) : (setCore s p c).free = s.free := rfl
@[simp] theorem setCore_boot (s : State) (p : Nat) (c : Core) : (setCore s p c).boot = s.boot := rfl
@[simp] theorem setCore_frameLog2 (s : State) (p : Nat) (c : Core) : (setCore s p c).frameLog2 = s.frameLog2 := rfl
@[simp] theorem setCore_chans (s : State) (p : Nat) (c : Core) : (setCore s p c).chans = s.chans := rfl
@[simp] theorem setCore_rows (s : State) (p : Nat) (c : Core) : (setCore s p c).rows = s.rows := rfl
@[simp] theorem setCore_colls (s : State) (p : Nat) (c : Core) : (setCore s p c).colls = s.colls := rfl
@[simp] theorem setCore_launches (s : State) (p : Nat) (c : Core) : (setCore s p c).launches = s.launches := rfl
@[simp] theorem setCore_worlds (s : State) (p : Nat) (c : Core) : (setCore s p c).worlds = s.worlds := rfl
@[simp] theorem setCore_keys (s : State) (p : Nat) (c : Core) : (setCore s p c).keys = s.keys := rfl
@[simp] theorem setCore_casks (s : State) (p : Nat) (c : Core) : (setCore s p c).casks = s.casks := rfl
@[simp] theorem setCore_owed (s : State) (p : Nat) (c : Core) : (setCore s p c).owed = s.owed := rfl
@[simp] theorem setCore_throttle (s : State) (p : Nat) (c : Core) : (setCore s p c).throttle = s.throttle := rfl
@[simp] theorem setCore_hottest (s : State) (p : Nat) (c : Core) : (setCore s p c).hottest = s.hottest := rfl
@[simp] theorem setCore_cool (s : State) (p : Nat) (c : Core) : (setCore s p c).cool = s.cool := rfl
@[simp] theorem setCore_reached (s : State) (p : Nat) (c : Core) : (setCore s p c).reached = s.reached := rfl
@[simp] theorem setCore_pkg (s : State) (p : Nat) (c : Core) : (setCore s p c).pkg = s.pkg := rfl
@[simp] theorem setCore_side (s : State) (p : Nat) (c : Core) : (setCore s p c).side = s.side := rfl
@[simp] theorem setCore_fixes (s : State) (p : Nat) (c : Core) : (setCore s p c).fixes = s.fixes := rfl
@[simp] theorem setCore_frameTable (s : State) (p : Nat) (c : Core) : (setCore s p c).frameTable = s.frameTable := rfl
@[simp] theorem setCore_rewrites (s : State) (p : Nat) (c : Core) : (setCore s p c).rewrites = s.rewrites := rfl
@[simp] theorem setCore_badRows (s : State) (p : Nat) (c : Core) : (setCore s p c).badRows = s.badRows := rfl
@[simp] theorem setCore_host (s : State) (p : Nat) (c : Core) : (setCore s p c).host = s.host := rfl
@[simp] theorem setCore_domainMem (s : State) (p : Nat) (c : Core) : (setCore s p c).domainMem = s.domainMem := rfl
@[simp] theorem setCore_inbox (s : State) (p : Nat) (c : Core) : (setCore s p c).inbox = s.inbox := rfl
@[simp] theorem setCore_outbox (s : State) (p : Nat) (c : Core) : (setCore s p c).outbox = s.outbox := rfl
@[simp] theorem setCore_domain (s : State) (p : Nat) (c : Core) : (setCore s p c).domain = s.domain := rfl
@[simp] theorem setCore_linkKeys (s : State) (p : Nat) (c : Core) : (setCore s p c).linkKeys = s.linkKeys := rfl
@[simp] theorem setCore_source (s : State) (p : Nat) (c : Core) : (setCore s p c).source = s.source := rfl
@[simp] theorem setCore_locked (s : State) (p : Nat) (c : Core) : (setCore s p c).locked = s.locked := rfl
@[simp] theorem setCore_groups (s : State) (p : Nat) (c : Core) : (setCore s p c).groups = s.groups := rfl
@[simp] theorem setCore_devMacKey (s : State) (p : Nat) (c : Core) : (setCore s p c).devMacKey = s.devMacKey := rfl
@[simp] theorem setCore_flash (s : State) (p : Nat) (c : Core) : (setCore s p c).flash = s.flash := rfl
@[simp] theorem setCore_rcvWindow (s : State) (p : Nat) (c : Core) : (setCore s p c).rcvWindow = s.rcvWindow := rfl
@[simp] theorem setCore_minSvn (s : State) (p : Nat) (c : Core) : (setCore s p c).minSvn = s.minSvn := rfl
@[simp] theorem setCore_meas (s : State) (p : Nat) (c : Core) : (setCore s p c).meas = s.meas := rfl
@[simp] theorem setCore_devid (s : State) (p : Nat) (c : Core) : (setCore s p c).devid = s.devid := rfl
@[simp] theorem setCore_alias_ (s : State) (p : Nat) (c : Core) : (setCore s p c).alias_ = s.alias_ := rfl
@[simp] theorem setCore_certs (s : State) (p : Nat) (c : Core) : (setCore s p c).certs = s.certs := rfl
@[simp] theorem setCore_session (s : State) (p : Nat) (c : Core) : (setCore s p c).session = s.session := rfl
@[simp] theorem setCore_ports (s : State) (p : Nat) (c : Core) : (setCore s p c).ports = s.ports := rfl
@[simp] theorem setCore_pfLog (s : State) (p : Nat) (c : Core) : (setCore s p c).pfLog = s.pfLog := rfl
@[simp] theorem setCore_off (s : State) (p : Nat) (c : Core) : (setCore s p c).off = s.off := rfl
@[simp] theorem setCore_frameDone (s : State) (p : Nat) (c : Core) : (setCore s p c).frameDone = s.frameDone := rfl
@[simp] theorem setCore_gapDone (s : State) (p : Nat) (c : Core) : (setCore s p c).gapDone = s.gapDone := rfl

/-! ### updCore -/

@[simp] theorem updCore_cyc (s : State) (p : Nat) (f : Core → Core) : (updCore s p f).cyc = s.cyc := rfl
@[simp] theorem updCore_dtime (s : State) (p : Nat) (f : Core → Core) : (updCore s p f).dtime = s.dtime := rfl
@[simp] theorem updCore_turn (s : State) (p : Nat) (f : Core → Core) : (updCore s p f).turn = s.turn := rfl
@[simp] theorem updCore_ids (s : State) (p : Nat) (f : Core → Core) : (updCore s p f).ids = s.ids := rfl
@[simp] theorem updCore_free (s : State) (p : Nat) (f : Core → Core) : (updCore s p f).free = s.free := rfl
@[simp] theorem updCore_boot (s : State) (p : Nat) (f : Core → Core) : (updCore s p f).boot = s.boot := rfl
@[simp] theorem updCore_frameLog2 (s : State) (p : Nat) (f : Core → Core) : (updCore s p f).frameLog2 = s.frameLog2 := rfl
@[simp] theorem updCore_chans (s : State) (p : Nat) (f : Core → Core) : (updCore s p f).chans = s.chans := rfl
@[simp] theorem updCore_rows (s : State) (p : Nat) (f : Core → Core) : (updCore s p f).rows = s.rows := rfl
@[simp] theorem updCore_colls (s : State) (p : Nat) (f : Core → Core) : (updCore s p f).colls = s.colls := rfl
@[simp] theorem updCore_launches (s : State) (p : Nat) (f : Core → Core) : (updCore s p f).launches = s.launches := rfl
@[simp] theorem updCore_worlds (s : State) (p : Nat) (f : Core → Core) : (updCore s p f).worlds = s.worlds := rfl
@[simp] theorem updCore_keys (s : State) (p : Nat) (f : Core → Core) : (updCore s p f).keys = s.keys := rfl
@[simp] theorem updCore_casks (s : State) (p : Nat) (f : Core → Core) : (updCore s p f).casks = s.casks := rfl
@[simp] theorem updCore_owed (s : State) (p : Nat) (f : Core → Core) : (updCore s p f).owed = s.owed := rfl
@[simp] theorem updCore_throttle (s : State) (p : Nat) (f : Core → Core) : (updCore s p f).throttle = s.throttle := rfl
@[simp] theorem updCore_hottest (s : State) (p : Nat) (f : Core → Core) : (updCore s p f).hottest = s.hottest := rfl
@[simp] theorem updCore_cool (s : State) (p : Nat) (f : Core → Core) : (updCore s p f).cool = s.cool := rfl
@[simp] theorem updCore_reached (s : State) (p : Nat) (f : Core → Core) : (updCore s p f).reached = s.reached := rfl
@[simp] theorem updCore_pkg (s : State) (p : Nat) (f : Core → Core) : (updCore s p f).pkg = s.pkg := rfl
@[simp] theorem updCore_side (s : State) (p : Nat) (f : Core → Core) : (updCore s p f).side = s.side := rfl
@[simp] theorem updCore_fixes (s : State) (p : Nat) (f : Core → Core) : (updCore s p f).fixes = s.fixes := rfl
@[simp] theorem updCore_frameTable (s : State) (p : Nat) (f : Core → Core) : (updCore s p f).frameTable = s.frameTable := rfl
@[simp] theorem updCore_rewrites (s : State) (p : Nat) (f : Core → Core) : (updCore s p f).rewrites = s.rewrites := rfl
@[simp] theorem updCore_badRows (s : State) (p : Nat) (f : Core → Core) : (updCore s p f).badRows = s.badRows := rfl
@[simp] theorem updCore_host (s : State) (p : Nat) (f : Core → Core) : (updCore s p f).host = s.host := rfl
@[simp] theorem updCore_domainMem (s : State) (p : Nat) (f : Core → Core) : (updCore s p f).domainMem = s.domainMem := rfl
@[simp] theorem updCore_inbox (s : State) (p : Nat) (f : Core → Core) : (updCore s p f).inbox = s.inbox := rfl
@[simp] theorem updCore_outbox (s : State) (p : Nat) (f : Core → Core) : (updCore s p f).outbox = s.outbox := rfl
@[simp] theorem updCore_domain (s : State) (p : Nat) (f : Core → Core) : (updCore s p f).domain = s.domain := rfl
@[simp] theorem updCore_linkKeys (s : State) (p : Nat) (f : Core → Core) : (updCore s p f).linkKeys = s.linkKeys := rfl
@[simp] theorem updCore_source (s : State) (p : Nat) (f : Core → Core) : (updCore s p f).source = s.source := rfl
@[simp] theorem updCore_locked (s : State) (p : Nat) (f : Core → Core) : (updCore s p f).locked = s.locked := rfl
@[simp] theorem updCore_groups (s : State) (p : Nat) (f : Core → Core) : (updCore s p f).groups = s.groups := rfl
@[simp] theorem updCore_devMacKey (s : State) (p : Nat) (f : Core → Core) : (updCore s p f).devMacKey = s.devMacKey := rfl
@[simp] theorem updCore_flash (s : State) (p : Nat) (f : Core → Core) : (updCore s p f).flash = s.flash := rfl
@[simp] theorem updCore_rcvWindow (s : State) (p : Nat) (f : Core → Core) : (updCore s p f).rcvWindow = s.rcvWindow := rfl
@[simp] theorem updCore_minSvn (s : State) (p : Nat) (f : Core → Core) : (updCore s p f).minSvn = s.minSvn := rfl
@[simp] theorem updCore_meas (s : State) (p : Nat) (f : Core → Core) : (updCore s p f).meas = s.meas := rfl
@[simp] theorem updCore_devid (s : State) (p : Nat) (f : Core → Core) : (updCore s p f).devid = s.devid := rfl
@[simp] theorem updCore_alias_ (s : State) (p : Nat) (f : Core → Core) : (updCore s p f).alias_ = s.alias_ := rfl
@[simp] theorem updCore_certs (s : State) (p : Nat) (f : Core → Core) : (updCore s p f).certs = s.certs := rfl
@[simp] theorem updCore_session (s : State) (p : Nat) (f : Core → Core) : (updCore s p f).session = s.session := rfl
@[simp] theorem updCore_ports (s : State) (p : Nat) (f : Core → Core) : (updCore s p f).ports = s.ports := rfl
@[simp] theorem updCore_pfLog (s : State) (p : Nat) (f : Core → Core) : (updCore s p f).pfLog = s.pfLog := rfl
@[simp] theorem updCore_off (s : State) (p : Nat) (f : Core → Core) : (updCore s p f).off = s.off := rfl
@[simp] theorem updCore_frameDone (s : State) (p : Nat) (f : Core → Core) : (updCore s p f).frameDone = s.frameDone := rfl
@[simp] theorem updCore_gapDone (s : State) (p : Nat) (f : Core → Core) : (updCore s p f).gapDone = s.gapDone := rfl

/-! ### setChan -/

@[simp] theorem setChan_cyc (s : State) (n : Nat) (c : Channel) : (setChan s n c).cyc = s.cyc := rfl
@[simp] theorem setChan_dtime (s : State) (n : Nat) (c : Channel) : (setChan s n c).dtime = s.dtime := rfl
@[simp] theorem setChan_turn (s : State) (n : Nat) (c : Channel) : (setChan s n c).turn = s.turn := rfl
@[simp] theorem setChan_ids (s : State) (n : Nat) (c : Channel) : (setChan s n c).ids = s.ids := rfl
@[simp] theorem setChan_free (s : State) (n : Nat) (c : Channel) : (setChan s n c).free = s.free := rfl
@[simp] theorem setChan_boot (s : State) (n : Nat) (c : Channel) : (setChan s n c).boot = s.boot := rfl
@[simp] theorem setChan_frameLog2 (s : State) (n : Nat) (c : Channel) : (setChan s n c).frameLog2 = s.frameLog2 := rfl
@[simp] theorem setChan_cores (s : State) (n : Nat) (c : Channel) : (setChan s n c).cores = s.cores := rfl
@[simp] theorem setChan_rows (s : State) (n : Nat) (c : Channel) : (setChan s n c).rows = s.rows := rfl
@[simp] theorem setChan_colls (s : State) (n : Nat) (c : Channel) : (setChan s n c).colls = s.colls := rfl
@[simp] theorem setChan_launches (s : State) (n : Nat) (c : Channel) : (setChan s n c).launches = s.launches := rfl
@[simp] theorem setChan_worlds (s : State) (n : Nat) (c : Channel) : (setChan s n c).worlds = s.worlds := rfl
@[simp] theorem setChan_keys (s : State) (n : Nat) (c : Channel) : (setChan s n c).keys = s.keys := rfl
@[simp] theorem setChan_casks (s : State) (n : Nat) (c : Channel) : (setChan s n c).casks = s.casks := rfl
@[simp] theorem setChan_owed (s : State) (n : Nat) (c : Channel) : (setChan s n c).owed = s.owed := rfl
@[simp] theorem setChan_throttle (s : State) (n : Nat) (c : Channel) : (setChan s n c).throttle = s.throttle := rfl
@[simp] theorem setChan_hottest (s : State) (n : Nat) (c : Channel) : (setChan s n c).hottest = s.hottest := rfl
@[simp] theorem setChan_cool (s : State) (n : Nat) (c : Channel) : (setChan s n c).cool = s.cool := rfl
@[simp] theorem setChan_reached (s : State) (n : Nat) (c : Channel) : (setChan s n c).reached = s.reached := rfl
@[simp] theorem setChan_pkg (s : State) (n : Nat) (c : Channel) : (setChan s n c).pkg = s.pkg := rfl
@[simp] theorem setChan_side (s : State) (n : Nat) (c : Channel) : (setChan s n c).side = s.side := rfl
@[simp] theorem setChan_fixes (s : State) (n : Nat) (c : Channel) : (setChan s n c).fixes = s.fixes := rfl
@[simp] theorem setChan_frameTable (s : State) (n : Nat) (c : Channel) : (setChan s n c).frameTable = s.frameTable := rfl
@[simp] theorem setChan_rewrites (s : State) (n : Nat) (c : Channel) : (setChan s n c).rewrites = s.rewrites := rfl
@[simp] theorem setChan_badRows (s : State) (n : Nat) (c : Channel) : (setChan s n c).badRows = s.badRows := rfl
@[simp] theorem setChan_host (s : State) (n : Nat) (c : Channel) : (setChan s n c).host = s.host := rfl
@[simp] theorem setChan_domainMem (s : State) (n : Nat) (c : Channel) : (setChan s n c).domainMem = s.domainMem := rfl
@[simp] theorem setChan_inbox (s : State) (n : Nat) (c : Channel) : (setChan s n c).inbox = s.inbox := rfl
@[simp] theorem setChan_outbox (s : State) (n : Nat) (c : Channel) : (setChan s n c).outbox = s.outbox := rfl
@[simp] theorem setChan_domain (s : State) (n : Nat) (c : Channel) : (setChan s n c).domain = s.domain := rfl
@[simp] theorem setChan_linkKeys (s : State) (n : Nat) (c : Channel) : (setChan s n c).linkKeys = s.linkKeys := rfl
@[simp] theorem setChan_source (s : State) (n : Nat) (c : Channel) : (setChan s n c).source = s.source := rfl
@[simp] theorem setChan_locked (s : State) (n : Nat) (c : Channel) : (setChan s n c).locked = s.locked := rfl
@[simp] theorem setChan_groups (s : State) (n : Nat) (c : Channel) : (setChan s n c).groups = s.groups := rfl
@[simp] theorem setChan_devMacKey (s : State) (n : Nat) (c : Channel) : (setChan s n c).devMacKey = s.devMacKey := rfl
@[simp] theorem setChan_flash (s : State) (n : Nat) (c : Channel) : (setChan s n c).flash = s.flash := rfl
@[simp] theorem setChan_rcvWindow (s : State) (n : Nat) (c : Channel) : (setChan s n c).rcvWindow = s.rcvWindow := rfl
@[simp] theorem setChan_minSvn (s : State) (n : Nat) (c : Channel) : (setChan s n c).minSvn = s.minSvn := rfl
@[simp] theorem setChan_meas (s : State) (n : Nat) (c : Channel) : (setChan s n c).meas = s.meas := rfl
@[simp] theorem setChan_devid (s : State) (n : Nat) (c : Channel) : (setChan s n c).devid = s.devid := rfl
@[simp] theorem setChan_alias_ (s : State) (n : Nat) (c : Channel) : (setChan s n c).alias_ = s.alias_ := rfl
@[simp] theorem setChan_certs (s : State) (n : Nat) (c : Channel) : (setChan s n c).certs = s.certs := rfl
@[simp] theorem setChan_session (s : State) (n : Nat) (c : Channel) : (setChan s n c).session = s.session := rfl
@[simp] theorem setChan_ports (s : State) (n : Nat) (c : Channel) : (setChan s n c).ports = s.ports := rfl
@[simp] theorem setChan_pfLog (s : State) (n : Nat) (c : Channel) : (setChan s n c).pfLog = s.pfLog := rfl
@[simp] theorem setChan_off (s : State) (n : Nat) (c : Channel) : (setChan s n c).off = s.off := rfl
@[simp] theorem setChan_frameDone (s : State) (n : Nat) (c : Channel) : (setChan s n c).frameDone = s.frameDone := rfl
@[simp] theorem setChan_gapDone (s : State) (n : Nat) (c : Channel) : (setChan s n c).gapDone = s.gapDone := rfl

/-! ### setLaunch -/

@[simp] theorem setLaunch_cyc (s : State) (n : Nat) (l : Launch) : (setLaunch s n l).cyc = s.cyc := rfl
@[simp] theorem setLaunch_dtime (s : State) (n : Nat) (l : Launch) : (setLaunch s n l).dtime = s.dtime := rfl
@[simp] theorem setLaunch_turn (s : State) (n : Nat) (l : Launch) : (setLaunch s n l).turn = s.turn := rfl
@[simp] theorem setLaunch_ids (s : State) (n : Nat) (l : Launch) : (setLaunch s n l).ids = s.ids := rfl
@[simp] theorem setLaunch_free (s : State) (n : Nat) (l : Launch) : (setLaunch s n l).free = s.free := rfl
@[simp] theorem setLaunch_boot (s : State) (n : Nat) (l : Launch) : (setLaunch s n l).boot = s.boot := rfl
@[simp] theorem setLaunch_frameLog2 (s : State) (n : Nat) (l : Launch) : (setLaunch s n l).frameLog2 = s.frameLog2 := rfl
@[simp] theorem setLaunch_cores (s : State) (n : Nat) (l : Launch) : (setLaunch s n l).cores = s.cores := rfl
@[simp] theorem setLaunch_chans (s : State) (n : Nat) (l : Launch) : (setLaunch s n l).chans = s.chans := rfl
@[simp] theorem setLaunch_rows (s : State) (n : Nat) (l : Launch) : (setLaunch s n l).rows = s.rows := rfl
@[simp] theorem setLaunch_colls (s : State) (n : Nat) (l : Launch) : (setLaunch s n l).colls = s.colls := rfl
@[simp] theorem setLaunch_worlds (s : State) (n : Nat) (l : Launch) : (setLaunch s n l).worlds = s.worlds := rfl
@[simp] theorem setLaunch_keys (s : State) (n : Nat) (l : Launch) : (setLaunch s n l).keys = s.keys := rfl
@[simp] theorem setLaunch_casks (s : State) (n : Nat) (l : Launch) : (setLaunch s n l).casks = s.casks := rfl
@[simp] theorem setLaunch_owed (s : State) (n : Nat) (l : Launch) : (setLaunch s n l).owed = s.owed := rfl
@[simp] theorem setLaunch_throttle (s : State) (n : Nat) (l : Launch) : (setLaunch s n l).throttle = s.throttle := rfl
@[simp] theorem setLaunch_hottest (s : State) (n : Nat) (l : Launch) : (setLaunch s n l).hottest = s.hottest := rfl
@[simp] theorem setLaunch_cool (s : State) (n : Nat) (l : Launch) : (setLaunch s n l).cool = s.cool := rfl
@[simp] theorem setLaunch_reached (s : State) (n : Nat) (l : Launch) : (setLaunch s n l).reached = s.reached := rfl
@[simp] theorem setLaunch_pkg (s : State) (n : Nat) (l : Launch) : (setLaunch s n l).pkg = s.pkg := rfl
@[simp] theorem setLaunch_side (s : State) (n : Nat) (l : Launch) : (setLaunch s n l).side = s.side := rfl
@[simp] theorem setLaunch_fixes (s : State) (n : Nat) (l : Launch) : (setLaunch s n l).fixes = s.fixes := rfl
@[simp] theorem setLaunch_frameTable (s : State) (n : Nat) (l : Launch) : (setLaunch s n l).frameTable = s.frameTable := rfl
@[simp] theorem setLaunch_rewrites (s : State) (n : Nat) (l : Launch) : (setLaunch s n l).rewrites = s.rewrites := rfl
@[simp] theorem setLaunch_badRows (s : State) (n : Nat) (l : Launch) : (setLaunch s n l).badRows = s.badRows := rfl
@[simp] theorem setLaunch_host (s : State) (n : Nat) (l : Launch) : (setLaunch s n l).host = s.host := rfl
@[simp] theorem setLaunch_domainMem (s : State) (n : Nat) (l : Launch) : (setLaunch s n l).domainMem = s.domainMem := rfl
@[simp] theorem setLaunch_inbox (s : State) (n : Nat) (l : Launch) : (setLaunch s n l).inbox = s.inbox := rfl
@[simp] theorem setLaunch_outbox (s : State) (n : Nat) (l : Launch) : (setLaunch s n l).outbox = s.outbox := rfl
@[simp] theorem setLaunch_domain (s : State) (n : Nat) (l : Launch) : (setLaunch s n l).domain = s.domain := rfl
@[simp] theorem setLaunch_linkKeys (s : State) (n : Nat) (l : Launch) : (setLaunch s n l).linkKeys = s.linkKeys := rfl
@[simp] theorem setLaunch_source (s : State) (n : Nat) (l : Launch) : (setLaunch s n l).source = s.source := rfl
@[simp] theorem setLaunch_locked (s : State) (n : Nat) (l : Launch) : (setLaunch s n l).locked = s.locked := rfl
@[simp] theorem setLaunch_groups (s : State) (n : Nat) (l : Launch) : (setLaunch s n l).groups = s.groups := rfl
@[simp] theorem setLaunch_devMacKey (s : State) (n : Nat) (l : Launch) : (setLaunch s n l).devMacKey = s.devMacKey := rfl
@[simp] theorem setLaunch_flash (s : State) (n : Nat) (l : Launch) : (setLaunch s n l).flash = s.flash := rfl
@[simp] theorem setLaunch_rcvWindow (s : State) (n : Nat) (l : Launch) : (setLaunch s n l).rcvWindow = s.rcvWindow := rfl
@[simp] theorem setLaunch_minSvn (s : State) (n : Nat) (l : Launch) : (setLaunch s n l).minSvn = s.minSvn := rfl
@[simp] theorem setLaunch_meas (s : State) (n : Nat) (l : Launch) : (setLaunch s n l).meas = s.meas := rfl
@[simp] theorem setLaunch_devid (s : State) (n : Nat) (l : Launch) : (setLaunch s n l).devid = s.devid := rfl
@[simp] theorem setLaunch_alias_ (s : State) (n : Nat) (l : Launch) : (setLaunch s n l).alias_ = s.alias_ := rfl
@[simp] theorem setLaunch_certs (s : State) (n : Nat) (l : Launch) : (setLaunch s n l).certs = s.certs := rfl
@[simp] theorem setLaunch_session (s : State) (n : Nat) (l : Launch) : (setLaunch s n l).session = s.session := rfl
@[simp] theorem setLaunch_ports (s : State) (n : Nat) (l : Launch) : (setLaunch s n l).ports = s.ports := rfl
@[simp] theorem setLaunch_pfLog (s : State) (n : Nat) (l : Launch) : (setLaunch s n l).pfLog = s.pfLog := rfl
@[simp] theorem setLaunch_off (s : State) (n : Nat) (l : Launch) : (setLaunch s n l).off = s.off := rfl
@[simp] theorem setLaunch_frameDone (s : State) (n : Nat) (l : Launch) : (setLaunch s n l).frameDone = s.frameDone := rfl
@[simp] theorem setLaunch_gapDone (s : State) (n : Nat) (l : Launch) : (setLaunch s n l).gapDone = s.gapDone := rfl

/-! ### setWorld -/

@[simp] theorem setWorld_cyc (s : State) (n : Nat) (w : World) : (setWorld s n w).cyc = s.cyc := rfl
@[simp] theorem setWorld_dtime (s : State) (n : Nat) (w : World) : (setWorld s n w).dtime = s.dtime := rfl
@[simp] theorem setWorld_turn (s : State) (n : Nat) (w : World) : (setWorld s n w).turn = s.turn := rfl
@[simp] theorem setWorld_ids (s : State) (n : Nat) (w : World) : (setWorld s n w).ids = s.ids := rfl
@[simp] theorem setWorld_free (s : State) (n : Nat) (w : World) : (setWorld s n w).free = s.free := rfl
@[simp] theorem setWorld_boot (s : State) (n : Nat) (w : World) : (setWorld s n w).boot = s.boot := rfl
@[simp] theorem setWorld_frameLog2 (s : State) (n : Nat) (w : World) : (setWorld s n w).frameLog2 = s.frameLog2 := rfl
@[simp] theorem setWorld_cores (s : State) (n : Nat) (w : World) : (setWorld s n w).cores = s.cores := rfl
@[simp] theorem setWorld_chans (s : State) (n : Nat) (w : World) : (setWorld s n w).chans = s.chans := rfl
@[simp] theorem setWorld_rows (s : State) (n : Nat) (w : World) : (setWorld s n w).rows = s.rows := rfl
@[simp] theorem setWorld_colls (s : State) (n : Nat) (w : World) : (setWorld s n w).colls = s.colls := rfl
@[simp] theorem setWorld_launches (s : State) (n : Nat) (w : World) : (setWorld s n w).launches = s.launches := rfl
@[simp] theorem setWorld_keys (s : State) (n : Nat) (w : World) : (setWorld s n w).keys = s.keys := rfl
@[simp] theorem setWorld_casks (s : State) (n : Nat) (w : World) : (setWorld s n w).casks = s.casks := rfl
@[simp] theorem setWorld_owed (s : State) (n : Nat) (w : World) : (setWorld s n w).owed = s.owed := rfl
@[simp] theorem setWorld_throttle (s : State) (n : Nat) (w : World) : (setWorld s n w).throttle = s.throttle := rfl
@[simp] theorem setWorld_hottest (s : State) (n : Nat) (w : World) : (setWorld s n w).hottest = s.hottest := rfl
@[simp] theorem setWorld_cool (s : State) (n : Nat) (w : World) : (setWorld s n w).cool = s.cool := rfl
@[simp] theorem setWorld_reached (s : State) (n : Nat) (w : World) : (setWorld s n w).reached = s.reached := rfl
@[simp] theorem setWorld_pkg (s : State) (n : Nat) (w : World) : (setWorld s n w).pkg = s.pkg := rfl
@[simp] theorem setWorld_side (s : State) (n : Nat) (w : World) : (setWorld s n w).side = s.side := rfl
@[simp] theorem setWorld_fixes (s : State) (n : Nat) (w : World) : (setWorld s n w).fixes = s.fixes := rfl
@[simp] theorem setWorld_frameTable (s : State) (n : Nat) (w : World) : (setWorld s n w).frameTable = s.frameTable := rfl
@[simp] theorem setWorld_rewrites (s : State) (n : Nat) (w : World) : (setWorld s n w).rewrites = s.rewrites := rfl
@[simp] theorem setWorld_badRows (s : State) (n : Nat) (w : World) : (setWorld s n w).badRows = s.badRows := rfl
@[simp] theorem setWorld_host (s : State) (n : Nat) (w : World) : (setWorld s n w).host = s.host := rfl
@[simp] theorem setWorld_domainMem (s : State) (n : Nat) (w : World) : (setWorld s n w).domainMem = s.domainMem := rfl
@[simp] theorem setWorld_inbox (s : State) (n : Nat) (w : World) : (setWorld s n w).inbox = s.inbox := rfl
@[simp] theorem setWorld_outbox (s : State) (n : Nat) (w : World) : (setWorld s n w).outbox = s.outbox := rfl
@[simp] theorem setWorld_domain (s : State) (n : Nat) (w : World) : (setWorld s n w).domain = s.domain := rfl
@[simp] theorem setWorld_linkKeys (s : State) (n : Nat) (w : World) : (setWorld s n w).linkKeys = s.linkKeys := rfl
@[simp] theorem setWorld_source (s : State) (n : Nat) (w : World) : (setWorld s n w).source = s.source := rfl
@[simp] theorem setWorld_locked (s : State) (n : Nat) (w : World) : (setWorld s n w).locked = s.locked := rfl
@[simp] theorem setWorld_groups (s : State) (n : Nat) (w : World) : (setWorld s n w).groups = s.groups := rfl
@[simp] theorem setWorld_devMacKey (s : State) (n : Nat) (w : World) : (setWorld s n w).devMacKey = s.devMacKey := rfl
@[simp] theorem setWorld_flash (s : State) (n : Nat) (w : World) : (setWorld s n w).flash = s.flash := rfl
@[simp] theorem setWorld_rcvWindow (s : State) (n : Nat) (w : World) : (setWorld s n w).rcvWindow = s.rcvWindow := rfl
@[simp] theorem setWorld_minSvn (s : State) (n : Nat) (w : World) : (setWorld s n w).minSvn = s.minSvn := rfl
@[simp] theorem setWorld_meas (s : State) (n : Nat) (w : World) : (setWorld s n w).meas = s.meas := rfl
@[simp] theorem setWorld_devid (s : State) (n : Nat) (w : World) : (setWorld s n w).devid = s.devid := rfl
@[simp] theorem setWorld_alias_ (s : State) (n : Nat) (w : World) : (setWorld s n w).alias_ = s.alias_ := rfl
@[simp] theorem setWorld_certs (s : State) (n : Nat) (w : World) : (setWorld s n w).certs = s.certs := rfl
@[simp] theorem setWorld_session (s : State) (n : Nat) (w : World) : (setWorld s n w).session = s.session := rfl
@[simp] theorem setWorld_ports (s : State) (n : Nat) (w : World) : (setWorld s n w).ports = s.ports := rfl
@[simp] theorem setWorld_pfLog (s : State) (n : Nat) (w : World) : (setWorld s n w).pfLog = s.pfLog := rfl
@[simp] theorem setWorld_off (s : State) (n : Nat) (w : World) : (setWorld s n w).off = s.off := rfl
@[simp] theorem setWorld_frameDone (s : State) (n : Nat) (w : World) : (setWorld s n w).frameDone = s.frameDone := rfl
@[simp] theorem setWorld_gapDone (s : State) (n : Nat) (w : World) : (setWorld s n w).gapDone = s.gapDone := rfl

/-! ### updWorld -/

@[simp] theorem updWorld_cyc (s : State) (n : Nat) (f : World → World) : (updWorld s n f).cyc = s.cyc := rfl
@[simp] theorem updWorld_dtime (s : State) (n : Nat) (f : World → World) : (updWorld s n f).dtime = s.dtime := rfl
@[simp] theorem updWorld_turn (s : State) (n : Nat) (f : World → World) : (updWorld s n f).turn = s.turn := rfl
@[simp] theorem updWorld_ids (s : State) (n : Nat) (f : World → World) : (updWorld s n f).ids = s.ids := rfl
@[simp] theorem updWorld_free (s : State) (n : Nat) (f : World → World) : (updWorld s n f).free = s.free := rfl
@[simp] theorem updWorld_boot (s : State) (n : Nat) (f : World → World) : (updWorld s n f).boot = s.boot := rfl
@[simp] theorem updWorld_frameLog2 (s : State) (n : Nat) (f : World → World) : (updWorld s n f).frameLog2 = s.frameLog2 := rfl
@[simp] theorem updWorld_cores (s : State) (n : Nat) (f : World → World) : (updWorld s n f).cores = s.cores := rfl
@[simp] theorem updWorld_chans (s : State) (n : Nat) (f : World → World) : (updWorld s n f).chans = s.chans := rfl
@[simp] theorem updWorld_rows (s : State) (n : Nat) (f : World → World) : (updWorld s n f).rows = s.rows := rfl
@[simp] theorem updWorld_colls (s : State) (n : Nat) (f : World → World) : (updWorld s n f).colls = s.colls := rfl
@[simp] theorem updWorld_launches (s : State) (n : Nat) (f : World → World) : (updWorld s n f).launches = s.launches := rfl
@[simp] theorem updWorld_keys (s : State) (n : Nat) (f : World → World) : (updWorld s n f).keys = s.keys := rfl
@[simp] theorem updWorld_casks (s : State) (n : Nat) (f : World → World) : (updWorld s n f).casks = s.casks := rfl
@[simp] theorem updWorld_owed (s : State) (n : Nat) (f : World → World) : (updWorld s n f).owed = s.owed := rfl
@[simp] theorem updWorld_throttle (s : State) (n : Nat) (f : World → World) : (updWorld s n f).throttle = s.throttle := rfl
@[simp] theorem updWorld_hottest (s : State) (n : Nat) (f : World → World) : (updWorld s n f).hottest = s.hottest := rfl
@[simp] theorem updWorld_cool (s : State) (n : Nat) (f : World → World) : (updWorld s n f).cool = s.cool := rfl
@[simp] theorem updWorld_reached (s : State) (n : Nat) (f : World → World) : (updWorld s n f).reached = s.reached := rfl
@[simp] theorem updWorld_pkg (s : State) (n : Nat) (f : World → World) : (updWorld s n f).pkg = s.pkg := rfl
@[simp] theorem updWorld_side (s : State) (n : Nat) (f : World → World) : (updWorld s n f).side = s.side := rfl
@[simp] theorem updWorld_fixes (s : State) (n : Nat) (f : World → World) : (updWorld s n f).fixes = s.fixes := rfl
@[simp] theorem updWorld_frameTable (s : State) (n : Nat) (f : World → World) : (updWorld s n f).frameTable = s.frameTable := rfl
@[simp] theorem updWorld_rewrites (s : State) (n : Nat) (f : World → World) : (updWorld s n f).rewrites = s.rewrites := rfl
@[simp] theorem updWorld_badRows (s : State) (n : Nat) (f : World → World) : (updWorld s n f).badRows = s.badRows := rfl
@[simp] theorem updWorld_host (s : State) (n : Nat) (f : World → World) : (updWorld s n f).host = s.host := rfl
@[simp] theorem updWorld_domainMem (s : State) (n : Nat) (f : World → World) : (updWorld s n f).domainMem = s.domainMem := rfl
@[simp] theorem updWorld_inbox (s : State) (n : Nat) (f : World → World) : (updWorld s n f).inbox = s.inbox := rfl
@[simp] theorem updWorld_outbox (s : State) (n : Nat) (f : World → World) : (updWorld s n f).outbox = s.outbox := rfl
@[simp] theorem updWorld_domain (s : State) (n : Nat) (f : World → World) : (updWorld s n f).domain = s.domain := rfl
@[simp] theorem updWorld_linkKeys (s : State) (n : Nat) (f : World → World) : (updWorld s n f).linkKeys = s.linkKeys := rfl
@[simp] theorem updWorld_source (s : State) (n : Nat) (f : World → World) : (updWorld s n f).source = s.source := rfl
@[simp] theorem updWorld_locked (s : State) (n : Nat) (f : World → World) : (updWorld s n f).locked = s.locked := rfl
@[simp] theorem updWorld_groups (s : State) (n : Nat) (f : World → World) : (updWorld s n f).groups = s.groups := rfl
@[simp] theorem updWorld_devMacKey (s : State) (n : Nat) (f : World → World) : (updWorld s n f).devMacKey = s.devMacKey := rfl
@[simp] theorem updWorld_flash (s : State) (n : Nat) (f : World → World) : (updWorld s n f).flash = s.flash := rfl
@[simp] theorem updWorld_rcvWindow (s : State) (n : Nat) (f : World → World) : (updWorld s n f).rcvWindow = s.rcvWindow := rfl
@[simp] theorem updWorld_minSvn (s : State) (n : Nat) (f : World → World) : (updWorld s n f).minSvn = s.minSvn := rfl
@[simp] theorem updWorld_meas (s : State) (n : Nat) (f : World → World) : (updWorld s n f).meas = s.meas := rfl
@[simp] theorem updWorld_devid (s : State) (n : Nat) (f : World → World) : (updWorld s n f).devid = s.devid := rfl
@[simp] theorem updWorld_alias_ (s : State) (n : Nat) (f : World → World) : (updWorld s n f).alias_ = s.alias_ := rfl
@[simp] theorem updWorld_certs (s : State) (n : Nat) (f : World → World) : (updWorld s n f).certs = s.certs := rfl
@[simp] theorem updWorld_session (s : State) (n : Nat) (f : World → World) : (updWorld s n f).session = s.session := rfl
@[simp] theorem updWorld_ports (s : State) (n : Nat) (f : World → World) : (updWorld s n f).ports = s.ports := rfl
@[simp] theorem updWorld_pfLog (s : State) (n : Nat) (f : World → World) : (updWorld s n f).pfLog = s.pfLog := rfl
@[simp] theorem updWorld_off (s : State) (n : Nat) (f : World → World) : (updWorld s n f).off = s.off := rfl
@[simp] theorem updWorld_frameDone (s : State) (n : Nat) (f : World → World) : (updWorld s n f).frameDone = s.frameDone := rfl
@[simp] theorem updWorld_gapDone (s : State) (n : Nat) (f : World → World) : (updWorld s n f).gapDone = s.gapDone := rfl

/-! ### setKey -/

@[simp] theorem setKey_cyc (s : State) (n : Nat) (k : KeySlot) : (setKey s n k).cyc = s.cyc := rfl
@[simp] theorem setKey_dtime (s : State) (n : Nat) (k : KeySlot) : (setKey s n k).dtime = s.dtime := rfl
@[simp] theorem setKey_turn (s : State) (n : Nat) (k : KeySlot) : (setKey s n k).turn = s.turn := rfl
@[simp] theorem setKey_ids (s : State) (n : Nat) (k : KeySlot) : (setKey s n k).ids = s.ids := rfl
@[simp] theorem setKey_free (s : State) (n : Nat) (k : KeySlot) : (setKey s n k).free = s.free := rfl
@[simp] theorem setKey_boot (s : State) (n : Nat) (k : KeySlot) : (setKey s n k).boot = s.boot := rfl
@[simp] theorem setKey_frameLog2 (s : State) (n : Nat) (k : KeySlot) : (setKey s n k).frameLog2 = s.frameLog2 := rfl
@[simp] theorem setKey_cores (s : State) (n : Nat) (k : KeySlot) : (setKey s n k).cores = s.cores := rfl
@[simp] theorem setKey_chans (s : State) (n : Nat) (k : KeySlot) : (setKey s n k).chans = s.chans := rfl
@[simp] theorem setKey_rows (s : State) (n : Nat) (k : KeySlot) : (setKey s n k).rows = s.rows := rfl
@[simp] theorem setKey_colls (s : State) (n : Nat) (k : KeySlot) : (setKey s n k).colls = s.colls := rfl
@[simp] theorem setKey_launches (s : State) (n : Nat) (k : KeySlot) : (setKey s n k).launches = s.launches := rfl
@[simp] theorem setKey_worlds (s : State) (n : Nat) (k : KeySlot) : (setKey s n k).worlds = s.worlds := rfl
@[simp] theorem setKey_casks (s : State) (n : Nat) (k : KeySlot) : (setKey s n k).casks = s.casks := rfl
@[simp] theorem setKey_owed (s : State) (n : Nat) (k : KeySlot) : (setKey s n k).owed = s.owed := rfl
@[simp] theorem setKey_throttle (s : State) (n : Nat) (k : KeySlot) : (setKey s n k).throttle = s.throttle := rfl
@[simp] theorem setKey_hottest (s : State) (n : Nat) (k : KeySlot) : (setKey s n k).hottest = s.hottest := rfl
@[simp] theorem setKey_cool (s : State) (n : Nat) (k : KeySlot) : (setKey s n k).cool = s.cool := rfl
@[simp] theorem setKey_reached (s : State) (n : Nat) (k : KeySlot) : (setKey s n k).reached = s.reached := rfl
@[simp] theorem setKey_pkg (s : State) (n : Nat) (k : KeySlot) : (setKey s n k).pkg = s.pkg := rfl
@[simp] theorem setKey_side (s : State) (n : Nat) (k : KeySlot) : (setKey s n k).side = s.side := rfl
@[simp] theorem setKey_fixes (s : State) (n : Nat) (k : KeySlot) : (setKey s n k).fixes = s.fixes := rfl
@[simp] theorem setKey_frameTable (s : State) (n : Nat) (k : KeySlot) : (setKey s n k).frameTable = s.frameTable := rfl
@[simp] theorem setKey_rewrites (s : State) (n : Nat) (k : KeySlot) : (setKey s n k).rewrites = s.rewrites := rfl
@[simp] theorem setKey_badRows (s : State) (n : Nat) (k : KeySlot) : (setKey s n k).badRows = s.badRows := rfl
@[simp] theorem setKey_host (s : State) (n : Nat) (k : KeySlot) : (setKey s n k).host = s.host := rfl
@[simp] theorem setKey_domainMem (s : State) (n : Nat) (k : KeySlot) : (setKey s n k).domainMem = s.domainMem := rfl
@[simp] theorem setKey_inbox (s : State) (n : Nat) (k : KeySlot) : (setKey s n k).inbox = s.inbox := rfl
@[simp] theorem setKey_outbox (s : State) (n : Nat) (k : KeySlot) : (setKey s n k).outbox = s.outbox := rfl
@[simp] theorem setKey_domain (s : State) (n : Nat) (k : KeySlot) : (setKey s n k).domain = s.domain := rfl
@[simp] theorem setKey_linkKeys (s : State) (n : Nat) (k : KeySlot) : (setKey s n k).linkKeys = s.linkKeys := rfl
@[simp] theorem setKey_source (s : State) (n : Nat) (k : KeySlot) : (setKey s n k).source = s.source := rfl
@[simp] theorem setKey_locked (s : State) (n : Nat) (k : KeySlot) : (setKey s n k).locked = s.locked := rfl
@[simp] theorem setKey_groups (s : State) (n : Nat) (k : KeySlot) : (setKey s n k).groups = s.groups := rfl
@[simp] theorem setKey_devMacKey (s : State) (n : Nat) (k : KeySlot) : (setKey s n k).devMacKey = s.devMacKey := rfl
@[simp] theorem setKey_flash (s : State) (n : Nat) (k : KeySlot) : (setKey s n k).flash = s.flash := rfl
@[simp] theorem setKey_rcvWindow (s : State) (n : Nat) (k : KeySlot) : (setKey s n k).rcvWindow = s.rcvWindow := rfl
@[simp] theorem setKey_minSvn (s : State) (n : Nat) (k : KeySlot) : (setKey s n k).minSvn = s.minSvn := rfl
@[simp] theorem setKey_meas (s : State) (n : Nat) (k : KeySlot) : (setKey s n k).meas = s.meas := rfl
@[simp] theorem setKey_devid (s : State) (n : Nat) (k : KeySlot) : (setKey s n k).devid = s.devid := rfl
@[simp] theorem setKey_alias_ (s : State) (n : Nat) (k : KeySlot) : (setKey s n k).alias_ = s.alias_ := rfl
@[simp] theorem setKey_certs (s : State) (n : Nat) (k : KeySlot) : (setKey s n k).certs = s.certs := rfl
@[simp] theorem setKey_session (s : State) (n : Nat) (k : KeySlot) : (setKey s n k).session = s.session := rfl
@[simp] theorem setKey_ports (s : State) (n : Nat) (k : KeySlot) : (setKey s n k).ports = s.ports := rfl
@[simp] theorem setKey_pfLog (s : State) (n : Nat) (k : KeySlot) : (setKey s n k).pfLog = s.pfLog := rfl
@[simp] theorem setKey_off (s : State) (n : Nat) (k : KeySlot) : (setKey s n k).off = s.off := rfl
@[simp] theorem setKey_frameDone (s : State) (n : Nat) (k : KeySlot) : (setKey s n k).frameDone = s.frameDone := rfl
@[simp] theorem setKey_gapDone (s : State) (n : Nat) (k : KeySlot) : (setKey s n k).gapDone = s.gapDone := rfl

/-! ### setRows -/

@[simp] theorem setRows_cyc (s : State) (d : Nat) (r : List RowCmd) : (setRows s d r).cyc = s.cyc := rfl
@[simp] theorem setRows_dtime (s : State) (d : Nat) (r : List RowCmd) : (setRows s d r).dtime = s.dtime := rfl
@[simp] theorem setRows_turn (s : State) (d : Nat) (r : List RowCmd) : (setRows s d r).turn = s.turn := rfl
@[simp] theorem setRows_ids (s : State) (d : Nat) (r : List RowCmd) : (setRows s d r).ids = s.ids := rfl
@[simp] theorem setRows_free (s : State) (d : Nat) (r : List RowCmd) : (setRows s d r).free = s.free := rfl
@[simp] theorem setRows_boot (s : State) (d : Nat) (r : List RowCmd) : (setRows s d r).boot = s.boot := rfl
@[simp] theorem setRows_frameLog2 (s : State) (d : Nat) (r : List RowCmd) : (setRows s d r).frameLog2 = s.frameLog2 := rfl
@[simp] theorem setRows_cores (s : State) (d : Nat) (r : List RowCmd) : (setRows s d r).cores = s.cores := rfl
@[simp] theorem setRows_chans (s : State) (d : Nat) (r : List RowCmd) : (setRows s d r).chans = s.chans := rfl
@[simp] theorem setRows_colls (s : State) (d : Nat) (r : List RowCmd) : (setRows s d r).colls = s.colls := rfl
@[simp] theorem setRows_launches (s : State) (d : Nat) (r : List RowCmd) : (setRows s d r).launches = s.launches := rfl
@[simp] theorem setRows_worlds (s : State) (d : Nat) (r : List RowCmd) : (setRows s d r).worlds = s.worlds := rfl
@[simp] theorem setRows_keys (s : State) (d : Nat) (r : List RowCmd) : (setRows s d r).keys = s.keys := rfl
@[simp] theorem setRows_casks (s : State) (d : Nat) (r : List RowCmd) : (setRows s d r).casks = s.casks := rfl
@[simp] theorem setRows_owed (s : State) (d : Nat) (r : List RowCmd) : (setRows s d r).owed = s.owed := rfl
@[simp] theorem setRows_throttle (s : State) (d : Nat) (r : List RowCmd) : (setRows s d r).throttle = s.throttle := rfl
@[simp] theorem setRows_hottest (s : State) (d : Nat) (r : List RowCmd) : (setRows s d r).hottest = s.hottest := rfl
@[simp] theorem setRows_cool (s : State) (d : Nat) (r : List RowCmd) : (setRows s d r).cool = s.cool := rfl
@[simp] theorem setRows_reached (s : State) (d : Nat) (r : List RowCmd) : (setRows s d r).reached = s.reached := rfl
@[simp] theorem setRows_pkg (s : State) (d : Nat) (r : List RowCmd) : (setRows s d r).pkg = s.pkg := rfl
@[simp] theorem setRows_side (s : State) (d : Nat) (r : List RowCmd) : (setRows s d r).side = s.side := rfl
@[simp] theorem setRows_fixes (s : State) (d : Nat) (r : List RowCmd) : (setRows s d r).fixes = s.fixes := rfl
@[simp] theorem setRows_frameTable (s : State) (d : Nat) (r : List RowCmd) : (setRows s d r).frameTable = s.frameTable := rfl
@[simp] theorem setRows_rewrites (s : State) (d : Nat) (r : List RowCmd) : (setRows s d r).rewrites = s.rewrites := rfl
@[simp] theorem setRows_badRows (s : State) (d : Nat) (r : List RowCmd) : (setRows s d r).badRows = s.badRows := rfl
@[simp] theorem setRows_host (s : State) (d : Nat) (r : List RowCmd) : (setRows s d r).host = s.host := rfl
@[simp] theorem setRows_domainMem (s : State) (d : Nat) (r : List RowCmd) : (setRows s d r).domainMem = s.domainMem := rfl
@[simp] theorem setRows_inbox (s : State) (d : Nat) (r : List RowCmd) : (setRows s d r).inbox = s.inbox := rfl
@[simp] theorem setRows_outbox (s : State) (d : Nat) (r : List RowCmd) : (setRows s d r).outbox = s.outbox := rfl
@[simp] theorem setRows_domain (s : State) (d : Nat) (r : List RowCmd) : (setRows s d r).domain = s.domain := rfl
@[simp] theorem setRows_linkKeys (s : State) (d : Nat) (r : List RowCmd) : (setRows s d r).linkKeys = s.linkKeys := rfl
@[simp] theorem setRows_source (s : State) (d : Nat) (r : List RowCmd) : (setRows s d r).source = s.source := rfl
@[simp] theorem setRows_locked (s : State) (d : Nat) (r : List RowCmd) : (setRows s d r).locked = s.locked := rfl
@[simp] theorem setRows_groups (s : State) (d : Nat) (r : List RowCmd) : (setRows s d r).groups = s.groups := rfl
@[simp] theorem setRows_devMacKey (s : State) (d : Nat) (r : List RowCmd) : (setRows s d r).devMacKey = s.devMacKey := rfl
@[simp] theorem setRows_flash (s : State) (d : Nat) (r : List RowCmd) : (setRows s d r).flash = s.flash := rfl
@[simp] theorem setRows_rcvWindow (s : State) (d : Nat) (r : List RowCmd) : (setRows s d r).rcvWindow = s.rcvWindow := rfl
@[simp] theorem setRows_minSvn (s : State) (d : Nat) (r : List RowCmd) : (setRows s d r).minSvn = s.minSvn := rfl
@[simp] theorem setRows_meas (s : State) (d : Nat) (r : List RowCmd) : (setRows s d r).meas = s.meas := rfl
@[simp] theorem setRows_devid (s : State) (d : Nat) (r : List RowCmd) : (setRows s d r).devid = s.devid := rfl
@[simp] theorem setRows_alias_ (s : State) (d : Nat) (r : List RowCmd) : (setRows s d r).alias_ = s.alias_ := rfl
@[simp] theorem setRows_certs (s : State) (d : Nat) (r : List RowCmd) : (setRows s d r).certs = s.certs := rfl
@[simp] theorem setRows_session (s : State) (d : Nat) (r : List RowCmd) : (setRows s d r).session = s.session := rfl
@[simp] theorem setRows_ports (s : State) (d : Nat) (r : List RowCmd) : (setRows s d r).ports = s.ports := rfl
@[simp] theorem setRows_pfLog (s : State) (d : Nat) (r : List RowCmd) : (setRows s d r).pfLog = s.pfLog := rfl
@[simp] theorem setRows_off (s : State) (d : Nat) (r : List RowCmd) : (setRows s d r).off = s.off := rfl
@[simp] theorem setRows_frameDone (s : State) (d : Nat) (r : List RowCmd) : (setRows s d r).frameDone = s.frameDone := rfl
@[simp] theorem setRows_gapDone (s : State) (d : Nat) (r : List RowCmd) : (setRows s d r).gapDone = s.gapDone := rfl

/-! ### Parts read after an update -/

@[simp] theorem getCore_setCore (s : State) (p : Nat) (c : Core) : getCore (setCore s p c) p = c := smGet_smSet_same _ _ _ _

theorem getCore_setCore_ne (s : State) (p j : Nat) (c : Core) (h : j ≠ p) : getCore (setCore s p c) j = getCore s j :=
  smGet_smSet_ne _ _ _ _ _ h

@[simp] theorem getCore_updCore (s : State) (p : Nat) (f : Core → Core) : getCore (updCore s p f) p = f (getCore s p) :=
  getCore_setCore s p _

theorem getCore_updCore_ne (s : State) (p j : Nat) (f : Core → Core) (h : j ≠ p) : getCore (updCore s p f) j = getCore s j :=
  getCore_setCore_ne s p j _ h

@[simp] theorem getChan_setChan (s : State) (n : Nat) (c : Channel) : getChan (setChan s n c) n = c := smGet_smSet_same _ _ _ _

theorem getChan_setChan_ne (s : State) (n j : Nat) (c : Channel) (h : j ≠ n) : getChan (setChan s n c) j = getChan s j :=
  smGet_smSet_ne _ _ _ _ _ h

@[simp] theorem getLaunch_setLaunch (s : State) (n : Nat) (l : Launch) : getLaunch (setLaunch s n l) n = l :=
  smGet_smSet_same _ _ _ _

theorem getLaunch_setLaunch_ne (s : State) (n j : Nat) (l : Launch) (h : j ≠ n) :
    getLaunch (setLaunch s n l) j = getLaunch s j := smGet_smSet_ne _ _ _ _ _ h

@[simp] theorem getWorld_setWorld (s : State) (n : Nat) (w : World) : getWorld (setWorld s n w) n = w := smGet_smSet_same _ _ _ _

theorem getWorld_setWorld_ne (s : State) (n j : Nat) (w : World) (h : j ≠ n) : getWorld (setWorld s n w) j = getWorld s j :=
  smGet_smSet_ne _ _ _ _ _ h

@[simp] theorem getWorld_updWorld (s : State) (n : Nat) (f : World → World) :
    getWorld (updWorld s n f) n = f (getWorld s n) := getWorld_setWorld s n _

@[simp] theorem getKey_setKey (s : State) (n : Nat) (k : KeySlot) : getKey (setKey s n k) n = k := smGet_smSet_same _ _ _ _

theorem getKey_setKey_ne (s : State) (n j : Nat) (k : KeySlot) (h : j ≠ n) : getKey (setKey s n k) j = getKey s j :=
  smGet_smSet_ne _ _ _ _ _ h

@[simp] theorem getRows_setRows (s : State) (d : Nat) (r : List RowCmd) : getRows (setRows s d r) d = r := smGet_smSet_same _ _ _ _

@[simp] theorem getCore_setChan (s : State) (j : Nat) (n : Nat) (c : Channel) : getCore (setChan s n c) j = getCore s j := rfl
@[simp] theorem getCore_setLaunch (s : State) (j : Nat) (n : Nat) (c : Launch) : getCore (setLaunch s n c) j = getCore s j := rfl
@[simp] theorem getCore_setWorld (s : State) (j : Nat) (n : Nat) (c : World) : getCore (setWorld s n c) j = getCore s j := rfl
@[simp] theorem getCore_setKey (s : State) (j : Nat) (n : Nat) (c : KeySlot) : getCore (setKey s n c) j = getCore s j := rfl
@[simp] theorem getCore_setRows (s : State) (j : Nat) (n : Nat) (c : List RowCmd) : getCore (setRows s n c) j = getCore s j := rfl
@[simp] theorem getLaunch_setCore (s : State) (j : Nat) (n : Nat) (c : Core) : getLaunch (setCore s n c) j = getLaunch s j := rfl
@[simp] theorem getLaunch_updCore (s : State) (j : Nat) (n : Nat) (c : Core → Core) : getLaunch (updCore s n c) j = getLaunch s j := rfl
@[simp] theorem getLaunch_setChan (s : State) (j : Nat) (n : Nat) (c : Channel) : getLaunch (setChan s n c) j = getLaunch s j := rfl
@[simp] theorem getLaunch_setWorld (s : State) (j : Nat) (n : Nat) (c : World) : getLaunch (setWorld s n c) j = getLaunch s j := rfl
@[simp] theorem getWorld_setCore (s : State) (j : Nat) (n : Nat) (c : Core) : getWorld (setCore s n c) j = getWorld s j := rfl
@[simp] theorem getWorld_updCore (s : State) (j : Nat) (n : Nat) (c : Core → Core) : getWorld (updCore s n c) j = getWorld s j := rfl
@[simp] theorem getWorld_setChan (s : State) (j : Nat) (n : Nat) (c : Channel) : getWorld (setChan s n c) j = getWorld s j := rfl
@[simp] theorem getWorld_setLaunch (s : State) (j : Nat) (n : Nat) (c : Launch) : getWorld (setLaunch s n c) j = getWorld s j := rfl
@[simp] theorem getChan_setCore (s : State) (j : Nat) (n : Nat) (c : Core) : getChan (setCore s n c) j = getChan s j := rfl
@[simp] theorem getChan_updCore (s : State) (j : Nat) (n : Nat) (c : Core → Core) : getChan (updCore s n c) j = getChan s j := rfl
@[simp] theorem getChan_setLaunch (s : State) (j : Nat) (n : Nat) (c : Launch) : getChan (setLaunch s n c) j = getChan s j := rfl
@[simp] theorem getChan_setWorld (s : State) (j : Nat) (n : Nat) (c : World) : getChan (setWorld s n c) j = getChan s j := rfl

/-! ### Streams -/

@[simp] theorem streamOf_setStream (c : Core) (q : Seq) (st : Stream) : streamOf (setStream c q st) q = st := by cases q <;> rfl

theorem streamOf_setStream_ne (c : Core) (q r : Seq) (st : Stream) (h : r ≠ q) :
    streamOf (setStream c q st) r = streamOf c r := by cases q <;> cases r <;> first | rfl | exact absurd rfl h

@[simp] theorem setStream_regs (c : Core) (q : Seq) (st : Stream) : (setStream c q st).regs = c.regs := by cases q <;> rfl
@[simp] theorem setStream_entry (c : Core) (q : Seq) (st : Stream) : (setStream c q st).entry = c.entry := by cases q <;> rfl
@[simp] theorem setStream_flight (c : Core) (q : Seq) (st : Stream) : (setStream c q st).flight = c.flight := by cases q <;> rfl
@[simp] theorem setStream_xlate (c : Core) (q : Seq) (st : Stream) : (setStream c q st).xlate = c.xlate := by cases q <;> rfl
@[simp] theorem setStream_lq (c : Core) (q : Seq) (st : Stream) : (setStream c q st).lq = c.lq := by cases q <;> rfl
@[simp] theorem setStream_sq (c : Core) (q : Seq) (st : Stream) : (setStream c q st).sq = c.sq := by cases q <;> rfl
@[simp] theorem setStream_cq (c : Core) (q : Seq) (st : Stream) : (setStream c q st).cq = c.cq := by cases q <;> rfl
@[simp] theorem setStream_xq (c : Core) (q : Seq) (st : Stream) : (setStream c q st).xq = c.xq := by cases q <;> rfl
@[simp] theorem setStream_boqL (c : Core) (q : Seq) (st : Stream) : (setStream c q st).boqL = c.boqL := by cases q <;> rfl
@[simp] theorem setStream_boqX (c : Core) (q : Seq) (st : Stream) : (setStream c q st).boqX = c.boqX := by cases q <;> rfl
@[simp] theorem setStream_boqS (c : Core) (q : Seq) (st : Stream) : (setStream c q st).boqS = c.boqS := by cases q <;> rfl
@[simp] theorem setStream_pushes (c : Core) (q : Seq) (st : Stream) : (setStream c q st).pushes = c.pushes := by cases q <;> rfl
@[simp] theorem setStream_tokens (c : Core) (q : Seq) (st : Stream) : (setStream c q st).tokens = c.tokens := by cases q <;> rfl
@[simp] theorem setStream_markL (c : Core) (q : Seq) (st : Stream) : (setStream c q st).markL = c.markL := by cases q <;> rfl
@[simp] theorem setStream_markS (c : Core) (q : Seq) (st : Stream) : (setStream c q st).markS = c.markS := by cases q <;> rfl
@[simp] theorem setStream_spad (c : Core) (q : Seq) (st : Stream) : (setStream c q st).spad = c.spad := by cases q <;> rfl
@[simp] theorem setStream_recent (c : Core) (q : Seq) (st : Stream) : (setStream c q st).recent = c.recent := by cases q <;> rfl
@[simp] theorem setStream_ctl (c : Core) (q : Seq) (st : Stream) : (setStream c q st).ctl = c.ctl := by cases q <;> rfl
@[simp] theorem setStream_ctlTag (c : Core) (q : Seq) (st : Stream) : (setStream c q st).ctlTag = c.ctlTag := by cases q <;> rfl
@[simp] theorem setStream_bars (c : Core) (q : Seq) (st : Stream) : (setStream c q st).bars = c.bars := by cases q <;> rfl
@[simp] theorem setStream_inbound (c : Core) (q : Seq) (st : Stream) : (setStream c q st).inbound = c.inbound := by cases q <;> rfl
@[simp] theorem setStream_inTaken (c : Core) (q : Seq) (st : Stream) : (setStream c q st).inTaken = c.inTaken := by cases q <;> rfl
@[simp] theorem setStream_ob (c : Core) (q : Seq) (st : Stream) : (setStream c q st).ob = c.ob := by cases q <;> rfl
@[simp] theorem setStream_obScale (c : Core) (q : Seq) (st : Stream) : (setStream c q st).obScale = c.obScale := by cases q <;> rfl
@[simp] theorem setStream_bBuf (c : Core) (q : Seq) (st : Stream) : (setStream c q st).bBuf = c.bBuf := by cases q <;> rfl
@[simp] theorem setStream_tiles (c : Core) (q : Seq) (st : Stream) : (setStream c q st).tiles = c.tiles := by cases q <;> rfl
@[simp] theorem setStream_committed (c : Core) (q : Seq) (st : Stream) : (setStream c q st).committed = c.committed := by cases q <;> rfl
@[simp] theorem setStream_retired (c : Core) (q : Seq) (st : Stream) : (setStream c q st).retired = c.retired := by cases q <;> rfl
@[simp] theorem setStream_retireFresh (c : Core) (q : Seq) (st : Stream) : (setStream c q st).retireFresh = c.retireFresh := by cases q <;> rfl
@[simp] theorem setStream_drain (c : Core) (q : Seq) (st : Stream) : (setStream c q st).drain = c.drain := by cases q <;> rfl
@[simp] theorem setStream_phases (c : Core) (q : Seq) (st : Stream) : (setStream c q st).phases = c.phases := by cases q <;> rfl
@[simp] theorem setStream_lastScalar (c : Core) (q : Seq) (st : Stream) : (setStream c q st).lastScalar = c.lastScalar := by cases q <;> rfl
@[simp] theorem setStream_copyQ (c : Core) (q : Seq) (st : Stream) : (setStream c q st).copyQ = c.copyQ := by cases q <;> rfl
@[simp] theorem setStream_matQ (c : Core) (q : Seq) (st : Stream) : (setStream c q st).matQ = c.matQ := by cases q <;> rfl
@[simp] theorem setStream_tileQ (c : Core) (q : Seq) (st : Stream) : (setStream c q st).tileQ = c.tileQ := by cases q <;> rfl
@[simp] theorem setStream_feedQ (c : Core) (q : Seq) (st : Stream) : (setStream c q st).feedQ = c.feedQ := by cases q <;> rfl
@[simp] theorem setStream_feedFree (c : Core) (q : Seq) (st : Stream) : (setStream c q st).feedFree = c.feedFree := by cases q <;> rfl
@[simp] theorem setStream_storeQ (c : Core) (q : Seq) (st : Stream) : (setStream c q st).storeQ = c.storeQ := by cases q <;> rfl
@[simp] theorem setStream_storeDone (c : Core) (q : Seq) (st : Stream) : (setStream c q st).storeDone = c.storeDone := by cases q <;> rfl
@[simp] theorem setStream_takers (c : Core) (q : Seq) (st : Stream) : (setStream c q st).takers = c.takers := by cases q <;> rfl
@[simp] theorem setStream_lqOrder (c : Core) (q : Seq) (st : Stream) : (setStream c q st).lqOrder = c.lqOrder := by cases q <;> rfl
@[simp] theorem setStream_obNext (c : Core) (q : Seq) (st : Stream) : (setStream c q st).obNext = c.obNext := by cases q <;> rfl
@[simp] theorem setStream_storeFree (c : Core) (q : Seq) (st : Stream) : (setStream c q st).storeFree = c.storeFree := by cases q <;> rfl
@[simp] theorem setStream_copyFree (c : Core) (q : Seq) (st : Stream) : (setStream c q st).copyFree = c.copyFree := by cases q <;> rfl
@[simp] theorem setStream_matFree (c : Core) (q : Seq) (st : Stream) : (setStream c q st).matFree = c.matFree := by cases q <;> rfl
@[simp] theorem setStream_binQ (c : Core) (q : Seq) (st : Stream) : (setStream c q st).binQ = c.binQ := by cases q <;> rfl
@[simp] theorem setStream_binFree (c : Core) (q : Seq) (st : Stream) : (setStream c q st).binFree = c.binFree := by cases q <;> rfl
@[simp] theorem setStream_binPrev (c : Core) (q : Seq) (st : Stream) : (setStream c q st).binPrev = c.binPrev := by cases q <;> rfl
@[simp] theorem setStream_topkQ (c : Core) (q : Seq) (st : Stream) : (setStream c q st).topkQ = c.topkQ := by cases q <;> rfl
@[simp] theorem setStream_nest (c : Core) (q : Seq) (st : Stream) : (setStream c q st).nest = c.nest := by cases q <;> rfl
@[simp] theorem setStream_held (c : Core) (q : Seq) (st : Stream) : (setStream c q st).held = c.held := by cases q <;> rfl
@[simp] theorem setStream_fences (c : Core) (q : Seq) (st : Stream) : (setStream c q st).fences = c.fences := by cases q <;> rfl
@[simp] theorem setStream_tcache (c : Core) (q : Seq) (st : Stream) : (setStream c q st).tcache = c.tcache := by cases q <;> rfl
@[simp] theorem setStream_revoked (c : Core) (q : Seq) (st : Stream) : (setStream c q st).revoked = c.revoked := by cases q <;> rfl
@[simp] theorem setStream_slots (c : Core) (q : Seq) (st : Stream) : (setStream c q st).slots = c.slots := by cases q <;> rfl
@[simp] theorem setStream_istore (c : Core) (q : Seq) (st : Stream) : (setStream c q st).istore = c.istore := by cases q <;> rfl
@[simp] theorem setStream_hazTable (c : Core) (q : Seq) (st : Stream) : (setStream c q st).hazTable = c.hazTable := by cases q <;> rfl
@[simp] theorem setStream_brks (c : Core) (q : Seq) (st : Stream) : (setStream c q st).brks = c.brks := by cases q <;> rfl
@[simp] theorem setStream_snapWarn (c : Core) (q : Seq) (st : Stream) : (setStream c q st).snapWarn = c.snapWarn := by cases q <;> rfl
@[simp] theorem setStream_snapCsn (c : Core) (q : Seq) (st : Stream) : (setStream c q st).snapCsn = c.snapCsn := by cases q <;> rfl
@[simp] theorem setStream_snapSlip (c : Core) (q : Seq) (st : Stream) : (setStream c q st).snapSlip = c.snapSlip := by cases q <;> rfl
@[simp] theorem setStream_posts (c : Core) (q : Seq) (st : Stream) : (setStream c q st).posts = c.posts := by cases q <;> rfl
@[simp] theorem setStream_evPop (c : Core) (q : Seq) (st : Stream) : (setStream c q st).evPop = c.evPop := by cases q <;> rfl
@[simp] theorem setStream_live (c : Core) (q : Seq) (st : Stream) : (setStream c q st).live = c.live := by cases q <;> rfl
@[simp] theorem setStream_launch (c : Core) (q : Seq) (st : Stream) : (setStream c q st).launch = c.launch := by cases q <;> rfl
@[simp] theorem setStream_lidx (c : Core) (q : Seq) (st : Stream) : (setStream c q st).lidx = c.lidx := by cases q <;> rfl
@[simp] theorem setStream_world (c : Core) (q : Seq) (st : Stream) : (setStream c q st).world = c.world := by cases q <;> rfl
@[simp] theorem setStream_stopAt (c : Core) (q : Seq) (st : Stream) : (setStream c q st).stopAt = c.stopAt := by cases q <;> rfl

/-! ### Results put in flight, warnings -/

@[simp] theorem fly_regs (c : Core) (q : Seq) (cyc : Nat) (d : Dest) (n : Nat) (v : LandVal) : (fly c q cyc d n v).regs = c.regs := rfl
@[simp] theorem fly_entry (c : Core) (q : Seq) (cyc : Nat) (d : Dest) (n : Nat) (v : LandVal) : (fly c q cyc d n v).entry = c.entry := rfl
@[simp] theorem fly_c (c : Core) (q : Seq) (cyc : Nat) (d : Dest) (n : Nat) (v : LandVal) : (fly c q cyc d n v).c = c.c := rfl
@[simp] theorem fly_l (c : Core) (q : Seq) (cyc : Nat) (d : Dest) (n : Nat) (v : LandVal) : (fly c q cyc d n v).l = c.l := rfl
@[simp] theorem fly_x (c : Core) (q : Seq) (cyc : Nat) (d : Dest) (n : Nat) (v : LandVal) : (fly c q cyc d n v).x = c.x := rfl
@[simp] theorem fly_st (c : Core) (q : Seq) (cyc : Nat) (d : Dest) (n : Nat) (v : LandVal) : (fly c q cyc d n v).st = c.st := rfl
@[simp] theorem fly_xlate (c : Core) (q : Seq) (cyc : Nat) (d : Dest) (n : Nat) (v : LandVal) : (fly c q cyc d n v).xlate = c.xlate := rfl
@[simp] theorem fly_lq (c : Core) (q : Seq) (cyc : Nat) (d : Dest) (n : Nat) (v : LandVal) : (fly c q cyc d n v).lq = c.lq := rfl
@[simp] theorem fly_sq (c : Core) (q : Seq) (cyc : Nat) (d : Dest) (n : Nat) (v : LandVal) : (fly c q cyc d n v).sq = c.sq := rfl
@[simp] theorem fly_cq (c : Core) (q : Seq) (cyc : Nat) (d : Dest) (n : Nat) (v : LandVal) : (fly c q cyc d n v).cq = c.cq := rfl
@[simp] theorem fly_xq (c : Core) (q : Seq) (cyc : Nat) (d : Dest) (n : Nat) (v : LandVal) : (fly c q cyc d n v).xq = c.xq := rfl
@[simp] theorem fly_boqL (c : Core) (q : Seq) (cyc : Nat) (d : Dest) (n : Nat) (v : LandVal) : (fly c q cyc d n v).boqL = c.boqL := rfl
@[simp] theorem fly_boqX (c : Core) (q : Seq) (cyc : Nat) (d : Dest) (n : Nat) (v : LandVal) : (fly c q cyc d n v).boqX = c.boqX := rfl
@[simp] theorem fly_boqS (c : Core) (q : Seq) (cyc : Nat) (d : Dest) (n : Nat) (v : LandVal) : (fly c q cyc d n v).boqS = c.boqS := rfl
@[simp] theorem fly_pushes (c : Core) (q : Seq) (cyc : Nat) (d : Dest) (n : Nat) (v : LandVal) : (fly c q cyc d n v).pushes = c.pushes := rfl
@[simp] theorem fly_tokens (c : Core) (q : Seq) (cyc : Nat) (d : Dest) (n : Nat) (v : LandVal) : (fly c q cyc d n v).tokens = c.tokens := rfl
@[simp] theorem fly_markL (c : Core) (q : Seq) (cyc : Nat) (d : Dest) (n : Nat) (v : LandVal) : (fly c q cyc d n v).markL = c.markL := rfl
@[simp] theorem fly_markS (c : Core) (q : Seq) (cyc : Nat) (d : Dest) (n : Nat) (v : LandVal) : (fly c q cyc d n v).markS = c.markS := rfl
@[simp] theorem fly_spad (c : Core) (q : Seq) (cyc : Nat) (d : Dest) (n : Nat) (v : LandVal) : (fly c q cyc d n v).spad = c.spad := rfl
@[simp] theorem fly_recent (c : Core) (q : Seq) (cyc : Nat) (d : Dest) (n : Nat) (v : LandVal) : (fly c q cyc d n v).recent = c.recent := rfl
@[simp] theorem fly_ctl (c : Core) (q : Seq) (cyc : Nat) (d : Dest) (n : Nat) (v : LandVal) : (fly c q cyc d n v).ctl = c.ctl := rfl
@[simp] theorem fly_ctlTag (c : Core) (q : Seq) (cyc : Nat) (d : Dest) (n : Nat) (v : LandVal) : (fly c q cyc d n v).ctlTag = c.ctlTag := rfl
@[simp] theorem fly_bars (c : Core) (q : Seq) (cyc : Nat) (d : Dest) (n : Nat) (v : LandVal) : (fly c q cyc d n v).bars = c.bars := rfl
@[simp] theorem fly_inbound (c : Core) (q : Seq) (cyc : Nat) (d : Dest) (n : Nat) (v : LandVal) : (fly c q cyc d n v).inbound = c.inbound := rfl
@[simp] theorem fly_inTaken (c : Core) (q : Seq) (cyc : Nat) (d : Dest) (n : Nat) (v : LandVal) : (fly c q cyc d n v).inTaken = c.inTaken := rfl
@[simp] theorem fly_ob (c : Core) (q : Seq) (cyc : Nat) (d : Dest) (n : Nat) (v : LandVal) : (fly c q cyc d n v).ob = c.ob := rfl
@[simp] theorem fly_obScale (c : Core) (q : Seq) (cyc : Nat) (d : Dest) (n : Nat) (v : LandVal) : (fly c q cyc d n v).obScale = c.obScale := rfl
@[simp] theorem fly_bBuf (c : Core) (q : Seq) (cyc : Nat) (d : Dest) (n : Nat) (v : LandVal) : (fly c q cyc d n v).bBuf = c.bBuf := rfl
@[simp] theorem fly_tiles (c : Core) (q : Seq) (cyc : Nat) (d : Dest) (n : Nat) (v : LandVal) : (fly c q cyc d n v).tiles = c.tiles := rfl
@[simp] theorem fly_committed (c : Core) (q : Seq) (cyc : Nat) (d : Dest) (n : Nat) (v : LandVal) : (fly c q cyc d n v).committed = c.committed := rfl
@[simp] theorem fly_retired (c : Core) (q : Seq) (cyc : Nat) (d : Dest) (n : Nat) (v : LandVal) : (fly c q cyc d n v).retired = c.retired := rfl
@[simp] theorem fly_retireFresh (c : Core) (q : Seq) (cyc : Nat) (d : Dest) (n : Nat) (v : LandVal) : (fly c q cyc d n v).retireFresh = c.retireFresh := rfl
@[simp] theorem fly_drain (c : Core) (q : Seq) (cyc : Nat) (d : Dest) (n : Nat) (v : LandVal) : (fly c q cyc d n v).drain = c.drain := rfl
@[simp] theorem fly_phases (c : Core) (q : Seq) (cyc : Nat) (d : Dest) (n : Nat) (v : LandVal) : (fly c q cyc d n v).phases = c.phases := rfl
@[simp] theorem fly_lastScalar (c : Core) (q : Seq) (cyc : Nat) (d : Dest) (n : Nat) (v : LandVal) : (fly c q cyc d n v).lastScalar = c.lastScalar := rfl
@[simp] theorem fly_copyQ (c : Core) (q : Seq) (cyc : Nat) (d : Dest) (n : Nat) (v : LandVal) : (fly c q cyc d n v).copyQ = c.copyQ := rfl
@[simp] theorem fly_matQ (c : Core) (q : Seq) (cyc : Nat) (d : Dest) (n : Nat) (v : LandVal) : (fly c q cyc d n v).matQ = c.matQ := rfl
@[simp] theorem fly_tileQ (c : Core) (q : Seq) (cyc : Nat) (d : Dest) (n : Nat) (v : LandVal) : (fly c q cyc d n v).tileQ = c.tileQ := rfl
@[simp] theorem fly_feedQ (c : Core) (q : Seq) (cyc : Nat) (d : Dest) (n : Nat) (v : LandVal) : (fly c q cyc d n v).feedQ = c.feedQ := rfl
@[simp] theorem fly_feedFree (c : Core) (q : Seq) (cyc : Nat) (d : Dest) (n : Nat) (v : LandVal) : (fly c q cyc d n v).feedFree = c.feedFree := rfl
@[simp] theorem fly_storeQ (c : Core) (q : Seq) (cyc : Nat) (d : Dest) (n : Nat) (v : LandVal) : (fly c q cyc d n v).storeQ = c.storeQ := rfl
@[simp] theorem fly_storeDone (c : Core) (q : Seq) (cyc : Nat) (d : Dest) (n : Nat) (v : LandVal) : (fly c q cyc d n v).storeDone = c.storeDone := rfl
@[simp] theorem fly_takers (c : Core) (q : Seq) (cyc : Nat) (d : Dest) (n : Nat) (v : LandVal) : (fly c q cyc d n v).takers = c.takers := rfl
@[simp] theorem fly_lqOrder (c : Core) (q : Seq) (cyc : Nat) (d : Dest) (n : Nat) (v : LandVal) : (fly c q cyc d n v).lqOrder = c.lqOrder := rfl
@[simp] theorem fly_obNext (c : Core) (q : Seq) (cyc : Nat) (d : Dest) (n : Nat) (v : LandVal) : (fly c q cyc d n v).obNext = c.obNext := rfl
@[simp] theorem fly_storeFree (c : Core) (q : Seq) (cyc : Nat) (d : Dest) (n : Nat) (v : LandVal) : (fly c q cyc d n v).storeFree = c.storeFree := rfl
@[simp] theorem fly_copyFree (c : Core) (q : Seq) (cyc : Nat) (d : Dest) (n : Nat) (v : LandVal) : (fly c q cyc d n v).copyFree = c.copyFree := rfl
@[simp] theorem fly_matFree (c : Core) (q : Seq) (cyc : Nat) (d : Dest) (n : Nat) (v : LandVal) : (fly c q cyc d n v).matFree = c.matFree := rfl
@[simp] theorem fly_binQ (c : Core) (q : Seq) (cyc : Nat) (d : Dest) (n : Nat) (v : LandVal) : (fly c q cyc d n v).binQ = c.binQ := rfl
@[simp] theorem fly_binFree (c : Core) (q : Seq) (cyc : Nat) (d : Dest) (n : Nat) (v : LandVal) : (fly c q cyc d n v).binFree = c.binFree := rfl
@[simp] theorem fly_binPrev (c : Core) (q : Seq) (cyc : Nat) (d : Dest) (n : Nat) (v : LandVal) : (fly c q cyc d n v).binPrev = c.binPrev := rfl
@[simp] theorem fly_topkQ (c : Core) (q : Seq) (cyc : Nat) (d : Dest) (n : Nat) (v : LandVal) : (fly c q cyc d n v).topkQ = c.topkQ := rfl
@[simp] theorem fly_nest (c : Core) (q : Seq) (cyc : Nat) (d : Dest) (n : Nat) (v : LandVal) : (fly c q cyc d n v).nest = c.nest := rfl
@[simp] theorem fly_held (c : Core) (q : Seq) (cyc : Nat) (d : Dest) (n : Nat) (v : LandVal) : (fly c q cyc d n v).held = c.held := rfl
@[simp] theorem fly_fences (c : Core) (q : Seq) (cyc : Nat) (d : Dest) (n : Nat) (v : LandVal) : (fly c q cyc d n v).fences = c.fences := rfl
@[simp] theorem fly_tcache (c : Core) (q : Seq) (cyc : Nat) (d : Dest) (n : Nat) (v : LandVal) : (fly c q cyc d n v).tcache = c.tcache := rfl
@[simp] theorem fly_revoked (c : Core) (q : Seq) (cyc : Nat) (d : Dest) (n : Nat) (v : LandVal) : (fly c q cyc d n v).revoked = c.revoked := rfl
@[simp] theorem fly_slots (c : Core) (q : Seq) (cyc : Nat) (d : Dest) (n : Nat) (v : LandVal) : (fly c q cyc d n v).slots = c.slots := rfl
@[simp] theorem fly_istore (c : Core) (q : Seq) (cyc : Nat) (d : Dest) (n : Nat) (v : LandVal) : (fly c q cyc d n v).istore = c.istore := rfl
@[simp] theorem fly_hazTable (c : Core) (q : Seq) (cyc : Nat) (d : Dest) (n : Nat) (v : LandVal) : (fly c q cyc d n v).hazTable = c.hazTable := rfl
@[simp] theorem fly_brks (c : Core) (q : Seq) (cyc : Nat) (d : Dest) (n : Nat) (v : LandVal) : (fly c q cyc d n v).brks = c.brks := rfl
@[simp] theorem fly_snapWarn (c : Core) (q : Seq) (cyc : Nat) (d : Dest) (n : Nat) (v : LandVal) : (fly c q cyc d n v).snapWarn = c.snapWarn := rfl
@[simp] theorem fly_snapCsn (c : Core) (q : Seq) (cyc : Nat) (d : Dest) (n : Nat) (v : LandVal) : (fly c q cyc d n v).snapCsn = c.snapCsn := rfl
@[simp] theorem fly_snapSlip (c : Core) (q : Seq) (cyc : Nat) (d : Dest) (n : Nat) (v : LandVal) : (fly c q cyc d n v).snapSlip = c.snapSlip := rfl
@[simp] theorem fly_posts (c : Core) (q : Seq) (cyc : Nat) (d : Dest) (n : Nat) (v : LandVal) : (fly c q cyc d n v).posts = c.posts := rfl
@[simp] theorem fly_evPop (c : Core) (q : Seq) (cyc : Nat) (d : Dest) (n : Nat) (v : LandVal) : (fly c q cyc d n v).evPop = c.evPop := rfl
@[simp] theorem fly_live (c : Core) (q : Seq) (cyc : Nat) (d : Dest) (n : Nat) (v : LandVal) : (fly c q cyc d n v).live = c.live := rfl
@[simp] theorem fly_launch (c : Core) (q : Seq) (cyc : Nat) (d : Dest) (n : Nat) (v : LandVal) : (fly c q cyc d n v).launch = c.launch := rfl
@[simp] theorem fly_lidx (c : Core) (q : Seq) (cyc : Nat) (d : Dest) (n : Nat) (v : LandVal) : (fly c q cyc d n v).lidx = c.lidx := rfl
@[simp] theorem fly_world (c : Core) (q : Seq) (cyc : Nat) (d : Dest) (n : Nat) (v : LandVal) : (fly c q cyc d n v).world = c.world := rfl
@[simp] theorem fly_stopAt (c : Core) (q : Seq) (cyc : Nat) (d : Dest) (n : Nat) (v : LandVal) : (fly c q cyc d n v).stopAt = c.stopAt := rfl
@[simp] theorem warn_entry (c : Core) (b : Nat) : (warn c b).entry = c.entry := rfl
@[simp] theorem warn_c (c : Core) (b : Nat) : (warn c b).c = c.c := rfl
@[simp] theorem warn_l (c : Core) (b : Nat) : (warn c b).l = c.l := rfl
@[simp] theorem warn_x (c : Core) (b : Nat) : (warn c b).x = c.x := rfl
@[simp] theorem warn_st (c : Core) (b : Nat) : (warn c b).st = c.st := rfl
@[simp] theorem warn_flight (c : Core) (b : Nat) : (warn c b).flight = c.flight := rfl
@[simp] theorem warn_xlate (c : Core) (b : Nat) : (warn c b).xlate = c.xlate := rfl
@[simp] theorem warn_lq (c : Core) (b : Nat) : (warn c b).lq = c.lq := rfl
@[simp] theorem warn_sq (c : Core) (b : Nat) : (warn c b).sq = c.sq := rfl
@[simp] theorem warn_cq (c : Core) (b : Nat) : (warn c b).cq = c.cq := rfl
@[simp] theorem warn_xq (c : Core) (b : Nat) : (warn c b).xq = c.xq := rfl
@[simp] theorem warn_boqL (c : Core) (b : Nat) : (warn c b).boqL = c.boqL := rfl
@[simp] theorem warn_boqX (c : Core) (b : Nat) : (warn c b).boqX = c.boqX := rfl
@[simp] theorem warn_boqS (c : Core) (b : Nat) : (warn c b).boqS = c.boqS := rfl
@[simp] theorem warn_pushes (c : Core) (b : Nat) : (warn c b).pushes = c.pushes := rfl
@[simp] theorem warn_tokens (c : Core) (b : Nat) : (warn c b).tokens = c.tokens := rfl
@[simp] theorem warn_markL (c : Core) (b : Nat) : (warn c b).markL = c.markL := rfl
@[simp] theorem warn_markS (c : Core) (b : Nat) : (warn c b).markS = c.markS := rfl
@[simp] theorem warn_spad (c : Core) (b : Nat) : (warn c b).spad = c.spad := rfl
@[simp] theorem warn_recent (c : Core) (b : Nat) : (warn c b).recent = c.recent := rfl
@[simp] theorem warn_ctl (c : Core) (b : Nat) : (warn c b).ctl = c.ctl := rfl
@[simp] theorem warn_ctlTag (c : Core) (b : Nat) : (warn c b).ctlTag = c.ctlTag := rfl
@[simp] theorem warn_bars (c : Core) (b : Nat) : (warn c b).bars = c.bars := rfl
@[simp] theorem warn_inbound (c : Core) (b : Nat) : (warn c b).inbound = c.inbound := rfl
@[simp] theorem warn_inTaken (c : Core) (b : Nat) : (warn c b).inTaken = c.inTaken := rfl
@[simp] theorem warn_ob (c : Core) (b : Nat) : (warn c b).ob = c.ob := rfl
@[simp] theorem warn_obScale (c : Core) (b : Nat) : (warn c b).obScale = c.obScale := rfl
@[simp] theorem warn_bBuf (c : Core) (b : Nat) : (warn c b).bBuf = c.bBuf := rfl
@[simp] theorem warn_tiles (c : Core) (b : Nat) : (warn c b).tiles = c.tiles := rfl
@[simp] theorem warn_committed (c : Core) (b : Nat) : (warn c b).committed = c.committed := rfl
@[simp] theorem warn_retired (c : Core) (b : Nat) : (warn c b).retired = c.retired := rfl
@[simp] theorem warn_retireFresh (c : Core) (b : Nat) : (warn c b).retireFresh = c.retireFresh := rfl
@[simp] theorem warn_drain (c : Core) (b : Nat) : (warn c b).drain = c.drain := rfl
@[simp] theorem warn_phases (c : Core) (b : Nat) : (warn c b).phases = c.phases := rfl
@[simp] theorem warn_lastScalar (c : Core) (b : Nat) : (warn c b).lastScalar = c.lastScalar := rfl
@[simp] theorem warn_copyQ (c : Core) (b : Nat) : (warn c b).copyQ = c.copyQ := rfl
@[simp] theorem warn_matQ (c : Core) (b : Nat) : (warn c b).matQ = c.matQ := rfl
@[simp] theorem warn_tileQ (c : Core) (b : Nat) : (warn c b).tileQ = c.tileQ := rfl
@[simp] theorem warn_feedQ (c : Core) (b : Nat) : (warn c b).feedQ = c.feedQ := rfl
@[simp] theorem warn_feedFree (c : Core) (b : Nat) : (warn c b).feedFree = c.feedFree := rfl
@[simp] theorem warn_storeQ (c : Core) (b : Nat) : (warn c b).storeQ = c.storeQ := rfl
@[simp] theorem warn_storeDone (c : Core) (b : Nat) : (warn c b).storeDone = c.storeDone := rfl
@[simp] theorem warn_takers (c : Core) (b : Nat) : (warn c b).takers = c.takers := rfl
@[simp] theorem warn_lqOrder (c : Core) (b : Nat) : (warn c b).lqOrder = c.lqOrder := rfl
@[simp] theorem warn_obNext (c : Core) (b : Nat) : (warn c b).obNext = c.obNext := rfl
@[simp] theorem warn_storeFree (c : Core) (b : Nat) : (warn c b).storeFree = c.storeFree := rfl
@[simp] theorem warn_copyFree (c : Core) (b : Nat) : (warn c b).copyFree = c.copyFree := rfl
@[simp] theorem warn_matFree (c : Core) (b : Nat) : (warn c b).matFree = c.matFree := rfl
@[simp] theorem warn_binQ (c : Core) (b : Nat) : (warn c b).binQ = c.binQ := rfl
@[simp] theorem warn_binFree (c : Core) (b : Nat) : (warn c b).binFree = c.binFree := rfl
@[simp] theorem warn_binPrev (c : Core) (b : Nat) : (warn c b).binPrev = c.binPrev := rfl
@[simp] theorem warn_topkQ (c : Core) (b : Nat) : (warn c b).topkQ = c.topkQ := rfl
@[simp] theorem warn_nest (c : Core) (b : Nat) : (warn c b).nest = c.nest := rfl
@[simp] theorem warn_held (c : Core) (b : Nat) : (warn c b).held = c.held := rfl
@[simp] theorem warn_fences (c : Core) (b : Nat) : (warn c b).fences = c.fences := rfl
@[simp] theorem warn_tcache (c : Core) (b : Nat) : (warn c b).tcache = c.tcache := rfl
@[simp] theorem warn_revoked (c : Core) (b : Nat) : (warn c b).revoked = c.revoked := rfl
@[simp] theorem warn_slots (c : Core) (b : Nat) : (warn c b).slots = c.slots := rfl
@[simp] theorem warn_istore (c : Core) (b : Nat) : (warn c b).istore = c.istore := rfl
@[simp] theorem warn_hazTable (c : Core) (b : Nat) : (warn c b).hazTable = c.hazTable := rfl
@[simp] theorem warn_brks (c : Core) (b : Nat) : (warn c b).brks = c.brks := rfl
@[simp] theorem warn_snapWarn (c : Core) (b : Nat) : (warn c b).snapWarn = c.snapWarn := rfl
@[simp] theorem warn_snapCsn (c : Core) (b : Nat) : (warn c b).snapCsn = c.snapCsn := rfl
@[simp] theorem warn_snapSlip (c : Core) (b : Nat) : (warn c b).snapSlip = c.snapSlip := rfl
@[simp] theorem warn_posts (c : Core) (b : Nat) : (warn c b).posts = c.posts := rfl
@[simp] theorem warn_evPop (c : Core) (b : Nat) : (warn c b).evPop = c.evPop := rfl
@[simp] theorem warn_live (c : Core) (b : Nat) : (warn c b).live = c.live := rfl
@[simp] theorem warn_launch (c : Core) (b : Nat) : (warn c b).launch = c.launch := rfl
@[simp] theorem warn_lidx (c : Core) (b : Nat) : (warn c b).lidx = c.lidx := rfl
@[simp] theorem warn_world (c : Core) (b : Nat) : (warn c b).world = c.world := rfl
@[simp] theorem warn_stopAt (c : Core) (b : Nat) : (warn c b).stopAt = c.stopAt := rfl

end Sys2Proof.Machine
end

