-- ==== Sys2Proof/Laws/Completion.lean ====
section
/-!
SUPPORT. What a command's completion does: the writes it releases, the post it leaves, and everything else as it was.
-/

namespace Sys2Proof.Machine

open Sys2Proof

/-! ### A write released -/

@[simp] theorem bareWrite_releaseWrite (party : Party) (cmd cyc : Nat) (cores : List Nat) (w : SpadWrite) :
    bareWrite (releaseWrite party cmd cyc cores w) = bareWrite w := by
  unfold releaseWrite; split <;> rfl

/-- A write of the command that completes is seen, from the cycle of the completion on, by each core to which it is released. -/
theorem visFrom_releaseWrite (party op : Party) (cmd cyc o : Nat) (cores : List Nat) (w : SpadWrite) (hp : w.party = party)
    (hc : w.cmd = cmd) (ho : o ∈ cores) : visFrom (releaseWrite party cmd cyc cores w) o op ≤ cyc := by
  simp [releaseWrite, hp, hc, visFrom, ho]

/-- A write of another command or party is as it was. -/
theorem releaseWrite_other (party : Party) (cmd cyc : Nat) (cores : List Nat) (w : SpadWrite) (h : w.party ≠ party ∨ w.cmd ≠ cmd) :
    releaseWrite party cmd cyc cores w = w := by
  rw [releaseWrite, if_neg (by rintro ⟨hp, hc⟩; exact h.elim (· hp) (· hc))]

/-! ### releaseCore -/

@[simp] theorem releaseCore_recent (party : Party) (cmd cyc : Nat) (cores : List Nat) (c : Core) :
    (releaseCore party cmd cyc cores c).recent = c.recent.map (releaseWrite party cmd cyc cores) := rfl
@[simp] theorem releaseCore_regs (party : Party) (cmd cyc : Nat) (cores : List Nat) (c : Core) :
    (releaseCore party cmd cyc cores c).regs = c.regs := rfl
@[simp] theorem releaseCore_entry (party : Party) (cmd cyc : Nat) (cores : List Nat) (c : Core) :
    (releaseCore party cmd cyc cores c).entry = c.entry := rfl
@[simp] theorem releaseCore_c (party : Party) (cmd cyc : Nat) (cores : List Nat) (c : Core) :
    (releaseCore party cmd cyc cores c).c = c.c := rfl
@[simp] theorem releaseCore_l (party : Party) (cmd cyc : Nat) (cores : List Nat) (c : Core) :
    (releaseCore party cmd cyc cores c).l = c.l := rfl
@[simp] theorem releaseCore_x (party : Party) (cmd cyc : Nat) (cores : List Nat) (c : Core) :
    (releaseCore party cmd cyc cores c).x = c.x := rfl
@[simp] theorem releaseCore_st (party : Party) (cmd cyc : Nat) (cores : List Nat) (c : Core) :
    (releaseCore party cmd cyc cores c).st = c.st := rfl
@[simp] theorem releaseCore_flight (party : Party) (cmd cyc : Nat) (cores : List Nat) (c : Core) :
    (releaseCore party cmd cyc cores c).flight = c.flight := rfl
@[simp] theorem releaseCore_xlate (party : Party) (cmd cyc : Nat) (cores : List Nat) (c : Core) :
    (releaseCore party cmd cyc cores c).xlate = c.xlate := rfl
@[simp] theorem releaseCore_lq (party : Party) (cmd cyc : Nat) (cores : List Nat) (c : Core) :
    (releaseCore party cmd cyc cores c).lq = c.lq := rfl
@[simp] theorem releaseCore_sq (party : Party) (cmd cyc : Nat) (cores : List Nat) (c : Core) :
    (releaseCore party cmd cyc cores c).sq = c.sq := rfl
@[simp] theorem releaseCore_cq (party : Party) (cmd cyc : Nat) (cores : List Nat) (c : Core) :
    (releaseCore party cmd cyc cores c).cq = c.cq := rfl
@[simp] theorem releaseCore_xq (party : Party) (cmd cyc : Nat) (cores : List Nat) (c : Core) :
    (releaseCore party cmd cyc cores c).xq = c.xq := rfl
@[simp] theorem releaseCore_boqL (party : Party) (cmd cyc : Nat) (cores : List Nat) (c : Core) :
    (releaseCore party cmd cyc cores c).boqL = c.boqL := rfl
@[simp] theorem releaseCore_boqX (party : Party) (cmd cyc : Nat) (cores : List Nat) (c : Core) :
    (releaseCore party cmd cyc cores c).boqX = c.boqX := rfl
@[simp] theorem releaseCore_boqS (party : Party) (cmd cyc : Nat) (cores : List Nat) (c : Core) :
    (releaseCore party cmd cyc cores c).boqS = c.boqS := rfl
@[simp] theorem releaseCore_pushes (party : Party) (cmd cyc : Nat) (cores : List Nat) (c : Core) :
    (releaseCore party cmd cyc cores c).pushes = c.pushes := rfl
@[simp] theorem releaseCore_tokens (party : Party) (cmd cyc : Nat) (cores : List Nat) (c : Core) :
    (releaseCore party cmd cyc cores c).tokens = c.tokens := rfl
@[simp] theorem releaseCore_markL (party : Party) (cmd cyc : Nat) (cores : List Nat) (c : Core) :
    (releaseCore party cmd cyc cores c).markL = c.markL := rfl
@[simp] theorem releaseCore_markS (party : Party) (cmd cyc : Nat) (cores : List Nat) (c : Core) :
    (releaseCore party cmd cyc cores c).markS = c.markS := rfl
@[simp] theorem releaseCore_spad (party : Party) (cmd cyc : Nat) (cores : List Nat) (c : Core) :
    (releaseCore party cmd cyc cores c).spad = c.spad := rfl
@[simp] theorem releaseCore_ctl (party : Party) (cmd cyc : Nat) (cores : List Nat) (c : Core) :
    (releaseCore party cmd cyc cores c).ctl = c.ctl := rfl
@[simp] theorem releaseCore_ctlTag (party : Party) (cmd cyc : Nat) (cores : List Nat) (c : Core) :
    (releaseCore party cmd cyc cores c).ctlTag = c.ctlTag := rfl
@[simp] theorem releaseCore_bars (party : Party) (cmd cyc : Nat) (cores : List Nat) (c : Core) :
    (releaseCore party cmd cyc cores c).bars = c.bars := rfl
@[simp] theorem releaseCore_inbound (party : Party) (cmd cyc : Nat) (cores : List Nat) (c : Core) :
    (releaseCore party cmd cyc cores c).inbound = c.inbound := rfl
@[simp] theorem releaseCore_inTaken (party : Party) (cmd cyc : Nat) (cores : List Nat) (c : Core) :
    (releaseCore party cmd cyc cores c).inTaken = c.inTaken := rfl
@[simp] theorem releaseCore_ob (party : Party) (cmd cyc : Nat) (cores : List Nat) (c : Core) :
    (releaseCore party cmd cyc cores c).ob = c.ob := rfl
@[simp] theorem releaseCore_obScale (party : Party) (cmd cyc : Nat) (cores : List Nat) (c : Core) :
    (releaseCore party cmd cyc cores c).obScale = c.obScale := rfl
@[simp] theorem releaseCore_bBuf (party : Party) (cmd cyc : Nat) (cores : List Nat) (c : Core) :
    (releaseCore party cmd cyc cores c).bBuf = c.bBuf := rfl
@[simp] theorem releaseCore_tiles (party : Party) (cmd cyc : Nat) (cores : List Nat) (c : Core) :
    (releaseCore party cmd cyc cores c).tiles = c.tiles := rfl
@[simp] theorem releaseCore_committed (party : Party) (cmd cyc : Nat) (cores : List Nat) (c : Core) :
    (releaseCore party cmd cyc cores c).committed = c.committed := rfl
@[simp] theorem releaseCore_retired (party : Party) (cmd cyc : Nat) (cores : List Nat) (c : Core) :
    (releaseCore party cmd cyc cores c).retired = c.retired := rfl
@[simp] theorem releaseCore_retireFresh (party : Party) (cmd cyc : Nat) (cores : List Nat) (c : Core) :
    (releaseCore party cmd cyc cores c).retireFresh = c.retireFresh := rfl
@[simp] theorem releaseCore_drain (party : Party) (cmd cyc : Nat) (cores : List Nat) (c : Core) :
    (releaseCore party cmd cyc cores c).drain = c.drain := rfl
@[simp] theorem releaseCore_phases (party : Party) (cmd cyc : Nat) (cores : List Nat) (c : Core) :
    (releaseCore party cmd cyc cores c).phases = c.phases := rfl
@[simp] theorem releaseCore_lastScalar (party : Party) (cmd cyc : Nat) (cores : List Nat) (c : Core) :
    (releaseCore party cmd cyc cores c).lastScalar = c.lastScalar := rfl
@[simp] theorem releaseCore_copyQ (party : Party) (cmd cyc : Nat) (cores : List Nat) (c : Core) :
    (releaseCore party cmd cyc cores c).copyQ = c.copyQ := rfl
@[simp] theorem releaseCore_matQ (party : Party) (cmd cyc : Nat) (cores : List Nat) (c : Core) :
    (releaseCore party cmd cyc cores c).matQ = c.matQ := rfl
@[simp] theorem releaseCore_tileQ (party : Party) (cmd cyc : Nat) (cores : List Nat) (c : Core) :
    (releaseCore party cmd cyc cores c).tileQ = c.tileQ := rfl
@[simp] theorem releaseCore_feedQ (party : Party) (cmd cyc : Nat) (cores : List Nat) (c : Core) :
    (releaseCore party cmd cyc cores c).feedQ = c.feedQ := rfl
@[simp] theorem releaseCore_feedFree (party : Party) (cmd cyc : Nat) (cores : List Nat) (c : Core) :
    (releaseCore party cmd cyc cores c).feedFree = c.feedFree := rfl
@[simp] theorem releaseCore_storeQ (party : Party) (cmd cyc : Nat) (cores : List Nat) (c : Core) :
    (releaseCore party cmd cyc cores c).storeQ = c.storeQ := rfl
@[simp] theorem releaseCore_storeDone (party : Party) (cmd cyc : Nat) (cores : List Nat) (c : Core) :
    (releaseCore party cmd cyc cores c).storeDone = c.storeDone := rfl
@[simp] theorem releaseCore_takers (party : Party) (cmd cyc : Nat) (cores : List Nat) (c : Core) :
    (releaseCore party cmd cyc cores c).takers = c.takers := rfl
@[simp] theorem releaseCore_lqOrder (party : Party) (cmd cyc : Nat) (cores : List Nat) (c : Core) :
    (releaseCore party cmd cyc cores c).lqOrder = c.lqOrder := rfl
@[simp] theorem releaseCore_obNext (party : Party) (cmd cyc : Nat) (cores : List Nat) (c : Core) :
    (releaseCore party cmd cyc cores c).obNext = c.obNext := rfl
@[simp] theorem releaseCore_storeFree (party : Party) (cmd cyc : Nat) (cores : List Nat) (c : Core) :
    (releaseCore party cmd cyc cores c).storeFree = c.storeFree := rfl
@[simp] theorem releaseCore_copyFree (party : Party) (cmd cyc : Nat) (cores : List Nat) (c : Core) :
    (releaseCore party cmd cyc cores c).copyFree = c.copyFree := rfl
@[simp] theorem releaseCore_matFree (party : Party) (cmd cyc : Nat) (cores : List Nat) (c : Core) :
    (releaseCore party cmd cyc cores c).matFree = c.matFree := rfl
@[simp] theorem releaseCore_binQ (party : Party) (cmd cyc : Nat) (cores : List Nat) (c : Core) :
    (releaseCore party cmd cyc cores c).binQ = c.binQ := rfl
@[simp] theorem releaseCore_binFree (party : Party) (cmd cyc : Nat) (cores : List Nat) (c : Core) :
    (releaseCore party cmd cyc cores c).binFree = c.binFree := rfl
@[simp] theorem releaseCore_binPrev (party : Party) (cmd cyc : Nat) (cores : List Nat) (c : Core) :
    (releaseCore party cmd cyc cores c).binPrev = c.binPrev := rfl
@[simp] theorem releaseCore_topkQ (party : Party) (cmd cyc : Nat) (cores : List Nat) (c : Core) :
    (releaseCore party cmd cyc cores c).topkQ = c.topkQ := rfl
@[simp] theorem releaseCore_nest (party : Party) (cmd cyc : Nat) (cores : List Nat) (c : Core) :
    (releaseCore party cmd cyc cores c).nest = c.nest := rfl
@[simp] theorem releaseCore_held (party : Party) (cmd cyc : Nat) (cores : List Nat) (c : Core) :
    (releaseCore party cmd cyc cores c).held = c.held := rfl
@[simp] theorem releaseCore_fences (party : Party) (cmd cyc : Nat) (cores : List Nat) (c : Core) :
    (releaseCore party cmd cyc cores c).fences = c.fences := rfl
@[simp] theorem releaseCore_tcache (party : Party) (cmd cyc : Nat) (cores : List Nat) (c : Core) :
    (releaseCore party cmd cyc cores c).tcache = c.tcache := rfl
@[simp] theorem releaseCore_revoked (party : Party) (cmd cyc : Nat) (cores : List Nat) (c : Core) :
    (releaseCore party cmd cyc cores c).revoked = c.revoked := rfl
@[simp] theorem releaseCore_slots (party : Party) (cmd cyc : Nat) (cores : List Nat) (c : Core) :
    (releaseCore party cmd cyc cores c).slots = c.slots := rfl
@[simp] theorem releaseCore_istore (party : Party) (cmd cyc : Nat) (cores : List Nat) (c : Core) :
    (releaseCore party cmd cyc cores c).istore = c.istore := rfl
@[simp] theorem releaseCore_hazTable (party : Party) (cmd cyc : Nat) (cores : List Nat) (c : Core) :
    (releaseCore party cmd cyc cores c).hazTable = c.hazTable := rfl
@[simp] theorem releaseCore_brks (party : Party) (cmd cyc : Nat) (cores : List Nat) (c : Core) :
    (releaseCore party cmd cyc cores c).brks = c.brks := rfl
@[simp] theorem releaseCore_snapWarn (party : Party) (cmd cyc : Nat) (cores : List Nat) (c : Core) :
    (releaseCore party cmd cyc cores c).snapWarn = c.snapWarn := rfl
@[simp] theorem releaseCore_snapCsn (party : Party) (cmd cyc : Nat) (cores : List Nat) (c : Core) :
    (releaseCore party cmd cyc cores c).snapCsn = c.snapCsn := rfl
@[simp] theorem releaseCore_snapSlip (party : Party) (cmd cyc : Nat) (cores : List Nat) (c : Core) :
    (releaseCore party cmd cyc cores c).snapSlip = c.snapSlip := rfl
@[simp] theorem releaseCore_posts (party : Party) (cmd cyc : Nat) (cores : List Nat) (c : Core) :
    (releaseCore party cmd cyc cores c).posts = c.posts := rfl
@[simp] theorem releaseCore_evPop (party : Party) (cmd cyc : Nat) (cores : List Nat) (c : Core) :
    (releaseCore party cmd cyc cores c).evPop = c.evPop := rfl
@[simp] theorem releaseCore_live (party : Party) (cmd cyc : Nat) (cores : List Nat) (c : Core) :
    (releaseCore party cmd cyc cores c).live = c.live := rfl
@[simp] theorem releaseCore_launch (party : Party) (cmd cyc : Nat) (cores : List Nat) (c : Core) :
    (releaseCore party cmd cyc cores c).launch = c.launch := rfl
@[simp] theorem releaseCore_lidx (party : Party) (cmd cyc : Nat) (cores : List Nat) (c : Core) :
    (releaseCore party cmd cyc cores c).lidx = c.lidx := rfl
@[simp] theorem releaseCore_world (party : Party) (cmd cyc : Nat) (cores : List Nat) (c : Core) :
    (releaseCore party cmd cyc cores c).world = c.world := rfl
@[simp] theorem releaseCore_stopAt (party : Party) (cmd cyc : Nat) (cores : List Nat) (c : Core) :
    (releaseCore party cmd cyc cores c).stopAt = c.stopAt := rfl

theorem releaseCore_zero (party : Party) (cmd cyc : Nat) (cores : List Nat) : releaseCore party cmd cyc cores Core.zero = Core.zero := rfl

/-! ### releaseAll -/

@[simp] theorem getCore_releaseAll (s : State) (party : Party) (cmd q : Nat) (cores : List Nat) :
    getCore (releaseAll s party cmd cores) q = releaseCore party cmd s.cyc cores (getCore s q) := by
  simp only [getCore, releaseAll]
  induction s.cores with
  | nil => rfl
  | cons e m ih =>
    obtain ⟨j, c⟩ := e
    simp only [List.map_cons, smGet]
    split
    · rfl
    · exact ih

@[simp] theorem releaseAll_cyc (s : State) (party : Party) (cmd : Nat) (cores : List Nat) :
    (releaseAll s party cmd cores).cyc = s.cyc := rfl
@[simp] theorem releaseAll_dtime (s : State) (party : Party) (cmd : Nat) (cores : List Nat) :
    (releaseAll s party cmd cores).dtime = s.dtime := rfl
@[simp] theorem releaseAll_turn (s : State) (party : Party) (cmd : Nat) (cores : List Nat) :
    (releaseAll s party cmd cores).turn = s.turn := rfl
@[simp] theorem releaseAll_ids (s : State) (party : Party) (cmd : Nat) (cores : List Nat) :
    (releaseAll s party cmd cores).ids = s.ids := rfl
@[simp] theorem releaseAll_free (s : State) (party : Party) (cmd : Nat) (cores : List Nat) :
    (releaseAll s party cmd cores).free = s.free := rfl
@[simp] theorem releaseAll_boot (s : State) (party : Party) (cmd : Nat) (cores : List Nat) :
    (releaseAll s party cmd cores).boot = s.boot := rfl
@[simp] theorem releaseAll_frameLog2 (s : State) (party : Party) (cmd : Nat) (cores : List Nat) :
    (releaseAll s party cmd cores).frameLog2 = s.frameLog2 := rfl
@[simp] theorem releaseAll_chans (s : State) (party : Party) (cmd : Nat) (cores : List Nat) :
    (releaseAll s party cmd cores).chans = s.chans := rfl
@[simp] theorem releaseAll_rows (s : State) (party : Party) (cmd : Nat) (cores : List Nat) :
    (releaseAll s party cmd cores).rows = s.rows := rfl
@[simp] theorem releaseAll_colls (s : State) (party : Party) (cmd : Nat) (cores : List Nat) :
    (releaseAll s party cmd cores).colls = s.colls := rfl
@[simp] theorem releaseAll_launches (s : State) (party : Party) (cmd : Nat) (cores : List Nat) :
    (releaseAll s party cmd cores).launches = s.launches := rfl
@[simp] theorem releaseAll_worlds (s : State) (party : Party) (cmd : Nat) (cores : List Nat) :
    (releaseAll s party cmd cores).worlds = s.worlds := rfl
@[simp] theorem releaseAll_keys (s : State) (party : Party) (cmd : Nat) (cores : List Nat) :
    (releaseAll s party cmd cores).keys = s.keys := rfl
@[simp] theorem releaseAll_casks (s : State) (party : Party) (cmd : Nat) (cores : List Nat) :
    (releaseAll s party cmd cores).casks = s.casks := rfl
@[simp] theorem releaseAll_owed (s : State) (party : Party) (cmd : Nat) (cores : List Nat) :
    (releaseAll s party cmd cores).owed = s.owed := rfl
@[simp] theorem releaseAll_throttle (s : State) (party : Party) (cmd : Nat) (cores : List Nat) :
    (releaseAll s party cmd cores).throttle = s.throttle := rfl
@[simp] theorem releaseAll_hottest (s : State) (party : Party) (cmd : Nat) (cores : List Nat) :
    (releaseAll s party cmd cores).hottest = s.hottest := rfl
@[simp] theorem releaseAll_cool (s : State) (party : Party) (cmd : Nat) (cores : List Nat) :
    (releaseAll s party cmd cores).cool = s.cool := rfl
@[simp] theorem releaseAll_reached (s : State) (party : Party) (cmd : Nat) (cores : List Nat) :
    (releaseAll s party cmd cores).reached = s.reached := rfl
@[simp] theorem releaseAll_pkg (s : State) (party : Party) (cmd : Nat) (cores : List Nat) :
    (releaseAll s party cmd cores).pkg = s.pkg := rfl
@[simp] theorem releaseAll_side (s : State) (party : Party) (cmd : Nat) (cores : List Nat) :
    (releaseAll s party cmd cores).side = s.side := rfl
@[simp] theorem releaseAll_fixes (s : State) (party : Party) (cmd : Nat) (cores : List Nat) :
    (releaseAll s party cmd cores).fixes = s.fixes := rfl
@[simp] theorem releaseAll_frameTable (s : State) (party : Party) (cmd : Nat) (cores : List Nat) :
    (releaseAll s party cmd cores).frameTable = s.frameTable := rfl
@[simp] theorem releaseAll_rewrites (s : State) (party : Party) (cmd : Nat) (cores : List Nat) :
    (releaseAll s party cmd cores).rewrites = s.rewrites := rfl
@[simp] theorem releaseAll_badRows (s : State) (party : Party) (cmd : Nat) (cores : List Nat) :
    (releaseAll s party cmd cores).badRows = s.badRows := rfl
@[simp] theorem releaseAll_host (s : State) (party : Party) (cmd : Nat) (cores : List Nat) :
    (releaseAll s party cmd cores).host = s.host := rfl
@[simp] theorem releaseAll_domainMem (s : State) (party : Party) (cmd : Nat) (cores : List Nat) :
    (releaseAll s party cmd cores).domainMem = s.domainMem := rfl
@[simp] theorem releaseAll_inbox (s : State) (party : Party) (cmd : Nat) (cores : List Nat) :
    (releaseAll s party cmd cores).inbox = s.inbox := rfl
@[simp] theorem releaseAll_outbox (s : State) (party : Party) (cmd : Nat) (cores : List Nat) :
    (releaseAll s party cmd cores).outbox = s.outbox := rfl
@[simp] theorem releaseAll_domain (s : State) (party : Party) (cmd : Nat) (cores : List Nat) :
    (releaseAll s party cmd cores).domain = s.domain := rfl
@[simp] theorem releaseAll_linkKeys (s : State) (party : Party) (cmd : Nat) (cores : List Nat) :
    (releaseAll s party cmd cores).linkKeys = s.linkKeys := rfl
@[simp] theorem releaseAll_source (s : State) (party : Party) (cmd : Nat) (cores : List Nat) :
    (releaseAll s party cmd cores).source = s.source := rfl
@[simp] theorem releaseAll_locked (s : State) (party : Party) (cmd : Nat) (cores : List Nat) :
    (releaseAll s party cmd cores).locked = s.locked := rfl
@[simp] theorem releaseAll_groups (s : State) (party : Party) (cmd : Nat) (cores : List Nat) :
    (releaseAll s party cmd cores).groups = s.groups := rfl
@[simp] theorem releaseAll_devMacKey (s : State) (party : Party) (cmd : Nat) (cores : List Nat) :
    (releaseAll s party cmd cores).devMacKey = s.devMacKey := rfl
@[simp] theorem releaseAll_flash (s : State) (party : Party) (cmd : Nat) (cores : List Nat) :
    (releaseAll s party cmd cores).flash = s.flash := rfl
@[simp] theorem releaseAll_rcvWindow (s : State) (party : Party) (cmd : Nat) (cores : List Nat) :
    (releaseAll s party cmd cores).rcvWindow = s.rcvWindow := rfl
@[simp] theorem releaseAll_minSvn (s : State) (party : Party) (cmd : Nat) (cores : List Nat) :
    (releaseAll s party cmd cores).minSvn = s.minSvn := rfl
@[simp] theorem releaseAll_meas (s : State) (party : Party) (cmd : Nat) (cores : List Nat) :
    (releaseAll s party cmd cores).meas = s.meas := rfl
@[simp] theorem releaseAll_devid (s : State) (party : Party) (cmd : Nat) (cores : List Nat) :
    (releaseAll s party cmd cores).devid = s.devid := rfl
@[simp] theorem releaseAll_alias_ (s : State) (party : Party) (cmd : Nat) (cores : List Nat) :
    (releaseAll s party cmd cores).alias_ = s.alias_ := rfl
@[simp] theorem releaseAll_certs (s : State) (party : Party) (cmd : Nat) (cores : List Nat) :
    (releaseAll s party cmd cores).certs = s.certs := rfl
@[simp] theorem releaseAll_session (s : State) (party : Party) (cmd : Nat) (cores : List Nat) :
    (releaseAll s party cmd cores).session = s.session := rfl
@[simp] theorem releaseAll_ports (s : State) (party : Party) (cmd : Nat) (cores : List Nat) :
    (releaseAll s party cmd cores).ports = s.ports := rfl
@[simp] theorem releaseAll_pfLog (s : State) (party : Party) (cmd : Nat) (cores : List Nat) :
    (releaseAll s party cmd cores).pfLog = s.pfLog := rfl
@[simp] theorem releaseAll_off (s : State) (party : Party) (cmd : Nat) (cores : List Nat) :
    (releaseAll s party cmd cores).off = s.off := rfl
@[simp] theorem releaseAll_frameDone (s : State) (party : Party) (cmd : Nat) (cores : List Nat) :
    (releaseAll s party cmd cores).frameDone = s.frameDone := rfl
@[simp] theorem releaseAll_gapDone (s : State) (party : Party) (cmd : Nat) (cores : List Nat) :
    (releaseAll s party cmd cores).gapDone = s.gapDone := rfl

/-! ### post -/

@[simp] theorem post_posts (c : Core) (cyc engine : Nat) (status : Option Nat) (party : Party) (b : Option BarRef) (n : Nat) (fail : Bool) :
    (post c cyc engine status party b n fail).posts = insertPost ⟨cyc, engine, status, party, b, n, fail⟩ c.posts := rfl
@[simp] theorem post_regs (c : Core) (cyc engine : Nat) (status : Option Nat) (party : Party) (b : Option BarRef) (n : Nat)
    (fail : Bool) : (post c cyc engine status party b n fail).regs = c.regs := rfl
@[simp] theorem post_entry (c : Core) (cyc engine : Nat) (status : Option Nat) (party : Party) (b : Option BarRef) (n : Nat)
    (fail : Bool) : (post c cyc engine status party b n fail).entry = c.entry := rfl
@[simp] theorem post_c (c : Core) (cyc engine : Nat) (status : Option Nat) (party : Party) (b : Option BarRef) (n : Nat)
    (fail : Bool) : (post c cyc engine status party b n fail).c = c.c := rfl
@[simp] theorem post_l (c : Core) (cyc engine : Nat) (status : Option Nat) (party : Party) (b : Option BarRef) (n : Nat)
    (fail : Bool) : (post c cyc engine status party b n fail).l = c.l := rfl
@[simp] theorem post_x (c : Core) (cyc engine : Nat) (status : Option Nat) (party : Party) (b : Option BarRef) (n : Nat)
    (fail : Bool) : (post c cyc engine status party b n fail).x = c.x := rfl
@[simp] theorem post_st (c : Core) (cyc engine : Nat) (status : Option Nat) (party : Party) (b : Option BarRef) (n : Nat)
    (fail : Bool) : (post c cyc engine status party b n fail).st = c.st := rfl
@[simp] theorem post_flight (c : Core) (cyc engine : Nat) (status : Option Nat) (party : Party) (b : Option BarRef) (n : Nat)
    (fail : Bool) : (post c cyc engine status party b n fail).flight = c.flight := rfl
@[simp] theorem post_xlate (c : Core) (cyc engine : Nat) (status : Option Nat) (party : Party) (b : Option BarRef) (n : Nat)
    (fail : Bool) : (post c cyc engine status party b n fail).xlate = c.xlate := rfl
@[simp] theorem post_lq (c : Core) (cyc engine : Nat) (status : Option Nat) (party : Party) (b : Option BarRef) (n : Nat)
    (fail : Bool) : (post c cyc engine status party b n fail).lq = c.lq := rfl
@[simp] theorem post_sq (c : Core) (cyc engine : Nat) (status : Option Nat) (party : Party) (b : Option BarRef) (n : Nat)
    (fail : Bool) : (post c cyc engine status party b n fail).sq = c.sq := rfl
@[simp] theorem post_cq (c : Core) (cyc engine : Nat) (status : Option Nat) (party : Party) (b : Option BarRef) (n : Nat)
    (fail : Bool) : (post c cyc engine status party b n fail).cq = c.cq := rfl
@[simp] theorem post_xq (c : Core) (cyc engine : Nat) (status : Option Nat) (party : Party) (b : Option BarRef) (n : Nat)
    (fail : Bool) : (post c cyc engine status party b n fail).xq = c.xq := rfl
@[simp] theorem post_boqL (c : Core) (cyc engine : Nat) (status : Option Nat) (party : Party) (b : Option BarRef) (n : Nat)
    (fail : Bool) : (post c cyc engine status party b n fail).boqL = c.boqL := rfl
@[simp] theorem post_boqX (c : Core) (cyc engine : Nat) (status : Option Nat) (party : Party) (b : Option BarRef) (n : Nat)
    (fail : Bool) : (post c cyc engine status party b n fail).boqX = c.boqX := rfl
@[simp] theorem post_boqS (c : Core) (cyc engine : Nat) (status : Option Nat) (party : Party) (b : Option BarRef) (n : Nat)
    (fail : Bool) : (post c cyc engine status party b n fail).boqS = c.boqS := rfl
@[simp] theorem post_pushes (c : Core) (cyc engine : Nat) (status : Option Nat) (party : Party) (b : Option BarRef) (n : Nat)
    (fail : Bool) : (post c cyc engine status party b n fail).pushes = c.pushes := rfl
@[simp] theorem post_tokens (c : Core) (cyc engine : Nat) (status : Option Nat) (party : Party) (b : Option BarRef) (n : Nat)
    (fail : Bool) : (post c cyc engine status party b n fail).tokens = c.tokens := rfl
@[simp] theorem post_markL (c : Core) (cyc engine : Nat) (status : Option Nat) (party : Party) (b : Option BarRef) (n : Nat)
    (fail : Bool) : (post c cyc engine status party b n fail).markL = c.markL := rfl
@[simp] theorem post_markS (c : Core) (cyc engine : Nat) (status : Option Nat) (party : Party) (b : Option BarRef) (n : Nat)
    (fail : Bool) : (post c cyc engine status party b n fail).markS = c.markS := rfl
@[simp] theorem post_spad (c : Core) (cyc engine : Nat) (status : Option Nat) (party : Party) (b : Option BarRef) (n : Nat)
    (fail : Bool) : (post c cyc engine status party b n fail).spad = c.spad := rfl
@[simp] theorem post_recent (c : Core) (cyc engine : Nat) (status : Option Nat) (party : Party) (b : Option BarRef) (n : Nat)
    (fail : Bool) : (post c cyc engine status party b n fail).recent = c.recent := rfl
@[simp] theorem post_ctl (c : Core) (cyc engine : Nat) (status : Option Nat) (party : Party) (b : Option BarRef) (n : Nat)
    (fail : Bool) : (post c cyc engine status party b n fail).ctl = c.ctl := rfl
@[simp] theorem post_ctlTag (c : Core) (cyc engine : Nat) (status : Option Nat) (party : Party) (b : Option BarRef) (n : Nat)
    (fail : Bool) : (post c cyc engine status party b n fail).ctlTag = c.ctlTag := rfl
@[simp] theorem post_bars (c : Core) (cyc engine : Nat) (status : Option Nat) (party : Party) (b : Option BarRef) (n : Nat)
    (fail : Bool) : (post c cyc engine status party b n fail).bars = c.bars := rfl
@[simp] theorem post_inbound (c : Core) (cyc engine : Nat) (status : Option Nat) (party : Party) (b : Option BarRef) (n : Nat)
    (fail : Bool) : (post c cyc engine status party b n fail).inbound = c.inbound := rfl
@[simp] theorem post_inTaken (c : Core) (cyc engine : Nat) (status : Option Nat) (party : Party) (b : Option BarRef) (n : Nat)
    (fail : Bool) : (post c cyc engine status party b n fail).inTaken = c.inTaken := rfl
@[simp] theorem post_ob (c : Core) (cyc engine : Nat) (status : Option Nat) (party : Party) (b : Option BarRef) (n : Nat)
    (fail : Bool) : (post c cyc engine status party b n fail).ob = c.ob := rfl
@[simp] theorem post_obScale (c : Core) (cyc engine : Nat) (status : Option Nat) (party : Party) (b : Option BarRef) (n : Nat)
    (fail : Bool) : (post c cyc engine status party b n fail).obScale = c.obScale := rfl
@[simp] theorem post_bBuf (c : Core) (cyc engine : Nat) (status : Option Nat) (party : Party) (b : Option BarRef) (n : Nat)
    (fail : Bool) : (post c cyc engine status party b n fail).bBuf = c.bBuf := rfl
@[simp] theorem post_tiles (c : Core) (cyc engine : Nat) (status : Option Nat) (party : Party) (b : Option BarRef) (n : Nat)
    (fail : Bool) : (post c cyc engine status party b n fail).tiles = c.tiles := rfl
@[simp] theorem post_committed (c : Core) (cyc engine : Nat) (status : Option Nat) (party : Party) (b : Option BarRef) (n : Nat)
    (fail : Bool) : (post c cyc engine status party b n fail).committed = c.committed := rfl
@[simp] theorem post_retired (c : Core) (cyc engine : Nat) (status : Option Nat) (party : Party) (b : Option BarRef) (n : Nat)
    (fail : Bool) : (post c cyc engine status party b n fail).retired = c.retired := rfl
@[simp] theorem post_retireFresh (c : Core) (cyc engine : Nat) (status : Option Nat) (party : Party) (b : Option BarRef) (n : Nat)
    (fail : Bool) : (post c cyc engine status party b n fail).retireFresh = c.retireFresh := rfl
@[simp] theorem post_drain (c : Core) (cyc engine : Nat) (status : Option Nat) (party : Party) (b : Option BarRef) (n : Nat)
    (fail : Bool) : (post c cyc engine status party b n fail).drain = c.drain := rfl
@[simp] theorem post_phases (c : Core) (cyc engine : Nat) (status : Option Nat) (party : Party) (b : Option BarRef) (n : Nat)
    (fail : Bool) : (post c cyc engine status party b n fail).phases = c.phases := rfl
@[simp] theorem post_lastScalar (c : Core) (cyc engine : Nat) (status : Option Nat) (party : Party) (b : Option BarRef) (n : Nat)
    (fail : Bool) : (post c cyc engine status party b n fail).lastScalar = c.lastScalar := rfl
@[simp] theorem post_copyQ (c : Core) (cyc engine : Nat) (status : Option Nat) (party : Party) (b : Option BarRef) (n : Nat)
    (fail : Bool) : (post c cyc engine status party b n fail).copyQ = c.copyQ := rfl
@[simp] theorem post_matQ (c : Core) (cyc engine : Nat) (status : Option Nat) (party : Party) (b : Option BarRef) (n : Nat)
    (fail : Bool) : (post c cyc engine status party b n fail).matQ = c.matQ := rfl
@[simp] theorem post_tileQ (c : Core) (cyc engine : Nat) (status : Option Nat) (party : Party) (b : Option BarRef) (n : Nat)
    (fail : Bool) : (post c cyc engine status party b n fail).tileQ = c.tileQ := rfl
@[simp] theorem post_feedQ (c : Core) (cyc engine : Nat) (status : Option Nat) (party : Party) (b : Option BarRef) (n : Nat)
    (fail : Bool) : (post c cyc engine status party b n fail).feedQ = c.feedQ := rfl
@[simp] theorem post_feedFree (c : Core) (cyc engine : Nat) (status : Option Nat) (party : Party) (b : Option BarRef) (n : Nat)
    (fail : Bool) : (post c cyc engine status party b n fail).feedFree = c.feedFree := rfl
@[simp] theorem post_storeQ (c : Core) (cyc engine : Nat) (status : Option Nat) (party : Party) (b : Option BarRef) (n : Nat)
    (fail : Bool) : (post c cyc engine status party b n fail).storeQ = c.storeQ := rfl
@[simp] theorem post_storeDone (c : Core) (cyc engine : Nat) (status : Option Nat) (party : Party) (b : Option BarRef) (n : Nat)
    (fail : Bool) : (post c cyc engine status party b n fail).storeDone = c.storeDone := rfl
@[simp] theorem post_takers (c : Core) (cyc engine : Nat) (status : Option Nat) (party : Party) (b : Option BarRef) (n : Nat)
    (fail : Bool) : (post c cyc engine status party b n fail).takers = c.takers := rfl
@[simp] theorem post_lqOrder (c : Core) (cyc engine : Nat) (status : Option Nat) (party : Party) (b : Option BarRef) (n : Nat)
    (fail : Bool) : (post c cyc engine status party b n fail).lqOrder = c.lqOrder := rfl
@[simp] theorem post_obNext (c : Core) (cyc engine : Nat) (status : Option Nat) (party : Party) (b : Option BarRef) (n : Nat)
    (fail : Bool) : (post c cyc engine status party b n fail).obNext = c.obNext := rfl
@[simp] theorem post_storeFree (c : Core) (cyc engine : Nat) (status : Option Nat) (party : Party) (b : Option BarRef) (n : Nat)
    (fail : Bool) : (post c cyc engine status party b n fail).storeFree = c.storeFree := rfl
@[simp] theorem post_copyFree (c : Core) (cyc engine : Nat) (status : Option Nat) (party : Party) (b : Option BarRef) (n : Nat)
    (fail : Bool) : (post c cyc engine status party b n fail).copyFree = c.copyFree := rfl
@[simp] theorem post_matFree (c : Core) (cyc engine : Nat) (status : Option Nat) (party : Party) (b : Option BarRef) (n : Nat)
    (fail : Bool) : (post c cyc engine status party b n fail).matFree = c.matFree := rfl
@[simp] theorem post_binQ (c : Core) (cyc engine : Nat) (status : Option Nat) (party : Party) (b : Option BarRef) (n : Nat)
    (fail : Bool) : (post c cyc engine status party b n fail).binQ = c.binQ := rfl
@[simp] theorem post_binFree (c : Core) (cyc engine : Nat) (status : Option Nat) (party : Party) (b : Option BarRef) (n : Nat)
    (fail : Bool) : (post c cyc engine status party b n fail).binFree = c.binFree := rfl
@[simp] theorem post_binPrev (c : Core) (cyc engine : Nat) (status : Option Nat) (party : Party) (b : Option BarRef) (n : Nat)
    (fail : Bool) : (post c cyc engine status party b n fail).binPrev = c.binPrev := rfl
@[simp] theorem post_topkQ (c : Core) (cyc engine : Nat) (status : Option Nat) (party : Party) (b : Option BarRef) (n : Nat)
    (fail : Bool) : (post c cyc engine status party b n fail).topkQ = c.topkQ := rfl
@[simp] theorem post_nest (c : Core) (cyc engine : Nat) (status : Option Nat) (party : Party) (b : Option BarRef) (n : Nat)
    (fail : Bool) : (post c cyc engine status party b n fail).nest = c.nest := rfl
@[simp] theorem post_held (c : Core) (cyc engine : Nat) (status : Option Nat) (party : Party) (b : Option BarRef) (n : Nat)
    (fail : Bool) : (post c cyc engine status party b n fail).held = c.held := rfl
@[simp] theorem post_fences (c : Core) (cyc engine : Nat) (status : Option Nat) (party : Party) (b : Option BarRef) (n : Nat)
    (fail : Bool) : (post c cyc engine status party b n fail).fences = c.fences := rfl
@[simp] theorem post_tcache (c : Core) (cyc engine : Nat) (status : Option Nat) (party : Party) (b : Option BarRef) (n : Nat)
    (fail : Bool) : (post c cyc engine status party b n fail).tcache = c.tcache := rfl
@[simp] theorem post_revoked (c : Core) (cyc engine : Nat) (status : Option Nat) (party : Party) (b : Option BarRef) (n : Nat)
    (fail : Bool) : (post c cyc engine status party b n fail).revoked = c.revoked := rfl
@[simp] theorem post_slots (c : Core) (cyc engine : Nat) (status : Option Nat) (party : Party) (b : Option BarRef) (n : Nat)
    (fail : Bool) : (post c cyc engine status party b n fail).slots = c.slots := rfl
@[simp] theorem post_istore (c : Core) (cyc engine : Nat) (status : Option Nat) (party : Party) (b : Option BarRef) (n : Nat)
    (fail : Bool) : (post c cyc engine status party b n fail).istore = c.istore := rfl
@[simp] theorem post_hazTable (c : Core) (cyc engine : Nat) (status : Option Nat) (party : Party) (b : Option BarRef) (n : Nat)
    (fail : Bool) : (post c cyc engine status party b n fail).hazTable = c.hazTable := rfl
@[simp] theorem post_brks (c : Core) (cyc engine : Nat) (status : Option Nat) (party : Party) (b : Option BarRef) (n : Nat)
    (fail : Bool) : (post c cyc engine status party b n fail).brks = c.brks := rfl
@[simp] theorem post_snapWarn (c : Core) (cyc engine : Nat) (status : Option Nat) (party : Party) (b : Option BarRef) (n : Nat)
    (fail : Bool) : (post c cyc engine status party b n fail).snapWarn = c.snapWarn := rfl
@[simp] theorem post_snapCsn (c : Core) (cyc engine : Nat) (status : Option Nat) (party : Party) (b : Option BarRef) (n : Nat)
    (fail : Bool) : (post c cyc engine status party b n fail).snapCsn = c.snapCsn := rfl
@[simp] theorem post_snapSlip (c : Core) (cyc engine : Nat) (status : Option Nat) (party : Party) (b : Option BarRef) (n : Nat)
    (fail : Bool) : (post c cyc engine status party b n fail).snapSlip = c.snapSlip := rfl
@[simp] theorem post_evPop (c : Core) (cyc engine : Nat) (status : Option Nat) (party : Party) (b : Option BarRef) (n : Nat)
    (fail : Bool) : (post c cyc engine status party b n fail).evPop = c.evPop := rfl
@[simp] theorem post_live (c : Core) (cyc engine : Nat) (status : Option Nat) (party : Party) (b : Option BarRef) (n : Nat)
    (fail : Bool) : (post c cyc engine status party b n fail).live = c.live := rfl
@[simp] theorem post_launch (c : Core) (cyc engine : Nat) (status : Option Nat) (party : Party) (b : Option BarRef) (n : Nat)
    (fail : Bool) : (post c cyc engine status party b n fail).launch = c.launch := rfl
@[simp] theorem post_lidx (c : Core) (cyc engine : Nat) (status : Option Nat) (party : Party) (b : Option BarRef) (n : Nat)
    (fail : Bool) : (post c cyc engine status party b n fail).lidx = c.lidx := rfl
@[simp] theorem post_world (c : Core) (cyc engine : Nat) (status : Option Nat) (party : Party) (b : Option BarRef) (n : Nat)
    (fail : Bool) : (post c cyc engine status party b n fail).world = c.world := rfl
@[simp] theorem post_stopAt (c : Core) (cyc engine : Nat) (status : Option Nat) (party : Party) (b : Option BarRef) (n : Nat)
    (fail : Bool) : (post c cyc engine status party b n fail).stopAt = c.stopAt := rfl

/-! ### completeCommand -/

/-- A completion's own core keeps all but its released writes and its new post. -/
theorem getCore_completeCommand (s : State) (p : Nat) (party : Party) (cmd engine status : Nat) (b : Option BarRef) (n : Nat) (fail : Bool) :
    getCore (completeCommand s p party cmd engine status b n fail) p =
      post (releaseCore party cmd s.cyc (releasedTo p b) (getCore s p)) s.cyc engine (some status) party b n fail := by
  simp [completeCommand]

/-- Any other core keeps all but its released writes. -/
theorem getCore_completeCommand_ne (s : State) (p q : Nat) (party : Party) (cmd engine status : Nat) (b : Option BarRef) (n : Nat)
    (fail : Bool) (h : q ≠ p) :
    getCore (completeCommand s p party cmd engine status b n fail) q = releaseCore party cmd s.cyc (releasedTo p b) (getCore s q) := by
  rw [completeCommand, getCore_updCore_ne _ _ _ _ h, getCore_releaseAll]

theorem mem_releasedTo_self (p : Nat) (b : Option BarRef) : p ∈ releasedTo p b := by
  unfold releasedTo; split
  · split <;> simp
  · simp

theorem mem_releasedTo_barrier (p : Nat) (b : BarRef) : b.core ∈ releasedTo p (some b) := by
  by_cases h : b.core = p <;> simp [releasedTo, h]

/-- The completion of a command is what `Completes` says. -/
theorem completes_completeCommand (s : State) (p : Nat) (party : Party) (cmd engine status : Nat) (b : Option BarRef) (n : Nat) (fail : Bool) :
    Completes s (completeCommand s p party cmd engine status b n fail) p party cmd engine status b n fail (getCore s p) := by
  have hp := getCore_completeCommand s p party cmd engine status b n fail
  refine ⟨by rw [hp]; rfl, by rw [hp]; simp, fun q hq w hw h1 h2 op => ?_⟩
  have hr : w ∈ (releaseCore party cmd s.cyc (releasedTo p b) (getCore s q)).recent := by
    by_cases h : q = p
    · subst h; rw [hp] at hw; exact hw
    · rwa [getCore_completeCommand_ne _ _ _ _ _ _ _ _ _ _ h] at hw
  obtain ⟨v, -, rfl⟩ := List.mem_map.mp hr
  by_cases hv : v.party = party ∧ v.cmd = cmd
  · exact visFrom_releaseWrite party op cmd s.cyc q _ v hv.1 hv.2 hq
  · rw [releaseWrite, if_neg hv] at h1 h2
    exact absurd ⟨h1, h2⟩ hv

end Sys2Proof.Machine
end

