-- ==== Sys2Proof/Laws/Exec.lean ====
section
/-!
SUPPORT. What exec is, constructor by constructor.
-/

namespace Sys2Proof.Machine

open Sys2Proof

@[simp] theorem exec_add (h : Hdr) (d a b : Reg) (s : State) : exec (.add h d a b) s = execAdd h d a b s := rfl
@[simp] theorem exec_sub (h : Hdr) (d a b : Reg) (s : State) : exec (.sub h d a b) s = execSub h d a b s := rfl
@[simp] theorem exec_mul (h : Hdr) (d a b : Reg) (s : State) : exec (.mul h d a b) s = execMul h d a b s := rfl
@[simp] theorem exec_mulh (h : Hdr) (d a b : Reg) (s : State) : exec (.mulh h d a b) s = execMulh h d a b s := rfl
@[simp] theorem exec_mulhn (h : Hdr) (d a b : Reg) (s : State) : exec (.mulhn h d a b) s = execMulhn h d a b s := rfl
@[simp] theorem exec_div (h : Hdr) (d a b : Reg) (s : State) : exec (.div h d a b) s = execDiv h d a b s := rfl
@[simp] theorem exec_divn (h : Hdr) (d a b : Reg) (s : State) : exec (.divn h d a b) s = execDivn h d a b s := rfl
@[simp] theorem exec_rem (h : Hdr) (d a b : Reg) (s : State) : exec (.rem h d a b) s = execRem h d a b s := rfl
@[simp] theorem exec_remn (h : Hdr) (d a b : Reg) (s : State) : exec (.remn h d a b) s = execRemn h d a b s := rfl
@[simp] theorem exec_and (h : Hdr) (d a b : Reg) (s : State) : exec (.and h d a b) s = execAnd h d a b s := rfl
@[simp] theorem exec_andn (h : Hdr) (d a b : Reg) (s : State) : exec (.andn h d a b) s = execAndn h d a b s := rfl
@[simp] theorem exec_or (h : Hdr) (d a b : Reg) (s : State) : exec (.or h d a b) s = execOr h d a b s := rfl
@[simp] theorem exec_xor (h : Hdr) (d a b : Reg) (s : State) : exec (.xor h d a b) s = execXor h d a b s := rfl
@[simp] theorem exec_shl (h : Hdr) (d a b : Reg) (s : State) : exec (.shl h d a b) s = execShl h d a b s := rfl
@[simp] theorem exec_shr (h : Hdr) (d a b : Reg) (s : State) : exec (.shr h d a b) s = execShr h d a b s := rfl
@[simp] theorem exec_sha (h : Hdr) (d a b : Reg) (s : State) : exec (.sha h d a b) s = execSha h d a b s := rfl
@[simp] theorem exec_rot (h : Hdr) (d a b : Reg) (s : State) : exec (.rot h d a b) s = execRot h d a b s := rfl
@[simp] theorem exec_min (h : Hdr) (d a b : Reg) (s : State) : exec (.min h d a b) s = execMin h d a b s := rfl
@[simp] theorem exec_minn (h : Hdr) (d a b : Reg) (s : State) : exec (.minn h d a b) s = execMinn h d a b s := rfl
@[simp] theorem exec_max (h : Hdr) (d a b : Reg) (s : State) : exec (.max h d a b) s = execMax h d a b s := rfl
@[simp] theorem exec_maxn (h : Hdr) (d a b : Reg) (s : State) : exec (.maxn h d a b) s = execMaxn h d a b s := rfl
@[simp] theorem exec_cmpeq (h : Hdr) (d a b : Reg) (s : State) : exec (.cmpeq h d a b) s = execCmpeq h d a b s := rfl
@[simp] theorem exec_cmpne (h : Hdr) (d a b : Reg) (s : State) : exec (.cmpne h d a b) s = execCmpne h d a b s := rfl
@[simp] theorem exec_cmplt (h : Hdr) (d a b : Reg) (s : State) : exec (.cmplt h d a b) s = execCmplt h d a b s := rfl
@[simp] theorem exec_cmpltn (h : Hdr) (d a b : Reg) (s : State) : exec (.cmpltn h d a b) s = execCmpltn h d a b s := rfl
@[simp] theorem exec_cmple (h : Hdr) (d a b : Reg) (s : State) : exec (.cmple h d a b) s = execCmple h d a b s := rfl
@[simp] theorem exec_cmplen (h : Hdr) (d a b : Reg) (s : State) : exec (.cmplen h d a b) s = execCmplen h d a b s := rfl
@[simp] theorem exec_sel (h : Hdr) (d a b : Reg) (s : State) : exec (.sel h d a b) s = execSel h d a b s := rfl
@[simp] theorem exec_clz (h : Hdr) (d a : Reg) (s : State) : exec (.clz h d a) s = execClz h d a s := rfl
@[simp] theorem exec_ctz (h : Hdr) (d a : Reg) (s : State) : exec (.ctz h d a) s = execCtz h d a s := rfl
@[simp] theorem exec_popc (h : Hdr) (d a : Reg) (s : State) : exec (.popc h d a) s = execPopc h d a s := rfl
@[simp] theorem exec_sext (h : Hdr) (d a : Reg) (w : BitVec 5) (s : State) : exec (.sext h d a w) s = execSext h d a w s := rfl
@[simp] theorem exec_zext (h : Hdr) (d a : Reg) (w : BitVec 5) (s : State) : exec (.zext h d a w) s = execZext h d a w s := rfl
@[simp] theorem exec_addi (h : Hdr) (d a : Reg) (imm : BitVec 10) (s : State) : exec (.addi h d a imm) s = execAddi h d a imm s := rfl
@[simp] theorem exec_andi (h : Hdr) (d a : Reg) (imm : BitVec 10) (s : State) : exec (.andi h d a imm) s = execAndi h d a imm s := rfl
@[simp] theorem exec_ori (h : Hdr) (d a : Reg) (imm : BitVec 10) (s : State) : exec (.ori h d a imm) s = execOri h d a imm s := rfl
@[simp] theorem exec_xori (h : Hdr) (d a : Reg) (imm : BitVec 10) (s : State) : exec (.xori h d a imm) s = execXori h d a imm s := rfl
@[simp] theorem exec_shli (h : Hdr) (d a : Reg) (n : BitVec 6) (s : State) : exec (.shli h d a n) s = execShli h d a n s := rfl
@[simp] theorem exec_shri (h : Hdr) (d a : Reg) (n : BitVec 6) (s : State) : exec (.shri h d a n) s = execShri h d a n s := rfl
@[simp] theorem exec_shai (h : Hdr) (d a : Reg) (n : BitVec 6) (s : State) : exec (.shai h d a n) s = execShai h d a n s := rfl
@[simp] theorem exec_ld (h : Hdr) (d a space : BitVec 5) (sz : BitVec 3) (s : State) : exec (.ld h d a space sz) s = execLd h d a space sz s := rfl
@[simp] theorem exec_st (h : Hdr) (d a space : BitVec 5) (sz : BitVec 3) (s : State) : exec (.st h d a space sz) s = execSt h d a space sz s := rfl
@[simp] theorem exec_atadd (h : Hdr) (d a space : BitVec 5) (s : State) : exec (.atadd h d a space) s = execAtadd h d a space s := rfl
@[simp] theorem exec_atmin (h : Hdr) (d a space : BitVec 5) (s : State) : exec (.atmin h d a space) s = execAtmin h d a space s := rfl
@[simp] theorem exec_atmax (h : Hdr) (d a space : BitVec 5) (s : State) : exec (.atmax h d a space) s = execAtmax h d a space s := rfl
@[simp] theorem exec_atand (h : Hdr) (d a space : BitVec 5) (s : State) : exec (.atand h d a space) s = execAtand h d a space s := rfl
@[simp] theorem exec_ator (h : Hdr) (d a space : BitVec 5) (s : State) : exec (.ator h d a space) s = execAtor h d a space s := rfl
@[simp] theorem exec_atxch (h : Hdr) (d a space : BitVec 5) (s : State) : exec (.atxch h d a space) s = execAtxch h d a space s := rfl
@[simp] theorem exec_atcas (h : Hdr) (d a space : BitVec 5) (s : State) : exec (.atcas h d a space) s = execAtcas h d a space s := rfl
@[simp] theorem exec_b (h : Hdr) (off : BitVec 15) (s : State) : exec (.b h off) s = execB h off s := rfl
@[simp] theorem exec_bz (h : Hdr) (a : Reg) (off : BitVec 15) (s : State) : exec (.bz h a off) s = execBz h a off s := rfl
@[simp] theorem exec_bnz (h : Hdr) (a : Reg) (off : BitVec 15) (s : State) : exec (.bnz h a off) s = execBnz h a off s := rfl
@[simp] theorem exec_call (h : Hdr) (a : Reg) (off : BitVec 15) (s : State) : exec (.call h a off) s = execCall h a off s := rfl
@[simp] theorem exec_ret (h : Hdr) (s : State) : exec (.ret h) s = execRet h s := rfl
@[simp] theorem exec_prepLabel (h : Hdr) (jt : BitVec 2) (off : BitVec 15) (s : State) : exec (.prepLabel h jt off) s = execPrepLabel h jt off s := rfl
@[simp] theorem exec_prepRegister (h : Hdr) (jt : BitVec 2) (r : Reg) (s : State) : exec (.prepRegister h jt r) s = execPrepRegister h jt r s := rfl
@[simp] theorem exec_jp (h : Hdr) (jt : BitVec 2) (s : State) : exec (.jp h jt) s = execJp h jt s := rfl
@[simp] theorem exec_loop (h : Hdr) (a : Reg) (off : BitVec 15) (s : State) : exec (.loop h a off) s = execLoop h a off s := rfl
@[simp] theorem exec_boput (h : Hdr) (a : Reg) (q : BitVec 2) (s : State) : exec (.boput h a q) s = execBoput h a q s := rfl
@[simp] theorem exec_boget (h : Hdr) (off : BitVec 15) (s : State) : exec (.boget h off) s = execBoget h off s := rfl
@[simp] theorem exec_idle (h : Hdr) (n : BitVec 15) (s : State) : exec (.idle h n) s = execIdle h n s := rfl
@[simp] theorem exec_realign (h : Hdr) (s : State) : exec (.realign h) s = execRealign h s := rfl
@[simp] theorem exec_stamp (h : Hdr) (d : Reg) (sel : BitVec 2) (s : State) : exec (.stamp h d sel) s = execStamp h d sel s := rfl
@[simp] theorem exec_tkput (h : Hdr) (q n : BitVec 4) (s : State) : exec (.tkput h q n) s = execTkput h q n s := rfl
@[simp] theorem exec_tkget (h : Hdr) (q n : BitVec 4) (s : State) : exec (.tkget h q n) s = execTkget h q n s := rfl
@[simp] theorem exec_mark (h : Hdr) (n : BitVec 15) (s : State) : exec (.mark h n) s = execMark h n s := rfl
@[simp] theorem exec_fence (h : Hdr) (scope : BitVec 3) (kind : BitVec 2) (s : State) : exec (.fence h scope kind) s = execFence h scope kind s := rfl
@[simp] theorem exec_evpop (h : Hdr) (d : Reg) (s : State) : exec (.evpop h d) s = execEvpop h d s := rfl
@[simp] theorem exec_evwait (h : Hdr) (s : State) : exec (.evwait h) s = execEvwait h s := rfl
@[simp] theorem exec_sput (h : Hdr) (a : Reg) (s : State) : exec (.sput h a) s = execSput h a s := rfl
@[simp] theorem exec_sget (h : Hdr) (d : Reg) (s : State) : exec (.sget h d) s = execSget h d s := rfl
@[simp] theorem exec_bbinit (h : Hdr) (a : Reg) (s : State) : exec (.bbinit h a) s = execBbinit h a s := rfl
@[simp] theorem exec_bbwait (h : Hdr) (a : Reg) (s : State) : exec (.bbwait h a) s = execBbwait h a s := rfl
@[simp] theorem exec_bbtest (h : Hdr) (d a : Reg) (s : State) : exec (.bbtest h d a) s = execBbtest h d a s := rfl
@[simp] theorem exec_bbexp (h : Hdr) (a : Reg) (imm : Word32) (s : State) : exec (.bbexp h a imm) s = execBbexp h a imm s := rfl
@[simp] theorem exec_binrst (h : Hdr) (n : BitVec 4) (s : State) : exec (.binrst h n) s = execBinrst h n s := rfl
@[simp] theorem exec_binfill (h : Hdr) (d : Reg) (n : BitVec 4) (sel : BitVec 3) (s : State) : exec (.binfill h d n sel) s = execBinfill h d n sel s := rfl
@[simp] theorem exec_binpass (h : Hdr) (n : BitVec 4) (s : State) : exec (.binpass h n) s = execBinpass h n s := rfl
@[simp] theorem exec_binend (h : Hdr) (n : BitVec 4) (s : State) : exec (.binend h n) s = execBinend h n s := rfl
@[simp] theorem exec_bindef (h : Hdr) (n : BitVec 5) (imm : Word32) (s : State) : exec (.bindef h n imm) s = execBindef h n imm s := rfl
@[simp] theorem exec_hinv (h : Hdr) (n : Reg) (s : State) : exec (.hinv h n) s = execHinv h n s := rfl
@[simp] theorem exec_hqry (h : Hdr) (d n : Reg) (s : State) : exec (.hqry h d n) s = execHqry h d n s := rfl
@[simp] theorem exec_phend (h : Hdr) (c : BitVec 3) (s : State) : exec (.phend h c) s = execPhend h c s := rfl
@[simp] theorem exec_segend (h : Hdr) (mask : BitVec 8) (s : State) : exec (.segend h mask) s = execSegend h mask s := rfl
@[simp] theorem exec_cask (h : Hdr) (d : Reg) (sel : BitVec 1) (s : State) : exec (.cask h d sel) s = execCask h d sel s := rfl
@[simp] theorem exec_trap (h : Hdr) (n : BitVec 15) (s : State) : exec (.trap h n) s = execTrap h n s := rfl
@[simp] theorem exec_crd (h : Hdr) (d : Reg) (cr : BitVec 12) (s : State) : exec (.crd h d cr) s = execCrd h d cr s := rfl
@[simp] theorem exec_cwr (h : Hdr) (d : Reg) (cr : BitVec 12) (s : State) : exec (.cwr h d cr) s = execCwr h d cr s := rfl
@[simp] theorem exec_halt (h : Hdr) (s : State) : exec (.halt h) s = execHalt h s := rfl
@[simp] theorem exec_nop (h : Hdr) (s : State) : exec (.nop h) s = execNop h s := rfl
@[simp] theorem exec_brk (h : Hdr) (n : BitVec 15) (s : State) : exec (.brk h n) s = execBrk h n s := rfl
@[simp] theorem exec_nslice (h : Hdr) (d : Reg) (sel : BitVec 3) (r : Reg) (s : State) : exec (.nslice h d sel r) s = execNslice h d sel r s := rfl
@[simp] theorem exec_li (h : Hdr) (d : Reg) (imm : Word32) (s : State) : exec (.li h d imm) s = execLi h d imm s := rfl
@[simp] theorem exec_lih (h : Hdr) (d a : Reg) (imm : Word32) (s : State) : exec (.lih h d a imm) s = execLih h d a imm s := rfl
@[simp] theorem exec_xlate (h : Hdr) (d a : Reg) (imm : Word32) (s : State) : exec (.xlate h d a imm) s = execXlate h d a imm s := rfl
@[simp] theorem exec_phase (h : Hdr) (c : BitVec 5) (a : Reg) (imm : Word32) (s : State) : exec (.phase h c a imm) s = execPhase h c a imm s := rfl
@[simp] theorem exec_nest (h : Hdr) (a : Reg) (imm : Word32) (s : State) : exec (.nest h a imm) s = execNest h a imm s := rfl
@[simp] theorem exec_collAllred (h : Hdr) (a : Reg) (rel : BitVec 1) (elem rop : BitVec 2) (stamp : Word32) (s : State) : exec (.collAllred h a rel elem rop stamp) s = execCollAllred h a rel elem rop stamp s := rfl
@[simp] theorem exec_collReduce (h : Hdr) (a : Reg) (rel : BitVec 1) (elem rop : BitVec 2) (stamp : Word32) (s : State) : exec (.collReduce h a rel elem rop stamp) s = execCollReduce h a rel elem rop stamp s := rfl
@[simp] theorem exec_collBcast (h : Hdr) (a : Reg) (rel : BitVec 1) (stamp : Word32) (s : State) : exec (.collBcast h a rel stamp) s = execCollBcast h a rel stamp s := rfl
@[simp] theorem exec_collGather (h : Hdr) (a : Reg) (rel : BitVec 1) (stamp : Word32) (s : State) : exec (.collGather h a rel stamp) s = execCollGather h a rel stamp s := rfl
@[simp] theorem exec_collA2a (h : Hdr) (a : Reg) (rel : BitVec 1) (stamp : Word32) (s : State) : exec (.collA2a h a rel stamp) s = execCollA2a h a rel stamp s := rfl
@[simp] theorem exec_collCombine (h : Hdr) (a : Reg) (rel : BitVec 1) (stamp : Word32) (s : State) : exec (.collCombine h a rel stamp) s = execCollCombine h a rel stamp s := rfl
@[simp] theorem exec_collSync (h : Hdr) (a : Reg) (rel : BitVec 1) (stamp : Word32) (s : State) : exec (.collSync h a rel stamp) s = execCollSync h a rel stamp s := rfl
@[simp] theorem exec_rowg (h : Hdr) (a : Reg) (imm : Word32) (s : State) : exec (.rowg h a imm) s = execRowg h a imm s := rfl
@[simp] theorem exec_rows (h : Hdr) (a : Reg) (imm : Word32) (s : State) : exec (.rows h a imm) s = execRows h a imm s := rfl
@[simp] theorem exec_rowsa (h : Hdr) (a : Reg) (imm : Word32) (s : State) : exec (.rowsa h a imm) s = execRowsa h a imm s := rfl
@[simp] theorem exec_vld (w : XferWord) (s : State) : exec (.vld w) s = execVld w s := rfl
@[simp] theorem exec_vst (w : XferWord) (s : State) : exec (.vst w) s = execVst w s := rfl
@[simp] theorem exec_copy (w : XferWord) (s : State) : exec (.copy w) s = execCopy w s := rfl
@[simp] theorem exec_obld (w : XferWord) (s : State) : exec (.obld w) s = execObld w s := rfl
@[simp] theorem exec_route (w : XferWord) (s : State) : exec (.route w) s = execRoute w s := rfl
@[simp] theorem exec_mma (w : MatWord) (s : State) : exec (.mma w) s = execMma w s := rfl
@[simp] theorem exec_mmap (w : MatWord) (s : State) : exec (.mmap w) s = execMmap w s := rfl
@[simp] theorem exec_mret (w : MatWord) (s : State) : exec (.mret w) s = execMret w s := rfl
@[simp] theorem exec_mdrain (w : MatWord) (s : State) : exec (.mdrain w) s = execMdrain w s := rfl
@[simp] theorem exec_vadd (w : VecWord) (s : State) : exec (.vadd w) s = execVadd w s := rfl
@[simp] theorem exec_vsub (w : VecWord) (s : State) : exec (.vsub w) s = execVsub w s := rfl
@[simp] theorem exec_vmul (w : VecWord) (s : State) : exec (.vmul w) s = execVmul w s := rfl
@[simp] theorem exec_vfma (w : VecWord) (s : State) : exec (.vfma w) s = execVfma w s := rfl
@[simp] theorem exec_vfms (w : VecWord) (s : State) : exec (.vfms w) s = execVfms w s := rfl
@[simp] theorem exec_vfnma (w : VecWord) (s : State) : exec (.vfnma w) s = execVfnma w s := rfl
@[simp] theorem exec_vmin (w : VecWord) (s : State) : exec (.vmin w) s = execVmin w s := rfl
@[simp] theorem exec_vmax (w : VecWord) (s : State) : exec (.vmax w) s = execVmax w s := rfl
@[simp] theorem exec_vabs (w : VecWord) (s : State) : exec (.vabs w) s = execVabs w s := rfl
@[simp] theorem exec_vneg (w : VecWord) (s : State) : exec (.vneg w) s = execVneg w s := rfl
@[simp] theorem exec_vrcp (w : VecWord) (s : State) : exec (.vrcp w) s = execVrcp w s := rfl
@[simp] theorem exec_vrsq (w : VecWord) (s : State) : exec (.vrsq w) s = execVrsq w s := rfl
@[simp] theorem exec_vsqrt (w : VecWord) (s : State) : exec (.vsqrt w) s = execVsqrt w s := rfl
@[simp] theorem exec_vdiv (w : VecWord) (s : State) : exec (.vdiv w) s = execVdiv w s := rfl
@[simp] theorem exec_vexp2 (w : VecWord) (s : State) : exec (.vexp2 w) s = execVexp2 w s := rfl
@[simp] theorem exec_vlog2 (w : VecWord) (s : State) : exec (.vlog2 w) s = execVlog2 w s := rfl
@[simp] theorem exec_viadd (w : VecWord) (s : State) : exec (.viadd w) s = execViadd w s := rfl
@[simp] theorem exec_visub (w : VecWord) (s : State) : exec (.visub w) s = execVisub w s := rfl
@[simp] theorem exec_vimul (w : VecWord) (s : State) : exec (.vimul w) s = execVimul w s := rfl
@[simp] theorem exec_vimulh (w : VecWord) (s : State) : exec (.vimulh w) s = execVimulh w s := rfl
@[simp] theorem exec_vimac (w : VecWord) (s : State) : exec (.vimac w) s = execVimac w s := rfl
@[simp] theorem exec_vand (w : VecWord) (s : State) : exec (.vand w) s = execVand w s := rfl
@[simp] theorem exec_vor (w : VecWord) (s : State) : exec (.vor w) s = execVor w s := rfl
@[simp] theorem exec_vxor (w : VecWord) (s : State) : exec (.vxor w) s = execVxor w s := rfl
@[simp] theorem exec_vandn (w : VecWord) (s : State) : exec (.vandn w) s = execVandn w s := rfl
@[simp] theorem exec_vshl (w : VecWord) (s : State) : exec (.vshl w) s = execVshl w s := rfl
@[simp] theorem exec_vshr (w : VecWord) (s : State) : exec (.vshr w) s = execVshr w s := rfl
@[simp] theorem exec_vsha (w : VecWord) (s : State) : exec (.vsha w) s = execVsha w s := rfl
@[simp] theorem exec_vimin (w : VecWord) (s : State) : exec (.vimin w) s = execVimin w s := rfl
@[simp] theorem exec_vimax (w : VecWord) (s : State) : exec (.vimax w) s = execVimax w s := rfl
@[simp] theorem exec_vclmul (w : VecWord) (s : State) : exec (.vclmul w) s = execVclmul w s := rfl
@[simp] theorem exec_vpopc (w : VecWord) (s : State) : exec (.vpopc w) s = execVpopc w s := rfl
@[simp] theorem exec_vcmp (w : VecWord) (s : State) : exec (.vcmp w) s = execVcmp w s := rfl
@[simp] theorem exec_vsel (w : VecWord) (s : State) : exec (.vsel w) s = execVsel w s := rfl
@[simp] theorem exec_vmsk (w : VecWord) (s : State) : exec (.vmsk w) s = execVmsk w s := rfl
@[simp] theorem exec_vcvt (w : VecWord) (s : State) : exec (.vcvt w) s = execVcvt w s := rfl
@[simp] theorem exec_vqnt (w : VecWord) (s : State) : exec (.vqnt w) s = execVqnt w s := rfl
@[simp] theorem exec_vpack (w : VecWord) (s : State) : exec (.vpack w) s = execVpack w s := rfl
@[simp] theorem exec_vunpk (w : VecWord) (s : State) : exec (.vunpk w) s = execVunpk w s := rfl
@[simp] theorem exec_vred (w : VecWord) (s : State) : exec (.vred w) s = execVred w s := rfl
@[simp] theorem exec_vperm (w : VecWord) (s : State) : exec (.vperm w) s = execVperm w s := rfl
@[simp] theorem exec_vshuf (w : VecWord) (s : State) : exec (.vshuf w) s = execVshuf w s := rfl
@[simp] theorem exec_vbcast (w : VecWord) (s : State) : exec (.vbcast w) s = execVbcast w s := rfl
@[simp] theorem exec_vslide (w : VecWord) (s : State) : exec (.vslide w) s = execVslide w s := rfl
@[simp] theorem exec_viota (w : VecWord) (s : State) : exec (.viota w) s = execViota w s := rfl
@[simp] theorem exec_vmov (w : VecWord) (s : State) : exec (.vmov w) s = execVmov w s := rfl
@[simp] theorem exec_vxs (w : VecWord) (s : State) : exec (.vxs w) s = execVxs w s := rfl
@[simp] theorem exec_trd (w : VecWord) (s : State) : exec (.trd w) s = execTrd w s := rfl
@[simp] theorem exec_twr (w : VecWord) (s : State) : exec (.twr w) s = execTwr w s := rfl
@[simp] theorem exec_tzero (w : VecWord) (s : State) : exec (.tzero w) s = execTzero w s := rfl
@[simp] theorem exec_topkc (w : VecWord) (s : State) : exec (.topkc w) s = execTopkc w s := rfl
@[simp] theorem exec_pdim (g : BitVec 3) (pr pc : BitVec 4) (order : BitVec 1) (s : State) : exec (.pdim g pr pc order) s = execPdim g pr pc order s := rfl
@[simp] theorem exec_pband (g : BitVec 3) (w : BitVec 11) (wrap : BitVec 1) (s : State) : exec (.pband g w wrap) s = execPband g w wrap s := rfl
@[simp] theorem exec_pdil (g : BitVec 3) (off : BitVec 11) (step : BitVec 6) (s : State) : exec (.pdil g off step) s = execPdil g off step s := rfl
@[simp] theorem exec_pblk (g : BitVec 3) (b : BitVec 11) (s : State) : exec (.pblk g b) s = execPblk g b s := rfl
@[simp] theorem exec_pkron (g a b : BitVec 3) (s : State) : exec (.pkron g a b) s = execPkron g a b s := rfl
@[simp] theorem exec_phash (g : BitVec 3) (n : BitVec 11) (seed : BitVec 6) (s : State) : exec (.phash g n seed) s = execPhash g n seed s := rfl
@[simp] theorem exec_pemit (g : BitVec 3) (r : BitVec 10) (s : State) : exec (.pemit g r) s = execPemit g r s := rfl
@[simp] theorem exec_pinv (g : BitVec 3) (s : State) : exec (.pinv g) s = execPinv g s := rfl
@[simp] theorem exec_pend (g : BitVec 3) (s : State) : exec (.pend g) s = execPend g s := rfl
@[simp] theorem exec_dact (delta : BitVec 10) (bank : BitVec 4) (row : BitVec 16) (s : State) : exec (.dact delta bank row) s = execDact delta bank row s := rfl
@[simp] theorem exec_dpre (delta : BitVec 10) (bank : BitVec 4) (s : State) : exec (.dpre delta bank) s = execDpre delta bank s := rfl
@[simp] theorem exec_dpreAll (delta : BitVec 10) (s : State) : exec (.dpreAll delta) s = execDpreAll delta s := rfl
@[simp] theorem exec_drd (delta : BitVec 10) (bank : BitVec 4) (row : BitVec 16) (col : BitVec 4) (core : BitVec 9) (slot : BitVec 3) (s : State) : exec (.drd delta bank row col core slot) s = execDrd delta bank row col core slot s := rfl
@[simp] theorem exec_dwr (delta : BitVec 10) (bank : BitVec 4) (row : BitVec 16) (col : BitVec 4) (core : BitVec 9) (slot : BitVec 3) (s : State) : exec (.dwr delta bank row col core slot) s = execDwr delta bank row col core slot s := rfl
@[simp] theorem exec_dref (delta : BitVec 10) (s : State) : exec (.dref delta) s = execDref delta s := rfl
@[simp] theorem exec_drefPb (delta : BitVec 10) (bank : BitVec 4) (s : State) : exec (.drefPb delta bank) s = execDrefPb delta bank s := rfl
@[simp] theorem exec_dnop (delta : BitVec 10) (s : State) : exec (.dnop delta) s = execDnop delta s := rfl
@[simp] theorem exec_dnopEnd (delta : BitVec 10) (s : State) : exec (.dnopEnd delta) s = execDnopEnd delta s := rfl
@[simp] theorem exec_dind (delta : BitVec 10) (slot : BitVec 3) (s : State) : exec (.dind delta slot) s = execDind delta slot s := rfl
@[simp] theorem exec_dloop (lenw : BitVec 11) (rep : BitVec 16) (s : State) : exec (.dloop lenw rep) s = execDloop lenw rep s := rfl
@[simp] theorem exec_registerResultLanding (core : Nat) (q : Seq) (s : State) : exec (.registerResultLanding core q) s = execRegisterResultLanding core q s := rfl
@[simp] theorem exec_xlateLanding (core : Nat) (s : State) : exec (.xlateLanding core) s = execXlateLanding core s := rfl
@[simp] theorem exec_vectorQueuePush (core : Nat) (s : State) : exec (.vectorQueuePush core) s = execVectorQueuePush core s := rfl
@[simp] theorem exec_slipAllowanceOverrun (core : Nat) (q : Seq) (s : State) : exec (.slipAllowanceOverrun core q) s = execSlipAllowanceOverrun core q s := rfl
@[simp] theorem exec_commandBoundOverrun (core : Nat) (u : UnitId) (s : State) : exec (.commandBoundOverrun core u) s = execCommandBoundOverrun core u s := rfl
@[simp] theorem exec_matrixWordStart (core : Nat) (s : State) : exec (.matrixWordStart core) s = execMatrixWordStart core s := rfl
@[simp] theorem exec_matrixPipeLineTake (core : Nat) (s : State) : exec (.matrixPipeLineTake core) s = execMatrixPipeLineTake core s := rfl
@[simp] theorem exec_tileStepCompletion (core : Nat) (s : State) : exec (.tileStepCompletion core) s = execTileStepCompletion core s := rfl
@[simp] theorem exec_tileDrainEnd (core tile : Nat) (s : State) : exec (.tileDrainEnd core tile) s = execTileDrainEnd core tile s := rfl
@[simp] theorem exec_tileWriteEffect (core : Nat) (s : State) : exec (.tileWriteEffect core) s = execTileWriteEffect core s := rfl
@[simp] theorem exec_mretCompletion (core : Nat) (s : State) : exec (.mretCompletion core) s = execMretCompletion core s := rfl
@[simp] theorem exec_mdrainEntryPush (core : Nat) (s : State) : exec (.mdrainEntryPush core) s = execMdrainEntryPush core s := rfl
@[simp] theorem exec_topkcEntryPush (core : Nat) (s : State) : exec (.topkcEntryPush core) s = execTopkcEntryPush core s := rfl
@[simp] theorem exec_copyStart (core : Nat) (s : State) : exec (.copyStart core) s = execCopyStart core s := rfl
@[simp] theorem exec_copyLandLineTake (core : Nat) (s : State) : exec (.copyLandLineTake core) s = execCopyLandLineTake core s := rfl
@[simp] theorem exec_copyCompletion (core : Nat) (s : State) : exec (.copyCompletion core) s = execCopyCompletion core s := rfl
@[simp] theorem exec_inboundLineTake (core : Nat) (s : State) : exec (.inboundLineTake core) s = execInboundLineTake core s := rfl
@[simp] theorem exec_vldEntryPush (core : Nat) (s : State) : exec (.vldEntryPush core) s = execVldEntryPush core s := rfl
@[simp] theorem exec_vstEntryPop (core : Nat) (s : State) : exec (.vstEntryPop core) s = execVstEntryPop core s := rfl
@[simp] theorem exec_obldCompletion (core : Nat) (s : State) : exec (.obldCompletion core) s = execObldCompletion core s := rfl
@[simp] theorem exec_binCommandStart (core : Nat) (s : State) : exec (.binCommandStart core) s = execBinCommandStart core s := rfl
@[simp] theorem exec_binCommandCompletion (core : Nat) (s : State) : exec (.binCommandCompletion core) s = execBinCommandCompletion core s := rfl
@[simp] theorem exec_routeCompletion (core : Nat) (s : State) : exec (.routeCompletion core) s = execRouteCompletion core s := rfl
@[simp] theorem exec_rowCommandStart (die : Nat) (s : State) : exec (.rowCommandStart die) s = execRowCommandStart die s := rfl
@[simp] theorem exec_rowWindowStart (die : Nat) (s : State) : exec (.rowWindowStart die) s = execRowWindowStart die s := rfl
@[simp] theorem exec_rowCommandCompletion (die : Nat) (s : State) : exec (.rowCommandCompletion die) s = execRowCommandCompletion die s := rfl
@[simp] theorem exec_collCompletion (inst : Nat) (s : State) : exec (.collCompletion inst) s = execCollCompletion inst s := rfl
@[simp] theorem exec_drdLineLanding (chan : Nat) (s : State) : exec (.drdLineLanding chan) s = execDrdLineLanding chan s := rfl
@[simp] theorem exec_dindLineDelivery (chan : Nat) (s : State) : exec (.dindLineDelivery chan) s = execDindLineDelivery chan s := rfl
@[simp] theorem exec_refreshComplete (chan bank : Nat) (s : State) : exec (.refreshComplete chan bank) s = execRefreshComplete chan bank s := rfl
@[simp] theorem exec_refreshDeadlineMissed (chan bank : Nat) (s : State) : exec (.refreshDeadlineMissed chan bank) s = execRefreshDeadlineMissed chan bank s := rfl
@[simp] theorem exec_idleChannelRefresh (chan : Nat) (s : State) : exec (.idleChannelRefresh chan) s = execIdleChannelRefresh chan s := rfl
@[simp] theorem exec_idleRemoteWindow (chan : Nat) (s : State) : exec (.idleRemoteWindow chan) s = execIdleRemoteWindow chan s := rfl
@[simp] theorem exec_leadInRefresh (chan : Nat) (s : State) : exec (.leadInRefresh chan) s = execLeadInRefresh chan s := rfl
@[simp] theorem exec_frameStart (s : State) : exec (.frameStart) s = execFrameStart s := rfl
@[simp] theorem exec_edgeGap (s : State) : exec (.edgeGap) s = execEdgeGap s := rfl
@[simp] theorem exec_segmentEntry (launch : Nat) (s : State) : exec (.segmentEntry launch) s = execSegmentEntry launch s := rfl
@[simp] theorem exec_segmentEnd (launch : Nat) (s : State) : exec (.segmentEnd launch) s = execSegmentEnd launch s := rfl
@[simp] theorem exec_commitAcknowledge (launch : Nat) (s : State) : exec (.commitAcknowledge launch) s = execCommitAcknowledge launch s := rfl
@[simp] theorem exec_frameOverrun (launch : Nat) (s : State) : exec (.frameOverrun launch) s = execFrameOverrun launch s := rfl
@[simp] theorem exec_coreStop (launch core : Nat) (s : State) : exec (.coreStop launch core) s = execCoreStop launch core s := rfl
@[simp] theorem exec_trapSegmentEnd (launch : Nat) (s : State) : exec (.trapSegmentEnd launch) s = execTrapSegmentEnd launch s := rfl
@[simp] theorem exec_revocationEffect (core : Nat) (pid : BitVec 12) (s : State) : exec (.revocationEffect core pid) s = execRevocationEffect core pid s := rfl
@[simp] theorem exec_launchRecordFetch (world : Nat) (s : State) : exec (.launchRecordFetch world) s = execLaunchRecordFetch world s := rfl
@[simp] theorem exec_keyImportResult (world : Nat) (s : State) : exec (.keyImportResult world) s = execKeyImportResult world s := rfl
@[simp] theorem exec_replicaTableSwitch (world : Nat) (s : State) : exec (.replicaTableSwitch world) s = execReplicaTableSwitch world s := rfl
@[simp] theorem exec_ringSwap (world flow : Nat) (s : State) : exec (.ringSwap world flow) s = execRingSwap world flow s := rfl
@[simp] theorem exec_packageResetRelease (s : State) : exec (.packageResetRelease) s = execPackageResetRelease s := rfl
@[simp] theorem exec_recoveryVerifyDone (s : State) : exec (.recoveryVerifyDone) s = execRecoveryVerifyDone s := rfl
@[simp] theorem exec_reservedOpcode (w : Word32) (s : State) : exec (.reservedOpcode w) s = execReservedOpcode w s := rfl
@[simp] theorem exec_fetchFault (missing : Nat) (s : State) : exec (.fetchFault missing) s = execFetchFault missing s := rfl
@[simp] theorem exec_copyLqEntryPush (core : Nat) (s : State) : exec (.copyLqEntryPush core) s = execCopyLqEntryPush core s := rfl
@[simp] theorem exec_outgoingSlotLineAppend (core : Nat) (s : State) : exec (.outgoingSlotLineAppend core) s = execOutgoingSlotLineAppend core s := rfl
@[simp] theorem exec_collInstanceCancel (inst core : Nat) (s : State) : exec (.collInstanceCancel inst core) s = execCollInstanceCancel inst core s := rfl
@[simp] theorem exec_revocationBroadcast (world : Nat) (pid : BitVec 12) (t : Nat) (s : State) : exec (.revocationBroadcast world pid t) s = execRevocationBroadcast world pid t s := rfl
@[simp] theorem exec_lqCreate (world : Nat) (qlog2 : BitVec 4) (s : State) : exec (.lqCreate world qlog2) s = execLqCreate world qlog2 s := rfl
@[simp] theorem exec_lqDestroy (world : Nat) (s : State) : exec (.lqDestroy world) s = execLqDestroy world s := rfl
@[simp] theorem exec_doorbell (world : Nat) (tail : BitVec 12) (s : State) : exec (.doorbell world tail) s = execDoorbell world tail s := rfl
@[simp] theorem exec_recordWindowWrite (world offset : Nat) (bytes : List Byte) (s : State) : exec (.recordWindowWrite world offset bytes) s = execRecordWindowWrite world offset bytes s := rfl
@[simp] theorem exec_keyImportGo (world : Nat) (s : State) : exec (.keyImportGo world) s = execKeyImportGo world s := rfl
@[simp] theorem exec_replicaSwitchArm (world : Nat) (time : Word64) (s : State) : exec (.replicaSwitchArm world time) s = execReplicaSwitchArm world time s := rfl
@[simp] theorem exec_registerWrite (world offset : Nat) (bytes : List Byte) (tee : Bool) (s : State) : exec (.registerWrite world offset bytes tee) s = execRegisterWrite world offset bytes tee s := rfl
@[simp] theorem exec_lockInterfaceRequest (world : Nat) (s : State) : exec (.lockInterfaceRequest world) s = execLockInterfaceRequest world s := rfl
@[simp] theorem exec_startInterfaceRequest (world : Nat) (s : State) : exec (.startInterfaceRequest world) s = execStartInterfaceRequest world s := rfl
@[simp] theorem exec_stopInterfaceRequest (world : Nat) (s : State) : exec (.stopInterfaceRequest world) s = execStopInterfaceRequest world s := rfl
@[simp] theorem exec_getDeviceInterfaceReport (world : Nat) (secure : Bool) (s : State) : exec (.getDeviceInterfaceReport world secure) s = execGetDeviceInterfaceReport world secure s := rfl
@[simp] theorem exec_ideIntegrityFailure (stream : Nat) (s : State) : exec (.ideIntegrityFailure stream) s = execIdeIntegrityFailure stream s := rfl
@[simp] theorem exec_frozenConfigChange (world : Nat) (s : State) : exec (.frozenConfigChange world) s = execFrozenConfigChange world s := rfl
@[simp] theorem exec_getCertificate (slot : BitVec 3) (s : State) : exec (.getCertificate slot) s = execGetCertificate slot s := rfl
@[simp] theorem exec_challenge (slot : BitVec 3) (nonce : BitVec 256) (s : State) : exec (.challenge slot nonce) s = execChallenge slot nonce s := rfl
@[simp] theorem exec_keyExchange (slot : BitVec 3) (peerX peerY : BitVec 256) (s : State) : exec (.keyExchange slot peerX peerY) s = execKeyExchange slot peerX peerY s := rfl
@[simp] theorem exec_setCertificate (slot : BitVec 3) (secure : Bool) (bytes : List Byte) (s : State) : exec (.setCertificate slot secure bytes) s = execSetCertificate slot secure bytes s := rfl
@[simp] theorem exec_getMeasurements (index : BitVec 8) (s : State) : exec (.getMeasurements index) s = execGetMeasurements index s := rfl
@[simp] theorem exec_vfEnable (world cbase csize : Nat) (units : List Nat) (s : State) : exec (.vfEnable world cbase csize units) s = execVfEnable world cbase csize units s := rfl
@[simp] theorem exec_vfReset (world : Nat) (s : State) : exec (.vfReset world) s = execVfReset world s := rfl
@[simp] theorem exec_debugRead (world : Nat) (t : DebugTarget) (s : State) : exec (.debugRead world t) s = execDebugRead world t s := rfl
@[simp] theorem exec_remoteRequest (r : RemoteReq) (s : State) : exec (.remoteRequest r) s = execRemoteRequest r s := rfl
@[simp] theorem exec_scemelFlitReceive (port : Nat) (ok : Bool) (lines : List RemoteReq) (s : State) : exec (.scemelFlitReceive port ok lines) s = execScemelFlitReceive port ok lines s := rfl
@[simp] theorem exec_groupEnrolment (group count pkg world : Nat) (s : State) : exec (.groupEnrolment group count pkg world) s = execGroupEnrolment group count pkg world s := rfl
@[simp] theorem exec_packetArrival (world flow : Nat) (msg : Word64) (payload : List Byte) (s : State) : exec (.packetArrival world flow msg payload) s = execPacketArrival world flow msg payload s := rfl
@[simp] theorem exec_recoveryLoad (s : State) : exec (.recoveryLoad) s = execRecoveryLoad s := rfl
@[simp] theorem exec_thermalThrottle (temp : Nat) (s : State) : exec (.thermalThrottle temp) s = execThermalThrottle temp s := rfl
@[simp] theorem exec_thermalShutdown (temp : Nat) (s : State) : exec (.thermalShutdown temp) s = execThermalShutdown temp s := rfl
@[simp] theorem exec_supplyOutOfRange (millivolts : Nat) (s : State) : exec (.supplyOutOfRange millivolts) s = execSupplyOutOfRange millivolts s := rfl
@[simp] theorem exec_linkBringUp (pkg : Nat) (source : Bool) (s : State) : exec (.linkBringUp pkg source) s = execLinkBringUp pkg source s := rfl
@[simp] theorem exec_keySlotAssignment (slot world : Nat) (s : State) : exec (.keySlotAssignment slot world) s = execKeySlotAssignment slot world s := rfl
@[simp] theorem exec_ideStreamSetup (stream world : Nat) (s : State) : exec (.ideStreamSetup stream world) s = execIdeStreamSetup stream world s := rfl

end Sys2Proof.Machine
end

