-- ==== Sys2Proof/Laws/Issue.lean ====
section
/-!
SUPPORT. The shared operations of words and traps, said once each: what issueWord can answer, and what taking a trap leaves.
-/

namespace Sys2Proof.Machine

open Sys2Proof

/-! ### One core changed -/

theorem onlyCore_updCore (s : State) (p : Nat) (f : Core → Core) : OnlyCore s (updCore s p f) p (f (getCore s p)) :=
  ⟨rfl, getCore_updCore s p f, fun j h => getCore_updCore_ne s p j f h⟩

theorem onlyCore_trans {s t u : State} {p : Nat} {c d : Core} (h : OnlyCore s t p c) (k : OnlyCore t u p d) : OnlyCore s u p d := by
  obtain ⟨h1, _, h3⟩ := h
  obtain ⟨k1, k2, k3⟩ := k
  exact ⟨by rw [k1, h1], k2, fun j hj => by rw [k3 j hj, h3 j hj]⟩

/-- Two changes of one core, one after the other. -/
theorem onlyCore_updCore_updCore (s : State) (p : Nat) (f g : Core → Core) :
    OnlyCore s (updCore (updCore s p f) p g) p (g (f (getCore s p))) := by
  have h := onlyCore_trans (onlyCore_updCore s p f) (onlyCore_updCore (updCore s p f) p g)
  rwa [getCore_updCore] at h

theorem warnAll_mbz (mbz : Bool) (c : Core) : warnAll (if mbz then [warnMbz] else []) c = warnIf mbz warnMbz c := by
  cases mbz <;> rfl

/-! ### The issue of a word -/

/-- What issueWord answers: it raises 0x02, 0x01, 0x10 or 0x12, stalls, waits for its stamp, raises a cause of its own, or issues. -/
theorem issueWord_cases (p : WordPlan) (s : State) :
    (∃ r, issueWord p s = .next (raiseHere s r)) ∨
    (∃ a, p.stall s = some a ∧ issueWord p s = .next (stallHere s a)) ∨
    (∃ d, issueWord p s = .next (updCore s s.turn.core fun c =>
      setStream c s.turn.q { streamOf c s.turn.q with hold := s.cyc + d })) ∨
    ∃ s' f, p.act s = .ok (s', f) ∧ issueWord p s = .next (issued p.len p.warns s' f) := by
  unfold issueWord
  split
  · exact .inl ⟨_, rfl⟩
  split
  · exact .inl ⟨_, rfl⟩
  split
  · exact .inr (.inl ⟨_, ‹_›, rfl⟩)
  · split
    · exact .inl ⟨_, rfl⟩
    · exact .inr (.inr (.inl ⟨_, rfl⟩))
    · split
      · exact .inl ⟨_, rfl⟩
      split
      · exact .inl ⟨_, rfl⟩
      · exact .inr (.inr (.inr ⟨_, _, ‹_›, rfl⟩))

/-- A word that passes every check of its issue has its effect. -/
theorem issueWord_acts (p : WordPlan) (s s' : State) (f : Flow) (hq : p.accepts.contains s.turn.q = true) (hb : p.bad = false)
    (hs : p.stall s = none) (ht : p.stamp s = none) (hz : hazard s p.reads p.writes = false) (ha : p.act s = .ok (s', f)) :
    issueWord p s = .next (issued p.len p.warns s' f) := by
  unfold issueWord
  simp only [hq, hb, hs, ht, hz, ha]
  rfl

/-- A word that passes every check of its issue but one of its own raises that cause. -/
theorem issueWord_raises (p : WordPlan) (s : State) (r : Raise) (hq : p.accepts.contains s.turn.q = true) (hb : p.bad = false)
    (hs : p.stall s = none) (ht : p.stamp s = none) (hz : hazard s p.reads p.writes = false) (ha : p.act s = .error r) :
    issueWord p s = .next (raiseHere s r) := by
  unfold issueWord
  simp only [hq, hb, hs, ht, hz, ha]
  rfl

/-- A word of a sequencer that does not accept it raises 0x02. -/
theorem issueWord_rejects (p : WordPlan) (s : State) (hq : p.accepts.contains s.turn.q = false) :
    issueWord p s = .next (raiseHere s (Raise.of 0x02)) := by
  unfold issueWord
  simp only [hq]
  rfl

/-- Fields that name registers pass the check of R337. -/
theorem regBad_of_fieldsOk (s : State) (rs : List Reg) (h : FieldsOk s rs) : regBad s.turn.q rs = false := by
  rcases h with h | ⟨_, h⟩
  · simp [regBad, h]
  · have : (rs.any fun r => decide (16 ≤ r.toNat)) = false := by
      rw [List.any_eq_false]; intro r hr; have := h r hr; simp; omega
    simp [regBad, this]

theorem accepts_of_fieldsOk (s : State) (rs : List Reg) (h : FieldsOk s rs) : cls.contains s.turn.q = true := by
  rcases h with h | ⟨h | h, _⟩ <;> rw [h] <;> rfl

/-- A word whose effect is one change of its core, and which goes on, leaves that core moved on. -/
theorem leaves_goesOn {i : Instr} (s : State) (p : WordPlan) (mbz : Bool) (f : Core → Core) (hi : exec i s = issueWord p s)
    (hw : p.warns = if mbz then [warnMbz] else []) (hq : p.accepts.contains s.turn.q = true) (hb : p.bad = false)
    (hs : p.stall s = none) (ht : p.stamp s = none) (hz : hazard s p.reads p.writes = false)
    (ha : p.act s = .ok (goOn (updCore s s.turn.core f))) :
    Leaves i s (goesOn (f (turnCore s)) s.turn.q s.cyc p.len mbz) := by
  refine ⟨_, by rw [hi, issueWord_acts p s _ _ hq hb hs ht hz ha], ?_⟩
  have h := onlyCore_updCore_updCore s s.turn.core f fun c =>
    setStream (warnIf mbz warnMbz c) s.turn.q (flowStream (streamOf c s.turn.q) p.len s.cyc (.on (s.cyc + 1) false))
  simp only [issued, hw, warnAll_mbz]
  exact h

/-- A two-source word with its result. -/
theorem binary_gives {i : Instr} (s : State) (h : Hdr) (d a b : Reg) (n : Nat) (f : Word64 → Word64 → Word64)
    (hi : exec i s = issueWord (binaryPlan h d a b n f s) s) (hf : FieldsOk s [d, a, b])
    (hz : NoHazard s [destHere s a, destHere s b] [(destHere s d, n)]) :
    Gives i s h.mbz 1 d n (f (regHere s a).val (regHere s b).val) ((regHere s a).static && (regHere s b).static) :=
  leaves_goesOn s _ h.mbz _ hi rfl (accepts_of_fieldsOk s _ hf) (regBad_of_fieldsOk s _ hf) rfl rfl hz rfl

/-- A one-source word with its result. -/
theorem unary_gives {i : Instr} (s : State) (h : Hdr) (d a : Reg) (f : Word64 → Word64)
    (hi : exec i s = issueWord (unaryPlan h d a f s) s) (hf : FieldsOk s [d, a])
    (hz : NoHazard s [destHere s a] [(destHere s d, 1)]) :
    Gives i s h.mbz 1 d 1 (f (regHere s a).val) (regHere s a).static :=
  leaves_goesOn s _ h.mbz _ hi rfl (accepts_of_fieldsOk s _ hf) (regBad_of_fieldsOk s _ hf) rfl rfl hz rfl

end Sys2Proof.Machine
end

