-- ==== Sys2Proof/Laws/PerInstr.lean ====
section
/-!
SUPPORT. Every well-formed instruction word has as many parcels as the LEN field of its first parcel says (R255, Table 10.1), made
constructor by constructor.
-/

namespace Sys2Proof.Laws

open Sys2Proof

/-- The family: a well-formed word's encoding has the length its LEN field names. -/
def Encoding.Statement (i : Instr) : Prop := i.wf = true → (encode i).length = parcelsOf ((encode i).headD 0)

/-- LEN is the low two bits of a parcel. -/
theorem lenOf_append (x : BitVec 30) (l : BitVec 2) : lenOf (x ++ l) = l.toNat := by
  have h : fld (x ++ l) 0 2 = l := by
    apply BitVec.eq_of_getLsbD_eq
    intro i hi
    rw [fld, BitVec.getLsbD_extractLsb', BitVec.getLsbD_append]
    simp [hi]
  exact congrArg BitVec.toNat h

/-- One parcel where LEN is 0b00. -/
theorem parcelsOf_len0 (x : BitVec 30) : parcelsOf (x ++ 0b00#2) = 1 := by unfold parcelsOf; rw [lenOf_append]; rfl
/-- Two where it is 0b01. -/
theorem parcelsOf_len1 (x : BitVec 30) : parcelsOf (x ++ 0b01#2) = 2 := by unfold parcelsOf; rw [lenOf_append]; rfl
/-- Three where it is 0b10. -/
theorem parcelsOf_len2 (x : BitVec 30) : parcelsOf (x ++ 0b10#2) = 3 := by unfold parcelsOf; rw [lenOf_append]; rfl
/-- Six where it is 0b11. -/
theorem parcelsOf_len3 (x : BitVec 30) : parcelsOf (x ++ 0b11#2) = 6 := by unfold parcelsOf; rw [lenOf_append]; rfl

theorem encF3_length (op : BitVec 7) (fn b a d : BitVec 5) (h : Hdr) :
    (encF3 op fn b a d h).length = parcelsOf ((encF3 op fn b a d h).headD 0) := by unfold encF3; exact (parcelsOf_len0 _).symm
theorem encFI_length (op : BitVec 7) (imm : BitVec 10) (a d : BitVec 5) (h : Hdr) :
    (encFI op imm a d h).length = parcelsOf ((encFI op imm a d h).headD 0) := by unfold encFI; exact (parcelsOf_len0 _).symm
theorem encFB_length (op : BitVec 7) (off : BitVec 15) (a : BitVec 5) (h : Hdr) :
    (encFB op off a h).length = parcelsOf ((encFB op off a h).headD 0) := by unfold encFB; exact (parcelsOf_len0 _).symm
theorem encM_length (op : BitVec 7) (sz : BitVec 3) (sp a d : BitVec 5) (h : Hdr) :
    (encM op sz sp a d h).length = parcelsOf ((encM op sz sp a d h).headD 0) := by unfold encM; exact (parcelsOf_len0 _).symm
theorem enc64_length (op : BitVec 7) (fn : BitVec 10) (a d : BitVec 5) (imm : Word32) (h : Hdr) :
    (enc64 op fn a d imm h).length = parcelsOf ((enc64 op fn a d imm h).headD 0) := by unfold enc64; exact (parcelsOf_len1 _).symm
theorem encColl_length (k : BitVec 4) (rel : BitVec 1) (rop e : BitVec 2) (a : BitVec 5) (st : Word32) (h : Hdr) :
    (encColl k rel rop e a st h).length = parcelsOf ((encColl k rel rop e a st h).headD 0) := by unfold encColl; exact (parcelsOf_len1 _).symm
theorem encVec_length (op : BitVec 7) (w : VecWord) : (encVec op w).length = parcelsOf ((encVec op w).headD 0) :=
  by unfold encVec; exact (parcelsOf_len2 _).symm
theorem encXfer_length (op : BitVec 7) (w : XferWord) : (encXfer op w).length = parcelsOf ((encXfer op w).headD 0) :=
  by unfold encXfer; exact (parcelsOf_len2 _).symm
theorem encMat_length (op : BitVec 7) (w : MatWord) : (encMat op w).length = parcelsOf ((encMat op w).headD 0) :=
  by unfold encMat; exact (parcelsOf_len3 _).symm
theorem encChan_length (op : BitVec 7) (m : BitVec 1) (b : BitVec 4) (d : BitVec 10) (p : Word32) :
    (encChan op m b d p).length = parcelsOf ((encChan op m b d p).headD 0) := by unfold encChan; exact (parcelsOf_len1 _).symm

/-- Pattern words have no idle count and LEN zero (R192). -/
theorem encPat_length (op : BitVec 7) (imm : BitVec 17) (g : BitVec 3) :
    (encPat op imm g).length = parcelsOf ((encPat op imm g).headD 0) := by
  have h : fld (imm ++ g ++ op ++ 0#5) 0 2 = 0#2 := by
    apply BitVec.eq_of_getLsbD_eq
    intro i hi
    simp only [fld, BitVec.getLsbD_extractLsb', BitVec.getLsbD_append]
    simp [show i < 5 by omega]
  simp only [encPat, List.headD, parcelsOf, lenOf, h]
  rfl

theorem Encoding.add (h : Hdr) (d a b : Reg) : Encoding.Statement (.add h d a b) := fun _ => encF3_length _ _ _ _ _ _
theorem Encoding.sub (h : Hdr) (d a b : Reg) : Encoding.Statement (.sub h d a b) := fun _ => encF3_length _ _ _ _ _ _
theorem Encoding.mul (h : Hdr) (d a b : Reg) : Encoding.Statement (.mul h d a b) := fun _ => encF3_length _ _ _ _ _ _
theorem Encoding.mulh (h : Hdr) (d a b : Reg) : Encoding.Statement (.mulh h d a b) := fun _ => encF3_length _ _ _ _ _ _
theorem Encoding.mulhn (h : Hdr) (d a b : Reg) : Encoding.Statement (.mulhn h d a b) := fun _ => encF3_length _ _ _ _ _ _
theorem Encoding.div (h : Hdr) (d a b : Reg) : Encoding.Statement (.div h d a b) := fun _ => encF3_length _ _ _ _ _ _
theorem Encoding.divn (h : Hdr) (d a b : Reg) : Encoding.Statement (.divn h d a b) := fun _ => encF3_length _ _ _ _ _ _
theorem Encoding.rem (h : Hdr) (d a b : Reg) : Encoding.Statement (.rem h d a b) := fun _ => encF3_length _ _ _ _ _ _
theorem Encoding.remn (h : Hdr) (d a b : Reg) : Encoding.Statement (.remn h d a b) := fun _ => encF3_length _ _ _ _ _ _
theorem Encoding.and (h : Hdr) (d a b : Reg) : Encoding.Statement (.and h d a b) := fun _ => encF3_length _ _ _ _ _ _
theorem Encoding.andn (h : Hdr) (d a b : Reg) : Encoding.Statement (.andn h d a b) := fun _ => encF3_length _ _ _ _ _ _
theorem Encoding.or (h : Hdr) (d a b : Reg) : Encoding.Statement (.or h d a b) := fun _ => encF3_length _ _ _ _ _ _
theorem Encoding.xor (h : Hdr) (d a b : Reg) : Encoding.Statement (.xor h d a b) := fun _ => encF3_length _ _ _ _ _ _
theorem Encoding.shl (h : Hdr) (d a b : Reg) : Encoding.Statement (.shl h d a b) := fun _ => encF3_length _ _ _ _ _ _
theorem Encoding.shr (h : Hdr) (d a b : Reg) : Encoding.Statement (.shr h d a b) := fun _ => encF3_length _ _ _ _ _ _
theorem Encoding.sha (h : Hdr) (d a b : Reg) : Encoding.Statement (.sha h d a b) := fun _ => encF3_length _ _ _ _ _ _
theorem Encoding.rot (h : Hdr) (d a b : Reg) : Encoding.Statement (.rot h d a b) := fun _ => encF3_length _ _ _ _ _ _
theorem Encoding.min (h : Hdr) (d a b : Reg) : Encoding.Statement (.min h d a b) := fun _ => encF3_length _ _ _ _ _ _
theorem Encoding.minn (h : Hdr) (d a b : Reg) : Encoding.Statement (.minn h d a b) := fun _ => encF3_length _ _ _ _ _ _
theorem Encoding.max (h : Hdr) (d a b : Reg) : Encoding.Statement (.max h d a b) := fun _ => encF3_length _ _ _ _ _ _
theorem Encoding.maxn (h : Hdr) (d a b : Reg) : Encoding.Statement (.maxn h d a b) := fun _ => encF3_length _ _ _ _ _ _
theorem Encoding.cmpeq (h : Hdr) (d a b : Reg) : Encoding.Statement (.cmpeq h d a b) := fun _ => encF3_length _ _ _ _ _ _
theorem Encoding.cmpne (h : Hdr) (d a b : Reg) : Encoding.Statement (.cmpne h d a b) := fun _ => encF3_length _ _ _ _ _ _
theorem Encoding.cmplt (h : Hdr) (d a b : Reg) : Encoding.Statement (.cmplt h d a b) := fun _ => encF3_length _ _ _ _ _ _
theorem Encoding.cmpltn (h : Hdr) (d a b : Reg) : Encoding.Statement (.cmpltn h d a b) := fun _ => encF3_length _ _ _ _ _ _
theorem Encoding.cmple (h : Hdr) (d a b : Reg) : Encoding.Statement (.cmple h d a b) := fun _ => encF3_length _ _ _ _ _ _
theorem Encoding.cmplen (h : Hdr) (d a b : Reg) : Encoding.Statement (.cmplen h d a b) := fun _ => encF3_length _ _ _ _ _ _
theorem Encoding.sel (h : Hdr) (d a b : Reg) : Encoding.Statement (.sel h d a b) := fun _ => encF3_length _ _ _ _ _ _
theorem Encoding.clz (h : Hdr) (d a : Reg) : Encoding.Statement (.clz h d a) := fun _ => encF3_length _ _ _ _ _ _
theorem Encoding.ctz (h : Hdr) (d a : Reg) : Encoding.Statement (.ctz h d a) := fun _ => encF3_length _ _ _ _ _ _
theorem Encoding.popc (h : Hdr) (d a : Reg) : Encoding.Statement (.popc h d a) := fun _ => encF3_length _ _ _ _ _ _
theorem Encoding.sext (h : Hdr) (d a : Reg) (w : BitVec 5) : Encoding.Statement (.sext h d a w) := fun _ => encF3_length _ _ _ _ _ _
theorem Encoding.zext (h : Hdr) (d a : Reg) (w : BitVec 5) : Encoding.Statement (.zext h d a w) := fun _ => encF3_length _ _ _ _ _ _
theorem Encoding.addi (h : Hdr) (d a : Reg) (imm : BitVec 10) : Encoding.Statement (.addi h d a imm) := fun _ => encFI_length _ _ _ _ _
theorem Encoding.andi (h : Hdr) (d a : Reg) (imm : BitVec 10) : Encoding.Statement (.andi h d a imm) := fun _ => encFI_length _ _ _ _ _
theorem Encoding.ori (h : Hdr) (d a : Reg) (imm : BitVec 10) : Encoding.Statement (.ori h d a imm) := fun _ => encFI_length _ _ _ _ _
theorem Encoding.xori (h : Hdr) (d a : Reg) (imm : BitVec 10) : Encoding.Statement (.xori h d a imm) := fun _ => encFI_length _ _ _ _ _
theorem Encoding.shli (h : Hdr) (d a : Reg) (n : BitVec 6) : Encoding.Statement (.shli h d a n) := fun _ => encFI_length _ _ _ _ _
theorem Encoding.shri (h : Hdr) (d a : Reg) (n : BitVec 6) : Encoding.Statement (.shri h d a n) := fun _ => encFI_length _ _ _ _ _
theorem Encoding.shai (h : Hdr) (d a : Reg) (n : BitVec 6) : Encoding.Statement (.shai h d a n) := fun _ => encFI_length _ _ _ _ _
theorem Encoding.ld (h : Hdr) (d a space : BitVec 5) (sz : BitVec 3) : Encoding.Statement (.ld h d a space sz) :=
  fun _ => encM_length _ _ _ _ _ _
theorem Encoding.st (h : Hdr) (d a space : BitVec 5) (sz : BitVec 3) : Encoding.Statement (.st h d a space sz) :=
  fun _ => encM_length _ _ _ _ _ _
theorem Encoding.atadd (h : Hdr) (d a space : BitVec 5) : Encoding.Statement (.atadd h d a space) := fun _ => encM_length _ _ _ _ _ _
theorem Encoding.atmin (h : Hdr) (d a space : BitVec 5) : Encoding.Statement (.atmin h d a space) := fun _ => encM_length _ _ _ _ _ _
theorem Encoding.atmax (h : Hdr) (d a space : BitVec 5) : Encoding.Statement (.atmax h d a space) := fun _ => encM_length _ _ _ _ _ _
theorem Encoding.atand (h : Hdr) (d a space : BitVec 5) : Encoding.Statement (.atand h d a space) := fun _ => encM_length _ _ _ _ _ _
theorem Encoding.ator (h : Hdr) (d a space : BitVec 5) : Encoding.Statement (.ator h d a space) := fun _ => encM_length _ _ _ _ _ _
theorem Encoding.atxch (h : Hdr) (d a space : BitVec 5) : Encoding.Statement (.atxch h d a space) := fun _ => encM_length _ _ _ _ _ _
theorem Encoding.atcas (h : Hdr) (d a space : BitVec 5) : Encoding.Statement (.atcas h d a space) := fun _ => encM_length _ _ _ _ _ _
theorem Encoding.b (h : Hdr) (off : BitVec 15) : Encoding.Statement (.b h off) := fun _ => encFB_length _ _ _ _
theorem Encoding.bz (h : Hdr) (a : Reg) (off : BitVec 15) : Encoding.Statement (.bz h a off) := fun _ => encFB_length _ _ _ _
theorem Encoding.bnz (h : Hdr) (a : Reg) (off : BitVec 15) : Encoding.Statement (.bnz h a off) := fun _ => encFB_length _ _ _ _
theorem Encoding.call (h : Hdr) (a : Reg) (off : BitVec 15) : Encoding.Statement (.call h a off) := fun _ => encFB_length _ _ _ _
theorem Encoding.ret (h : Hdr) : Encoding.Statement (.ret h) := fun _ => encFB_length _ _ _ _
theorem Encoding.prepLabel (h : Hdr) (jt : BitVec 2) (off : BitVec 15) : Encoding.Statement (.prepLabel h jt off) :=
  fun _ => encFB_length _ _ _ _
theorem Encoding.prepRegister (h : Hdr) (jt : BitVec 2) (r : Reg) : Encoding.Statement (.prepRegister h jt r) :=
  fun _ => encFB_length _ _ _ _
theorem Encoding.jp (h : Hdr) (jt : BitVec 2) : Encoding.Statement (.jp h jt) := fun _ => encFB_length _ _ _ _
theorem Encoding.loop (h : Hdr) (a : Reg) (off : BitVec 15) : Encoding.Statement (.loop h a off) := fun _ => encFB_length _ _ _ _
theorem Encoding.boput (h : Hdr) (a : Reg) (q : BitVec 2) : Encoding.Statement (.boput h a q) := fun _ => encFI_length _ _ _ _ _
theorem Encoding.boget (h : Hdr) (off : BitVec 15) : Encoding.Statement (.boget h off) := fun _ => encFB_length _ _ _ _
theorem Encoding.idle (h : Hdr) (n : BitVec 15) : Encoding.Statement (.idle h n) := fun _ => encFB_length _ _ _ _
theorem Encoding.realign (h : Hdr) : Encoding.Statement (.realign h) := fun _ => encFB_length _ _ _ _
theorem Encoding.stamp (h : Hdr) (d : Reg) (sel : BitVec 2) : Encoding.Statement (.stamp h d sel) := fun _ => encFB_length _ _ _ _
theorem Encoding.tkput (h : Hdr) (q n : BitVec 4) : Encoding.Statement (.tkput h q n) := fun _ => encFB_length _ _ _ _
theorem Encoding.tkget (h : Hdr) (q n : BitVec 4) : Encoding.Statement (.tkget h q n) := fun _ => encFB_length _ _ _ _
theorem Encoding.mark (h : Hdr) (n : BitVec 15) : Encoding.Statement (.mark h n) := fun _ => encFB_length _ _ _ _
theorem Encoding.fence (h : Hdr) (scope : BitVec 3) (kind : BitVec 2) : Encoding.Statement (.fence h scope kind) :=
  fun _ => encFB_length _ _ _ _
theorem Encoding.evpop (h : Hdr) (d : Reg) : Encoding.Statement (.evpop h d) := fun _ => encFB_length _ _ _ _
theorem Encoding.evwait (h : Hdr) : Encoding.Statement (.evwait h) := fun _ => encFB_length _ _ _ _
theorem Encoding.sput (h : Hdr) (a : Reg) : Encoding.Statement (.sput h a) := fun _ => encF3_length _ _ _ _ _ _
theorem Encoding.sget (h : Hdr) (d : Reg) : Encoding.Statement (.sget h d) := fun _ => encFB_length _ _ _ _
theorem Encoding.bbinit (h : Hdr) (a : Reg) : Encoding.Statement (.bbinit h a) := fun _ => encF3_length _ _ _ _ _ _
theorem Encoding.bbwait (h : Hdr) (a : Reg) : Encoding.Statement (.bbwait h a) := fun _ => encF3_length _ _ _ _ _ _
theorem Encoding.bbtest (h : Hdr) (d a : Reg) : Encoding.Statement (.bbtest h d a) := fun _ => encF3_length _ _ _ _ _ _
theorem Encoding.bbexp (h : Hdr) (a : Reg) (imm : Word32) : Encoding.Statement (.bbexp h a imm) := fun _ => enc64_length _ _ _ _ _ _
theorem Encoding.binrst (h : Hdr) (n : BitVec 4) : Encoding.Statement (.binrst h n) := fun _ => encFB_length _ _ _ _
theorem Encoding.binfill (h : Hdr) (d : Reg) (n : BitVec 4) (sel : BitVec 3) : Encoding.Statement (.binfill h d n sel) :=
  fun _ => encFB_length _ _ _ _
theorem Encoding.binpass (h : Hdr) (n : BitVec 4) : Encoding.Statement (.binpass h n) := fun _ => encFB_length _ _ _ _
theorem Encoding.binend (h : Hdr) (n : BitVec 4) : Encoding.Statement (.binend h n) := fun _ => encFB_length _ _ _ _
theorem Encoding.bindef (h : Hdr) (n : BitVec 5) (imm : Word32) : Encoding.Statement (.bindef h n imm) := fun _ => enc64_length _ _ _ _ _ _
theorem Encoding.hinv (h : Hdr) (n : Reg) : Encoding.Statement (.hinv h n) := fun _ => encFB_length _ _ _ _
theorem Encoding.hqry (h : Hdr) (d n : Reg) : Encoding.Statement (.hqry h d n) := fun _ => encFB_length _ _ _ _
theorem Encoding.phend (h : Hdr) (c : BitVec 3) : Encoding.Statement (.phend h c) := fun _ => encFB_length _ _ _ _
theorem Encoding.segend (h : Hdr) (mask : BitVec 8) : Encoding.Statement (.segend h mask) := fun _ => encFB_length _ _ _ _
theorem Encoding.cask (h : Hdr) (d : Reg) (sel : BitVec 1) : Encoding.Statement (.cask h d sel) := fun _ => encFB_length _ _ _ _
theorem Encoding.trap (h : Hdr) (n : BitVec 15) : Encoding.Statement (.trap h n) := fun _ => encFB_length _ _ _ _
theorem Encoding.crd (h : Hdr) (d : Reg) (cr : BitVec 12) : Encoding.Statement (.crd h d cr) := fun _ => encFB_length _ _ _ _
theorem Encoding.cwr (h : Hdr) (d : Reg) (cr : BitVec 12) : Encoding.Statement (.cwr h d cr) := fun _ => encFB_length _ _ _ _
theorem Encoding.halt (h : Hdr) : Encoding.Statement (.halt h) := fun _ => encFB_length _ _ _ _
theorem Encoding.nop (h : Hdr) : Encoding.Statement (.nop h) := fun _ => encFB_length _ _ _ _
theorem Encoding.brk (h : Hdr) (n : BitVec 15) : Encoding.Statement (.brk h n) := fun _ => encFB_length _ _ _ _
theorem Encoding.nslice (h : Hdr) (d : Reg) (sel : BitVec 3) (r : Reg) : Encoding.Statement (.nslice h d sel r) :=
  fun _ => encFB_length _ _ _ _
theorem Encoding.li (h : Hdr) (d : Reg) (imm : Word32) : Encoding.Statement (.li h d imm) := fun _ => enc64_length _ _ _ _ _ _
theorem Encoding.lih (h : Hdr) (d a : Reg) (imm : Word32) : Encoding.Statement (.lih h d a imm) := fun _ => enc64_length _ _ _ _ _ _
theorem Encoding.xlate (h : Hdr) (d a : Reg) (imm : Word32) : Encoding.Statement (.xlate h d a imm) := fun _ => enc64_length _ _ _ _ _ _
theorem Encoding.phase (h : Hdr) (c : BitVec 5) (a : Reg) (imm : Word32) : Encoding.Statement (.phase h c a imm) :=
  fun _ => enc64_length _ _ _ _ _ _
theorem Encoding.nest (h : Hdr) (a : Reg) (imm : Word32) : Encoding.Statement (.nest h a imm) := fun _ => enc64_length _ _ _ _ _ _
theorem Encoding.collAllred (h : Hdr) (a : Reg) (rel : BitVec 1) (elem rop : BitVec 2) (stamp : Word32) : Encoding.Statement (.collAllred h a rel elem rop stamp) :=
  fun _ => encColl_length _ _ _ _ _ _ _
theorem Encoding.collReduce (h : Hdr) (a : Reg) (rel : BitVec 1) (elem rop : BitVec 2) (stamp : Word32) : Encoding.Statement (.collReduce h a rel elem rop stamp) :=
  fun _ => encColl_length _ _ _ _ _ _ _
theorem Encoding.collBcast (h : Hdr) (a : Reg) (rel : BitVec 1) (stamp : Word32) : Encoding.Statement (.collBcast h a rel stamp) :=
  fun _ => encColl_length _ _ _ _ _ _ _
theorem Encoding.collGather (h : Hdr) (a : Reg) (rel : BitVec 1) (stamp : Word32) : Encoding.Statement (.collGather h a rel stamp) :=
  fun _ => encColl_length _ _ _ _ _ _ _
theorem Encoding.collA2a (h : Hdr) (a : Reg) (rel : BitVec 1) (stamp : Word32) : Encoding.Statement (.collA2a h a rel stamp) :=
  fun _ => encColl_length _ _ _ _ _ _ _
theorem Encoding.collCombine (h : Hdr) (a : Reg) (rel : BitVec 1) (stamp : Word32) : Encoding.Statement (.collCombine h a rel stamp) :=
  fun _ => encColl_length _ _ _ _ _ _ _
theorem Encoding.collSync (h : Hdr) (a : Reg) (rel : BitVec 1) (stamp : Word32) : Encoding.Statement (.collSync h a rel stamp) :=
  fun _ => encColl_length _ _ _ _ _ _ _
theorem Encoding.rowg (h : Hdr) (a : Reg) (imm : Word32) : Encoding.Statement (.rowg h a imm) := fun _ => enc64_length _ _ _ _ _ _
theorem Encoding.rows (h : Hdr) (a : Reg) (imm : Word32) : Encoding.Statement (.rows h a imm) := fun _ => enc64_length _ _ _ _ _ _
theorem Encoding.rowsa (h : Hdr) (a : Reg) (imm : Word32) : Encoding.Statement (.rowsa h a imm) := fun _ => enc64_length _ _ _ _ _ _
theorem Encoding.vld (w : XferWord) : Encoding.Statement (.vld w) := fun _ => encXfer_length _ _
theorem Encoding.vst (w : XferWord) : Encoding.Statement (.vst w) := fun _ => encXfer_length _ _
theorem Encoding.copy (w : XferWord) : Encoding.Statement (.copy w) := fun _ => encXfer_length _ _
theorem Encoding.obld (w : XferWord) : Encoding.Statement (.obld w) := fun _ => encXfer_length _ _
theorem Encoding.route (w : XferWord) : Encoding.Statement (.route w) := fun _ => encXfer_length _ _
theorem Encoding.mma (w : MatWord) : Encoding.Statement (.mma w) := fun _ => encMat_length _ _
theorem Encoding.mmap (w : MatWord) : Encoding.Statement (.mmap w) := fun _ => encMat_length _ _
theorem Encoding.mret (w : MatWord) : Encoding.Statement (.mret w) := fun _ => encMat_length _ _
theorem Encoding.mdrain (w : MatWord) : Encoding.Statement (.mdrain w) := fun _ => encMat_length _ _
theorem Encoding.vadd (w : VecWord) : Encoding.Statement (.vadd w) := fun _ => encVec_length _ _
theorem Encoding.vsub (w : VecWord) : Encoding.Statement (.vsub w) := fun _ => encVec_length _ _
theorem Encoding.vmul (w : VecWord) : Encoding.Statement (.vmul w) := fun _ => encVec_length _ _
theorem Encoding.vfma (w : VecWord) : Encoding.Statement (.vfma w) := fun _ => encVec_length _ _
theorem Encoding.vfms (w : VecWord) : Encoding.Statement (.vfms w) := fun _ => encVec_length _ _
theorem Encoding.vfnma (w : VecWord) : Encoding.Statement (.vfnma w) := fun _ => encVec_length _ _
theorem Encoding.vmin (w : VecWord) : Encoding.Statement (.vmin w) := fun _ => encVec_length _ _
theorem Encoding.vmax (w : VecWord) : Encoding.Statement (.vmax w) := fun _ => encVec_length _ _
theorem Encoding.vabs (w : VecWord) : Encoding.Statement (.vabs w) := fun _ => encVec_length _ _
theorem Encoding.vneg (w : VecWord) : Encoding.Statement (.vneg w) := fun _ => encVec_length _ _
theorem Encoding.vrcp (w : VecWord) : Encoding.Statement (.vrcp w) := fun _ => encVec_length _ _
theorem Encoding.vrsq (w : VecWord) : Encoding.Statement (.vrsq w) := fun _ => encVec_length _ _
theorem Encoding.vsqrt (w : VecWord) : Encoding.Statement (.vsqrt w) := fun _ => encVec_length _ _
theorem Encoding.vdiv (w : VecWord) : Encoding.Statement (.vdiv w) := fun _ => encVec_length _ _
theorem Encoding.vexp2 (w : VecWord) : Encoding.Statement (.vexp2 w) := fun _ => encVec_length _ _
theorem Encoding.vlog2 (w : VecWord) : Encoding.Statement (.vlog2 w) := fun _ => encVec_length _ _
theorem Encoding.viadd (w : VecWord) : Encoding.Statement (.viadd w) := fun _ => encVec_length _ _
theorem Encoding.visub (w : VecWord) : Encoding.Statement (.visub w) := fun _ => encVec_length _ _
theorem Encoding.vimul (w : VecWord) : Encoding.Statement (.vimul w) := fun _ => encVec_length _ _
theorem Encoding.vimulh (w : VecWord) : Encoding.Statement (.vimulh w) := fun _ => encVec_length _ _
theorem Encoding.vimac (w : VecWord) : Encoding.Statement (.vimac w) := fun _ => encVec_length _ _
theorem Encoding.vand (w : VecWord) : Encoding.Statement (.vand w) := fun _ => encVec_length _ _
theorem Encoding.vor (w : VecWord) : Encoding.Statement (.vor w) := fun _ => encVec_length _ _
theorem Encoding.vxor (w : VecWord) : Encoding.Statement (.vxor w) := fun _ => encVec_length _ _
theorem Encoding.vandn (w : VecWord) : Encoding.Statement (.vandn w) := fun _ => encVec_length _ _
theorem Encoding.vshl (w : VecWord) : Encoding.Statement (.vshl w) := fun _ => encVec_length _ _
theorem Encoding.vshr (w : VecWord) : Encoding.Statement (.vshr w) := fun _ => encVec_length _ _
theorem Encoding.vsha (w : VecWord) : Encoding.Statement (.vsha w) := fun _ => encVec_length _ _
theorem Encoding.vimin (w : VecWord) : Encoding.Statement (.vimin w) := fun _ => encVec_length _ _
theorem Encoding.vimax (w : VecWord) : Encoding.Statement (.vimax w) := fun _ => encVec_length _ _
theorem Encoding.vclmul (w : VecWord) : Encoding.Statement (.vclmul w) := fun _ => encVec_length _ _
theorem Encoding.vpopc (w : VecWord) : Encoding.Statement (.vpopc w) := fun _ => encVec_length _ _
theorem Encoding.vcmp (w : VecWord) : Encoding.Statement (.vcmp w) := fun _ => encVec_length _ _
theorem Encoding.vsel (w : VecWord) : Encoding.Statement (.vsel w) := fun _ => encVec_length _ _
theorem Encoding.vmsk (w : VecWord) : Encoding.Statement (.vmsk w) := fun _ => encVec_length _ _
theorem Encoding.vcvt (w : VecWord) : Encoding.Statement (.vcvt w) := fun _ => encVec_length _ _
theorem Encoding.vqnt (w : VecWord) : Encoding.Statement (.vqnt w) := fun _ => encVec_length _ _
theorem Encoding.vpack (w : VecWord) : Encoding.Statement (.vpack w) := fun _ => encVec_length _ _
theorem Encoding.vunpk (w : VecWord) : Encoding.Statement (.vunpk w) := fun _ => encVec_length _ _
theorem Encoding.vred (w : VecWord) : Encoding.Statement (.vred w) := fun _ => encVec_length _ _
theorem Encoding.vperm (w : VecWord) : Encoding.Statement (.vperm w) := fun _ => encVec_length _ _
theorem Encoding.vshuf (w : VecWord) : Encoding.Statement (.vshuf w) := fun _ => encVec_length _ _
theorem Encoding.vbcast (w : VecWord) : Encoding.Statement (.vbcast w) := fun _ => encVec_length _ _
theorem Encoding.vslide (w : VecWord) : Encoding.Statement (.vslide w) := fun _ => encVec_length _ _
theorem Encoding.viota (w : VecWord) : Encoding.Statement (.viota w) := fun _ => encVec_length _ _
theorem Encoding.vmov (w : VecWord) : Encoding.Statement (.vmov w) := fun _ => encVec_length _ _
theorem Encoding.vxs (w : VecWord) : Encoding.Statement (.vxs w) := fun _ => encVec_length _ _
theorem Encoding.trd (w : VecWord) : Encoding.Statement (.trd w) := fun _ => encVec_length _ _
theorem Encoding.twr (w : VecWord) : Encoding.Statement (.twr w) := fun _ => encVec_length _ _
theorem Encoding.tzero (w : VecWord) : Encoding.Statement (.tzero w) := fun _ => encVec_length _ _
theorem Encoding.topkc (w : VecWord) : Encoding.Statement (.topkc w) := fun _ => encVec_length _ _
theorem Encoding.pdim (g : BitVec 3) (pr pc : BitVec 4) (order : BitVec 1) : Encoding.Statement (.pdim g pr pc order) :=
  fun _ => encPat_length _ _ _
theorem Encoding.pband (g : BitVec 3) (w : BitVec 11) (wrap : BitVec 1) : Encoding.Statement (.pband g w wrap) :=
  fun _ => encPat_length _ _ _
theorem Encoding.pdil (g : BitVec 3) (off : BitVec 11) (step : BitVec 6) : Encoding.Statement (.pdil g off step) :=
  fun _ => encPat_length _ _ _
theorem Encoding.pblk (g : BitVec 3) (b : BitVec 11) : Encoding.Statement (.pblk g b) := fun _ => encPat_length _ _ _
theorem Encoding.pkron (g a b : BitVec 3) : Encoding.Statement (.pkron g a b) := fun _ => encPat_length _ _ _
theorem Encoding.phash (g : BitVec 3) (n : BitVec 11) (seed : BitVec 6) : Encoding.Statement (.phash g n seed) :=
  fun _ => encPat_length _ _ _
theorem Encoding.pemit (g : BitVec 3) (r : BitVec 10) : Encoding.Statement (.pemit g r) := fun _ => encPat_length _ _ _
theorem Encoding.pinv (g : BitVec 3) : Encoding.Statement (.pinv g) := fun _ => encPat_length _ _ _
theorem Encoding.pend (g : BitVec 3) : Encoding.Statement (.pend g) := fun _ => encPat_length _ _ _
theorem Encoding.dact (delta : BitVec 10) (bank : BitVec 4) (row : BitVec 16) : Encoding.Statement (.dact delta bank row) :=
  fun _ => encChan_length _ _ _ _ _
theorem Encoding.dpre (delta : BitVec 10) (bank : BitVec 4) : Encoding.Statement (.dpre delta bank) := fun _ => encChan_length _ _ _ _ _
theorem Encoding.dpreAll (delta : BitVec 10) : Encoding.Statement (.dpreAll delta) := fun _ => encChan_length _ _ _ _ _
theorem Encoding.drd (delta : BitVec 10) (bank : BitVec 4) (row : BitVec 16) (col : BitVec 4) (core : BitVec 9) (slot : BitVec 3) : Encoding.Statement (.drd delta bank row col core slot) :=
  fun _ => encChan_length _ _ _ _ _
theorem Encoding.dwr (delta : BitVec 10) (bank : BitVec 4) (row : BitVec 16) (col : BitVec 4) (core : BitVec 9) (slot : BitVec 3) : Encoding.Statement (.dwr delta bank row col core slot) :=
  fun _ => encChan_length _ _ _ _ _
theorem Encoding.dref (delta : BitVec 10) : Encoding.Statement (.dref delta) := fun _ => encChan_length _ _ _ _ _
theorem Encoding.drefPb (delta : BitVec 10) (bank : BitVec 4) : Encoding.Statement (.drefPb delta bank) := fun _ => encChan_length _ _ _ _ _
theorem Encoding.dnop (delta : BitVec 10) : Encoding.Statement (.dnop delta) := fun _ => encChan_length _ _ _ _ _
theorem Encoding.dnopEnd (delta : BitVec 10) : Encoding.Statement (.dnopEnd delta) := fun _ => encChan_length _ _ _ _ _
theorem Encoding.dind (delta : BitVec 10) (slot : BitVec 3) : Encoding.Statement (.dind delta slot) := fun _ => encChan_length _ _ _ _ _
theorem Encoding.dloop (lenw : BitVec 11) (rep : BitVec 16) : Encoding.Statement (.dloop lenw rep) := fun _ => encChan_length _ _ _ _ _
theorem Encoding.registerResultLanding (core : Nat) (q : Seq) : Encoding.Statement (.registerResultLanding core q) :=
  fun h => Bool.noConfusion h
theorem Encoding.xlateLanding (core : Nat) : Encoding.Statement (.xlateLanding core) := fun h => Bool.noConfusion h
theorem Encoding.vectorQueuePush (core : Nat) : Encoding.Statement (.vectorQueuePush core) := fun h => Bool.noConfusion h
theorem Encoding.slipAllowanceOverrun (core : Nat) (q : Seq) : Encoding.Statement (.slipAllowanceOverrun core q) :=
  fun h => Bool.noConfusion h
theorem Encoding.commandBoundOverrun (core : Nat) (u : UnitId) : Encoding.Statement (.commandBoundOverrun core u) :=
  fun h => Bool.noConfusion h
theorem Encoding.matrixWordStart (core : Nat) : Encoding.Statement (.matrixWordStart core) := fun h => Bool.noConfusion h
theorem Encoding.matrixPipeLineTake (core : Nat) : Encoding.Statement (.matrixPipeLineTake core) := fun h => Bool.noConfusion h
theorem Encoding.tileStepCompletion (core : Nat) : Encoding.Statement (.tileStepCompletion core) := fun h => Bool.noConfusion h
theorem Encoding.tileDrainEnd (core tile : Nat) : Encoding.Statement (.tileDrainEnd core tile) := fun h => Bool.noConfusion h
theorem Encoding.tileWriteEffect (core : Nat) : Encoding.Statement (.tileWriteEffect core) := fun h => Bool.noConfusion h
theorem Encoding.mretCompletion (core : Nat) : Encoding.Statement (.mretCompletion core) := fun h => Bool.noConfusion h
theorem Encoding.mdrainEntryPush (core : Nat) : Encoding.Statement (.mdrainEntryPush core) := fun h => Bool.noConfusion h
theorem Encoding.topkcEntryPush (core : Nat) : Encoding.Statement (.topkcEntryPush core) := fun h => Bool.noConfusion h
theorem Encoding.copyStart (core : Nat) : Encoding.Statement (.copyStart core) := fun h => Bool.noConfusion h
theorem Encoding.copyLandLineTake (core : Nat) : Encoding.Statement (.copyLandLineTake core) := fun h => Bool.noConfusion h
theorem Encoding.copyCompletion (core : Nat) : Encoding.Statement (.copyCompletion core) := fun h => Bool.noConfusion h
theorem Encoding.inboundLineTake (core : Nat) : Encoding.Statement (.inboundLineTake core) := fun h => Bool.noConfusion h
theorem Encoding.vldEntryPush (core : Nat) : Encoding.Statement (.vldEntryPush core) := fun h => Bool.noConfusion h
theorem Encoding.vstEntryPop (core : Nat) : Encoding.Statement (.vstEntryPop core) := fun h => Bool.noConfusion h
theorem Encoding.obldCompletion (core : Nat) : Encoding.Statement (.obldCompletion core) := fun h => Bool.noConfusion h
theorem Encoding.binCommandStart (core : Nat) : Encoding.Statement (.binCommandStart core) := fun h => Bool.noConfusion h
theorem Encoding.binCommandCompletion (core : Nat) : Encoding.Statement (.binCommandCompletion core) := fun h => Bool.noConfusion h
theorem Encoding.routeCompletion (core : Nat) : Encoding.Statement (.routeCompletion core) := fun h => Bool.noConfusion h
theorem Encoding.rowCommandStart (die : Nat) : Encoding.Statement (.rowCommandStart die) := fun h => Bool.noConfusion h
theorem Encoding.rowWindowStart (die : Nat) : Encoding.Statement (.rowWindowStart die) := fun h => Bool.noConfusion h
theorem Encoding.rowCommandCompletion (die : Nat) : Encoding.Statement (.rowCommandCompletion die) := fun h => Bool.noConfusion h
theorem Encoding.collCompletion (inst : Nat) : Encoding.Statement (.collCompletion inst) := fun h => Bool.noConfusion h
theorem Encoding.drdLineLanding (chan : Nat) : Encoding.Statement (.drdLineLanding chan) := fun h => Bool.noConfusion h
theorem Encoding.dindLineDelivery (chan : Nat) : Encoding.Statement (.dindLineDelivery chan) := fun h => Bool.noConfusion h
theorem Encoding.refreshComplete (chan bank : Nat) : Encoding.Statement (.refreshComplete chan bank) := fun h => Bool.noConfusion h
theorem Encoding.refreshDeadlineMissed (chan bank : Nat) : Encoding.Statement (.refreshDeadlineMissed chan bank) :=
  fun h => Bool.noConfusion h
theorem Encoding.idleChannelRefresh (chan : Nat) : Encoding.Statement (.idleChannelRefresh chan) := fun h => Bool.noConfusion h
theorem Encoding.idleRemoteWindow (chan : Nat) : Encoding.Statement (.idleRemoteWindow chan) := fun h => Bool.noConfusion h
theorem Encoding.leadInRefresh (chan : Nat) : Encoding.Statement (.leadInRefresh chan) := fun h => Bool.noConfusion h
theorem Encoding.frameStart : Encoding.Statement .frameStart := fun h => Bool.noConfusion h
theorem Encoding.edgeGap : Encoding.Statement .edgeGap := fun h => Bool.noConfusion h
theorem Encoding.segmentEntry (launch : Nat) : Encoding.Statement (.segmentEntry launch) := fun h => Bool.noConfusion h
theorem Encoding.segmentEnd (launch : Nat) : Encoding.Statement (.segmentEnd launch) := fun h => Bool.noConfusion h
theorem Encoding.commitAcknowledge (launch : Nat) : Encoding.Statement (.commitAcknowledge launch) := fun h => Bool.noConfusion h
theorem Encoding.frameOverrun (launch : Nat) : Encoding.Statement (.frameOverrun launch) := fun h => Bool.noConfusion h
theorem Encoding.coreStop (launch core : Nat) : Encoding.Statement (.coreStop launch core) := fun h => Bool.noConfusion h
theorem Encoding.trapSegmentEnd (launch : Nat) : Encoding.Statement (.trapSegmentEnd launch) := fun h => Bool.noConfusion h
theorem Encoding.revocationEffect (core : Nat) (pid : BitVec 12) : Encoding.Statement (.revocationEffect core pid) :=
  fun h => Bool.noConfusion h
theorem Encoding.launchRecordFetch (world : Nat) : Encoding.Statement (.launchRecordFetch world) := fun h => Bool.noConfusion h
theorem Encoding.keyImportResult (world : Nat) : Encoding.Statement (.keyImportResult world) := fun h => Bool.noConfusion h
theorem Encoding.replicaTableSwitch (world : Nat) : Encoding.Statement (.replicaTableSwitch world) := fun h => Bool.noConfusion h
theorem Encoding.ringSwap (world flow : Nat) : Encoding.Statement (.ringSwap world flow) := fun h => Bool.noConfusion h
theorem Encoding.packageResetRelease : Encoding.Statement .packageResetRelease := fun h => Bool.noConfusion h
theorem Encoding.recoveryVerifyDone : Encoding.Statement .recoveryVerifyDone := fun h => Bool.noConfusion h
theorem Encoding.reservedOpcode (w : Word32) : Encoding.Statement (.reservedOpcode w) := fun h => Bool.noConfusion h
theorem Encoding.fetchFault (missing : Nat) : Encoding.Statement (.fetchFault missing) := fun h => Bool.noConfusion h
theorem Encoding.copyLqEntryPush (core : Nat) : Encoding.Statement (.copyLqEntryPush core) := fun h => Bool.noConfusion h
theorem Encoding.outgoingSlotLineAppend (core : Nat) : Encoding.Statement (.outgoingSlotLineAppend core) := fun h => Bool.noConfusion h
theorem Encoding.collInstanceCancel (inst core : Nat) : Encoding.Statement (.collInstanceCancel inst core) := fun h => Bool.noConfusion h
theorem Encoding.revocationBroadcast (world : Nat) (pid : BitVec 12) (t : Nat) : Encoding.Statement (.revocationBroadcast world pid t) :=
  fun h => Bool.noConfusion h
theorem Encoding.lqCreate (world : Nat) (qlog2 : BitVec 4) : Encoding.Statement (.lqCreate world qlog2) := fun h => Bool.noConfusion h
theorem Encoding.lqDestroy (world : Nat) : Encoding.Statement (.lqDestroy world) := fun h => Bool.noConfusion h
theorem Encoding.doorbell (world : Nat) (tail : BitVec 12) : Encoding.Statement (.doorbell world tail) := fun h => Bool.noConfusion h
theorem Encoding.recordWindowWrite (world offset : Nat) (bytes : List Byte) : Encoding.Statement (.recordWindowWrite world offset bytes) :=
  fun h => Bool.noConfusion h
theorem Encoding.keyImportGo (world : Nat) : Encoding.Statement (.keyImportGo world) := fun h => Bool.noConfusion h
theorem Encoding.replicaSwitchArm (world : Nat) (time : Word64) : Encoding.Statement (.replicaSwitchArm world time) :=
  fun h => Bool.noConfusion h
theorem Encoding.registerWrite (world offset : Nat) (bytes : List Byte) (tee : Bool) : Encoding.Statement (.registerWrite world offset bytes tee) :=
  fun h => Bool.noConfusion h
theorem Encoding.lockInterfaceRequest (world : Nat) : Encoding.Statement (.lockInterfaceRequest world) := fun h => Bool.noConfusion h
theorem Encoding.startInterfaceRequest (world : Nat) : Encoding.Statement (.startInterfaceRequest world) := fun h => Bool.noConfusion h
theorem Encoding.stopInterfaceRequest (world : Nat) : Encoding.Statement (.stopInterfaceRequest world) := fun h => Bool.noConfusion h
theorem Encoding.getDeviceInterfaceReport (world : Nat) (secure : Bool) : Encoding.Statement (.getDeviceInterfaceReport world secure) :=
  fun h => Bool.noConfusion h
theorem Encoding.ideIntegrityFailure (stream : Nat) : Encoding.Statement (.ideIntegrityFailure stream) := fun h => Bool.noConfusion h
theorem Encoding.frozenConfigChange (world : Nat) : Encoding.Statement (.frozenConfigChange world) := fun h => Bool.noConfusion h
theorem Encoding.getCertificate (slot : BitVec 3) : Encoding.Statement (.getCertificate slot) := fun h => Bool.noConfusion h
theorem Encoding.challenge (slot : BitVec 3) (nonce : BitVec 256) : Encoding.Statement (.challenge slot nonce) :=
  fun h => Bool.noConfusion h
theorem Encoding.keyExchange (slot : BitVec 3) (peerX peerY : BitVec 256) : Encoding.Statement (.keyExchange slot peerX peerY) :=
  fun h => Bool.noConfusion h
theorem Encoding.setCertificate (slot : BitVec 3) (secure : Bool) (bytes : List Byte) : Encoding.Statement (.setCertificate slot secure bytes) :=
  fun h => Bool.noConfusion h
theorem Encoding.getMeasurements (index : BitVec 8) : Encoding.Statement (.getMeasurements index) := fun h => Bool.noConfusion h
theorem Encoding.vfEnable (world cbase csize : Nat) (units : List Nat) : Encoding.Statement (.vfEnable world cbase csize units) :=
  fun h => Bool.noConfusion h
theorem Encoding.vfReset (world : Nat) : Encoding.Statement (.vfReset world) := fun h => Bool.noConfusion h
theorem Encoding.debugRead (world : Nat) (t : DebugTarget) : Encoding.Statement (.debugRead world t) := fun h => Bool.noConfusion h
theorem Encoding.remoteRequest (r : RemoteReq) : Encoding.Statement (.remoteRequest r) := fun h => Bool.noConfusion h
theorem Encoding.scemelFlitReceive (port : Nat) (ok : Bool) (lines : List RemoteReq) : Encoding.Statement (.scemelFlitReceive port ok lines) :=
  fun h => Bool.noConfusion h
theorem Encoding.groupEnrolment (group count pkg world : Nat) : Encoding.Statement (.groupEnrolment group count pkg world) :=
  fun h => Bool.noConfusion h
theorem Encoding.packetArrival (world flow : Nat) (msg : Word64) (payload : List Byte) : Encoding.Statement (.packetArrival world flow msg payload) :=
  fun h => Bool.noConfusion h
theorem Encoding.recoveryLoad : Encoding.Statement .recoveryLoad := fun h => Bool.noConfusion h
theorem Encoding.thermalThrottle (temp : Nat) : Encoding.Statement (.thermalThrottle temp) := fun h => Bool.noConfusion h
theorem Encoding.thermalShutdown (temp : Nat) : Encoding.Statement (.thermalShutdown temp) := fun h => Bool.noConfusion h
theorem Encoding.supplyOutOfRange (millivolts : Nat) : Encoding.Statement (.supplyOutOfRange millivolts) := fun h => Bool.noConfusion h
theorem Encoding.linkBringUp (pkg : Nat) (source : Bool) : Encoding.Statement (.linkBringUp pkg source) := fun h => Bool.noConfusion h
theorem Encoding.keySlotAssignment (slot world : Nat) : Encoding.Statement (.keySlotAssignment slot world) := fun h => Bool.noConfusion h
theorem Encoding.ideStreamSetup (stream world : Nat) : Encoding.Statement (.ideStreamSetup stream world) := fun h => Bool.noConfusion h

end Sys2Proof.Laws
end

