-- ==== Sys2Proof/Tests/Slice0.lean ====
section
/-!
SUPPORT. Tests: well-formedness and decoding against the manual's worked encodings, the manual's worked results, and for every
statement with hypotheses a concrete state and operands that meet them.
-/

namespace Sys2Proof.Tests

open Sys2Proof Sys2Proof.Machine

-- Each proof is checked before the next begins: many kernel checks at once would need too many threads.
set_option Elab.async false

/-! ### States for the tests -/

/-- A word's common fields: no idle count, no must-be-zero bit set. -/
def tHdr : Hdr := ⟨0, false⟩

/-- Values of the registers 1 to 31, boundary values of the address ranges among them; 7 is not static. -/
def tRegs : SMap SReg :=
  [(1, ⟨5, true⟩), (2, ⟨0x1000, true⟩), (3, ⟨64, true⟩), (4, ⟨0x1FFFF8, true⟩), (5, ⟨0x200000, true⟩), (6, ⟨0xFFF8, true⟩),
   (7, ⟨9, false⟩), (8, ⟨4096, true⟩), (9, ⟨4097, true⟩), (10, ⟨0x3FFFFFF8, true⟩), (11, ⟨0x40000000, true⟩), (13, ⟨0x10000, true⟩),
   (14, ⟨0xFFFFFFFFFFFFFFFF, true⟩), (15, ⟨0x200008, true⟩), (31, ⟨3, true⟩)]

/-- A class's set that covers the whole scratchpad. -/
def tOpen : PhaseSet := ⟨some [⟨0, 0x200000, true, true⟩], 0, none⟩

/-- A core that runs launch 0 of world 1, with every class open. -/
def tCore : Core := { Core.zero with
  launch := some 0, world := 1, regs := { Regs.zero with s := tRegs, la := tRegs, sa := tRegs },
  phases := (List.range 7).map fun k => (k, tOpen) }

/-- The package in cycle 100 with that core, changed by f, and a sequencer's word to run. -/
def tState (q : Seq) (f : Core → Core) : State := { State.reset with
  cyc := 100, dtime := 1000, boot := .running, turn := ⟨0, q, 0⟩, cores := [(0, f tCore)], launches := [(0, placedLaunch 900)],
  worlds := [(1, { World.zero with enabled := true })] }

/-- The same for each sequencer, with the core as it stands. -/
def sC : State := tState .c id
/-- L's. -/
def sL : State := tState .l id
/-- X's. -/
def sX : State := tState .x id
/-- S's. -/
def sS : State := tState .s id

/-- The state with its launches changed. -/
def tLaunch (f : Launch → Launch) (s : State) : State := { s with launches := s.launches.map fun e => (e.1, f e.2) }

/-- The state with the hazard detector on. -/
def tHaz (s : State) : State := tLaunch (fun l => { l with haz := true }) s

/-- The core of such a state runs a segment that no trap has ended. -/
theorem runsClean_tState (q : Seq) (f : Core → Core) (h1 : (f tCore).launch = some 0) (h2 : (f tCore).stopAt = none) :
    RunsClean (tState q f) 0 := ⟨h1, h2, _, rfl, rfl⟩

/-- A queue of n filled places. -/
def tQueue {α : Type} (n : Nat) (v : α) : Queue α := ⟨List.replicate n ⟨some v, 99, 0⟩, n, 0, 0, 0⟩

/-! ### Decoding -/

/-- Whether a list of parcels decodes to an instruction. -/
def reads (ps : List Word32) (i : Instr) : Bool := match decode ps with | .ok j => decide (j = i) | .error _ => false

/-- Whether each list of parcels decodes to the instruction beside it. -/
def allRead (l : List (List Word32 × Instr)) : Bool := l.all fun e => reads e.1 e.2

/-- The worked encodings of R338 to R454, and for the other ALU words FN of Table 10.4 with B, A, D, OP and IDLE put together by
Table 10.2. -/
theorem test_decode_alu : allRead [
    ([0x00823020#32], .add ⟨0, false⟩ 3 1 2), ([0x0B1EE020#32], .sub ⟨0, false⟩ 14 15 12), ([0x10423020#32], .mul ⟨0, false⟩ 3 1 1),
    ([0x18823020#32], .mulh ⟨0, false⟩ 3 1 2), ([0x20823020#32], .mulhn ⟨0, false⟩ 3 1 2), ([0x29CC5020#32], .div ⟨0, false⟩ 5 6 7),
    ([0x31CC5020#32], .divn ⟨0, false⟩ 5 6 7), ([0x39CC5020#32], .rem ⟨0, false⟩ 5 6 7), ([0x41CC5020#32], .remn ⟨0, false⟩ 5 6 7),
    ([0x48823020#32], .and ⟨0, false⟩ 3 1 2), ([0x50823020#32], .andn ⟨0, false⟩ 3 1 2), ([0x5E718020#32], .or ⟨0, false⟩ 24 24 25),
    ([0x60823020#32], .xor ⟨0, false⟩ 3 1 2), ([0x69062020#32], .shl ⟨0, false⟩ 2 3 4), ([0x77EAA03C#32], .shr ⟨7, false⟩ 10 21 31),
    ([0x7FEAA03C#32], .sha ⟨7, false⟩ 10 21 31), ([0x81062020#32], .rot ⟨0, false⟩ 2 3 4), ([0x88823020#32], .min ⟨0, false⟩ 3 1 2),
    ([0x90823020#32], .minn ⟨0, false⟩ 3 1 2), ([0x98823020#32], .max ⟨0, false⟩ 3 1 2), ([0xA0823020#32], .maxn ⟨0, false⟩ 3 1 2),
    ([0xA8024020#32], .cmpeq ⟨0, false⟩ 4 1 0), ([0xB0025020#32], .cmpne ⟨0, false⟩ 5 1 0),
    ([0xB8C46020#32], .cmplt ⟨0, false⟩ 6 2 3), ([0xC7EAA03C#32], .cmpltn ⟨7, false⟩ 10 21 31),
    ([0xCFEAA03C#32], .cmple ⟨7, false⟩ 10 21 31), ([0xD7EAA03C#32], .cmplen ⟨7, false⟩ 10 21 31),
    ([0xDADAC020#32], .sel ⟨0, false⟩ 12 13 11)] = true := by decide +kernel

/-- Worked encodings of R338, R339, R359, R407, R414, R422 and R454; ANDI of an L stream. -/
theorem test_decode_unary_immediate : allRead [
    ([0x00083040#32], .clz ⟨0, false⟩ 3 4), ([0x08083040#32], .ctz ⟨0, false⟩ 3 4), ([0x10083040#32], .popc ⟨0, false⟩ 3 4),
    ([0x18483040#32], .sext ⟨0, false⟩ 3 4 1), ([0x20883040#32], .zext ⟨0, false⟩ 3 4 2), ([0x01401068#32], .addi ⟨2, false⟩ 1 0 5),
    ([0xFFC01060#32], .addi ⟨0, false⟩ 1 0 0x3FF), ([0x0FC62080#32], .andi ⟨0, false⟩ 2 3 63),
    ([0x010420A0#32], .ori ⟨0, false⟩ 2 2 4), ([0xFFF180C0#32], .xori ⟨0, false⟩ 24 24 0x3FF),
    ([0x030230E0#32], .shli ⟨0, false⟩ 3 1 12), ([0x05D4B104#32], .shri ⟨1, false⟩ 11 10 23),
    ([0x00CA5120#32], .shai ⟨0, false⟩ 5 5 3)] = true := by decide +kernel

/-- Worked encodings of R341 and R389, and the other atomics by FN [29:27] of Table 10.4. -/
theorem test_decode_scalar_memory : allRead [
    ([0x2FC44160#32], .ld ⟨0, false⟩ 4 2 31 5), ([0x378C7160#32], .ld ⟨0, false⟩ 7 6 30 6),
    ([0x37C86180#32], .st ⟨0, false⟩ 6 4 31 6), ([0x0FE30180#32], .st ⟨0, false⟩ 16 17 31 1),
    ([0x07CC51A0#32], .atadd ⟨0, false⟩ 5 6 31), ([0x375481A0#32], .atcas ⟨0, false⟩ 8 10 29),
    ([0x0F9311A0#32], .atmin ⟨0, false⟩ 17 9 30), ([0x179311A0#32], .atmax ⟨0, false⟩ 17 9 30),
    ([0x1F9311A0#32], .atand ⟨0, false⟩ 17 9 30), ([0x279311A0#32], .ator ⟨0, false⟩ 17 9 30),
    ([0x2F9311A0#32], .atxch ⟨0, false⟩ 17 9 30)] = true := by decide +kernel

/-- Worked encodings of R343, R354, R357, R386, R387, R391 and R413. -/
theorem test_decode_control_flow : allRead [
    ([0xFFFA0200#32], .b ⟨0, false⟩ 0x7FFD), ([0x000C4220#32], .bz ⟨0, false⟩ 4 6), ([0xFFFC2240#32], .bnz ⟨0, false⟩ 2 0x7FFE),
    ([0x00500260#32], .call ⟨0, false⟩ 0 40), ([0x00009260#32], .call ⟨0, false⟩ 9 0), ([0x00000280#32], .ret ⟨0, false⟩),
    ([0x001412A0#32], .prepLabel ⟨0, false⟩ 1 10), ([0x001322A0#32], .prepRegister ⟨0, false⟩ 2 9),
    ([0x000202C0#32], .jp ⟨0, false⟩ 1), ([0x000812E0#32], .loop ⟨0, false⟩ 1 4), ([0x00440300#32], .boput ⟨0, false⟩ 2 1),
    ([0xFFF80320#32], .boget ⟨0, false⟩ 0x7FFC)] = true := by decide +kernel

/-- Worked encodings of R212, R216, R356, R381, R382, R385, R404, R411, R420, R423, R424, R427 and R430. -/
theorem test_decode_stream_words : allRead [
    ([0x007A0400#32], .idle ⟨0, false⟩ 61), ([0x00000420#32], .realign ⟨0, false⟩), ([0x00005440#32], .stamp ⟨0, false⟩ 5 0),
    ([0x00026440#32], .stamp ⟨0, false⟩ 6 1), ([0x00240460#32], .tkput ⟨0, false⟩ 2 1), ([0x002C0480#32], .tkget ⟨0, false⟩ 6 1),
    ([0x000204A0#32], .mark ⟨0, false⟩ 1), ([0x002404C0#32], .fence ⟨0, false⟩ 4 2), ([0x001C04C0#32], .fence ⟨0, false⟩ 3 2),
    ([0x000034E0#32], .evpop ⟨0, false⟩ 3), ([0x00000500#32], .evwait ⟨0, false⟩), ([0x001C0520#32], .sput ⟨0, false⟩ 14),
    ([0x0000A540#32], .sget ⟨0, false⟩ 10), ([0x000006A0#32], .segend ⟨0, false⟩ 0), ([0x000806A0#32], .segend ⟨0, false⟩ 4),
    ([0x000A06E0#32], .trap ⟨0, false⟩ 5), ([0x00000740#32], .halt ⟨0, false⟩), ([0x00000760#32], .nop ⟨0, false⟩),
    ([0x000E0780#32], .brk ⟨0, false⟩ 7)] = true := by decide +kernel

/-- Worked encodings of R346, R348, R352, R358, R375, R383, R384, R403 and R410. -/
theorem test_decode_unit_words : allRead [
    ([0x00160560#32], .bbinit ⟨0, false⟩ 11), ([0x00160580#32], .bbwait ⟨0, false⟩ 11), ([0x001635A0#32], .bbtest ⟨0, false⟩ 3 11),
    ([0x00160161#32, 0x00000080#32], .bbexp ⟨0, false⟩ 11 128), ([0x000205C0#32], .binrst ⟨0, false⟩ 1),
    ([0x002455E0#32], .binfill ⟨0, false⟩ 5 2 1), ([0x00000600#32], .binpass ⟨0, false⟩ 0), ([0x00000620#32], .binend ⟨0, false⟩ 0),
    ([0x00002081#32, 0x00000010#32], .bindef ⟨0, false⟩ 2 16), ([0x00060640#32], .hinv ⟨0, false⟩ 3),
    ([0x00025660#32], .hqry ⟨0, false⟩ 5 1), ([0x000A0680#32], .phend ⟨0, false⟩ 5), ([0x000256C0#32], .cask ⟨0, false⟩ 5 1),
    ([0x00201700#32], .crd ⟨0, false⟩ 1 0x010), ([0x004A4720#32], .cwr ⟨0, false⟩ 4 0x025),
    ([0x000047A0#32], .nslice ⟨0, false⟩ 4 0 0), ([0x006A57A0#32], .nslice ⟨0, false⟩ 5 5 6)] = true := by decide +kernel

/-- Worked encodings of R365, R390, R401, R409, R418 and R453, and the other words of the 64-bit class by R263 and Table 18.9. -/
theorem test_decode_long_scalar : allRead [
    ([0x00005021#32, 0x12345678#32], .li ⟨0, false⟩ 5 0x12345678), ([0x00021041#32, 0x00006000#32], .lih ⟨0, false⟩ 1 1 0x6000),
    ([0x00041061#32, 0], .xlate ⟨0, false⟩ 1 2 0), ([0x000050A1#32, 0], .phase ⟨0, false⟩ 5 0 0),
    ([0x000010A1#32, 0x00000040#32], .phase ⟨0, false⟩ 1 0 0x40), ([0x000000C1#32, 0x00000080#32], .nest ⟨0, false⟩ 0 0x80),
    ([0x000E0101#32, 0x00000300#32], .rowg ⟨0, false⟩ 7 0x300), ([0x000E0121#32, 0x00000100#32], .rows ⟨0, false⟩ 7 0x100),
    ([0x000E0141#32, 0x00000200#32], .rowsa ⟨0, false⟩ 7 0x200),
    ([0x400E00E1#32, 0x00001000#32], .collAllred ⟨0, false⟩ 7 1 0 0 4096),
    ([0x245200E1#32, 0xFFFFFFFF#32], .collReduce ⟨0, false⟩ 9 0 1 2 0xFFFFFFFF),
    ([0x409200E1#32, 0x0000004D#32], .collBcast ⟨0, false⟩ 9 1 77), ([0x40D200E1#32, 0x0000004D#32], .collGather ⟨0, false⟩ 9 1 77),
    ([0x411200E1#32, 0x0000004D#32], .collA2a ⟨0, false⟩ 9 1 77), ([0x415200E1#32, 0x0000004D#32], .collCombine ⟨0, false⟩ 9 1 77),
    ([0x419200E1#32, 0x0000004D#32], .collSync ⟨0, false⟩ 9 1 77)] = true := by decide +kernel

/-- Worked encodings of R371, R405, R415, R441 and R451. -/
theorem test_decode_transfer : allRead [
    ([0x00C00802#32, 0x00000C00#32, 0], .vld ⟨0, 0, 0, 3, 0, 0xC00, 0, 0⟩),
    ([0x00C01822#32, 0x00001000#32, 0], .vst ⟨0, 1, 0, 3, 0, 0x1000, 0, 0⟩),
    ([0x30C20842#32, 0x28402200#32, 0x01005200#32], .copy ⟨0, 0, 1, 3, 6, 0x2200, 0x142, 0x01005200⟩),
    ([0x394C0842#32, 0x90001600#32, 0x00000006#32], .copy ⟨0, 0, 6, 5, 7, 0x1600, 0x480, 6⟩),
    ([0x00C40842#32, 0x38000100#32, 0x00002014#32], .copy ⟨0, 0, 2, 3, 0, 0x100, 0x1C0, 0x2014⟩),
    ([0x01000862#32, 0, 0], .obld ⟨0, 0, 0, 4, 0, 0, 0, 0⟩),
    ([0x00C00882#32, 0x08000000#32, 0x00000002#32], .route ⟨0, 0, 0, 3, 0, 0, 0x40, 2⟩),
    ([0x01000882#32, 0, 0x00000002#32], .route ⟨0, 0, 0, 4, 0, 0, 0, 2⟩)] = true := by decide +kernel

/-- Table 7.3 and the worked encodings of R396 to R398. -/
theorem test_decode_matrix : allRead [
    ([0x04402023#32, 0, 0, 0, 0x0000A000#32, 0x000000A0#32], .mma ⟨0, 2, 0, 0, 1, 4, 0, 0, 0, 0, 0xA000, 160, 0⟩),
    ([0x02001043#32, 0, 0, 0, 0xFFFFFFFF#32, 0x00000090#32], .mmap ⟨0, 1, 0, 0, 0, 2, 0, 0, 0, 0, 0xFFFFFFFF, 144, 0⟩),
    ([0x00000063#32, 0x00000005#32, 0, 0, 0xFFFFFFFF#32, 0x00000050#32], .mret ⟨0, 0, 0, 0, 0, 0, 0, 5, 0, 0, 0xFFFFFFFF, 80, 0⟩),
    ([0x00003083#32, 0, 0x00000800#32, 0, 0xFFFFFFFF#32, 0x00000018#32], .mdrain ⟨0, 3, 0, 0, 0, 0, 0, 0, 0x800, 0, 0xFFFFFFFF, 24, 0⟩)] = true := by decide +kernel

/-- Table 10.13, the worked encodings of R434, and the other words of opcodes 0x01 to 0x10 by Table 10.5. -/
theorem test_decode_vector_float : allRead [
    ([0x20043022#32, 0, 0], .vadd ⟨0, 3, 1, 32, 0, 0, 0, 0, 0, 0, 0, 0, 0, 0, 0⟩),
    ([0x06841046#32, 0x0068E841#32, 0x00001001#32], .vsub ⟨1, 1, 33, 6, 1, 1, 4, 6, 1, 1, 1, 1, 0, 0x1001, 0⟩),
    ([0x0104206E#32, 0, 0], .vmul ⟨3, 2, 1, 1, 0, 0, 0, 0, 0, 0, 0, 0, 0, 0, 0⟩),
    ([0x25044082#32, 0x00900044#32, 0x40000000#32], .vfma ⟨0, 4, 1, 37, 4, 1, 0, 0, 0, 2, 0, 2, 0, 0x40000000, 0⟩),
    ([0x098440B2#32, 0x01022104#32, 0x00001004#32], .vfms ⟨4, 4, 33, 9, 4, 4, 0, 2, 4, 0, 0, 4, 0, 0x1004, 0⟩),
    ([0x0A8450D6#32, 0x016AB345#32, 0x00001005#32], .vfnma ⟨5, 5, 33, 10, 5, 5, 1, 3, 5, 1, 1, 5, 0, 0x1005, 0⟩),
    ([0x0B8460FA#32, 0x01934586#32, 0x00001006#32], .vmin ⟨6, 6, 33, 11, 6, 6, 2, 4, 6, 2, 0, 6, 0, 0x1006, 0⟩),
    ([0x0C84711E#32, 0x01FBD607#32, 0x00001007#32], .vmax ⟨7, 7, 33, 12, 7, 0, 3, 5, 7, 3, 1, 7, 0, 0x1007, 0⟩),
    ([0x001C812E#32, 0, 0], .vabs ⟨3, 8, 7, 0, 0, 0, 0, 0, 0, 0, 0, 0, 0, 0, 0⟩),
    ([0x0E849146#32, 0x006C8A89#32, 0x00001009#32], .vneg ⟨1, 9, 33, 14, 9, 2, 5, 0, 9, 1, 1, 1, 0, 0x1009, 0⟩),
    ([0x0F84A16A#32, 0x00951CCA#32, 0x0000100A#32], .vrcp ⟨2, 10, 33, 15, 10, 3, 6, 1, 10, 2, 0, 2, 0, 0x100a, 0⟩),
    ([0x1084B18E#32, 0x00FDA10B#32, 0x0000100B#32], .vrsq ⟨3, 11, 33, 16, 11, 4, 0, 2, 11, 3, 1, 3, 0, 0x100b, 0⟩),
    ([0x1184C1B2#32, 0x0106334C#32, 0x0000100C#32], .vsqrt ⟨4, 12, 33, 17, 12, 5, 1, 3, 12, 0, 0, 4, 0, 0x100c, 0⟩),
    ([0x1284D1D6#32, 0x016EC58D#32, 0x0000100D#32], .vdiv ⟨5, 13, 33, 18, 13, 6, 2, 4, 13, 1, 1, 5, 0, 0x100d, 0⟩),
    ([0x1384E1FA#32, 0x0197560E#32, 0x0000100E#32], .vexp2 ⟨6, 14, 33, 19, 14, 0, 3, 5, 14, 2, 0, 6, 0, 0x100e, 0⟩),
    ([0x1484F21E#32, 0x01F8684F#32, 0x0000100F#32], .vlog2 ⟨7, 15, 33, 20, 15, 1, 4, 6, 0, 3, 1, 7, 0, 0x100f, 0⟩)] = true := by decide +kernel

/-- Worked encodings of R326, R435 and R439, and the other words of opcodes 0x11 to 0x20 by Table 10.5. -/
theorem test_decode_vector_integer : allRead [
    ([0x0A262226#32, 0x00048000#32, 0], .viadd ⟨1, 34, 9, 10, 0, 0, 0, 0, 9, 0, 0, 0, 0, 0, 0⟩),
    ([0x16851246#32, 0x00691CD1#32, 0x00001011#32], .visub ⟨1, 17, 33, 22, 17, 3, 6, 1, 2, 1, 1, 1, 0, 0x1011, 0⟩),
    ([0x1785226A#32, 0x0091A112#32, 0x00001012#32], .vimul ⟨2, 18, 33, 23, 18, 4, 0, 2, 3, 2, 0, 2, 0, 0x1012, 0⟩),
    ([0x1885328E#32, 0x00FA3353#32, 0x00001013#32], .vimulh ⟨3, 19, 33, 24, 19, 5, 1, 3, 4, 3, 1, 3, 0, 0x1013, 0⟩),
    ([0x058542B2#32, 0x0102C594#32, 0x00001014#32], .vimac ⟨4, 20, 33, 5, 20, 6, 2, 4, 5, 0, 0, 4, 0, 0x1014, 0⟩),
    ([0x018222C2#32, 0x00068000#32, 0], .vand ⟨0, 34, 32, 1, 0, 0, 0, 0, 13, 0, 0, 0, 0, 0, 0⟩),
    ([0x078562FA#32, 0x0193E856#32, 0x00001016#32], .vor ⟨6, 22, 33, 7, 22, 1, 4, 6, 7, 2, 0, 6, 0, 0x1016, 0⟩),
    ([0x0885731E#32, 0x01FC0A97#32, 0x00001017#32], .vxor ⟨7, 23, 33, 8, 23, 2, 5, 0, 8, 3, 1, 7, 0, 0x1017, 0⟩),
    ([0x09858322#32, 0x00049CD8#32, 0x00001018#32], .vandn ⟨0, 24, 33, 9, 24, 3, 6, 1, 9, 0, 0, 0, 0, 0x1018, 0⟩),
    ([0x0A859346#32, 0x006D2119#32, 0x00001019#32], .vshl ⟨1, 25, 33, 10, 25, 4, 0, 2, 10, 1, 1, 1, 0, 0x1019, 0⟩),
    ([0x0B85A36A#32, 0x0095B35A#32, 0x0000101A#32], .vshr ⟨2, 26, 33, 11, 26, 5, 1, 3, 11, 2, 0, 2, 0, 0x101a, 0⟩),
    ([0x25249382#32, 0x00048000#32, 0x0000001F#32], .vsha ⟨0, 9, 9, 37, 0, 0, 0, 0, 9, 0, 0, 0, 0, 0x1f, 0⟩),
    ([0x0D85C3B2#32, 0x0106D61C#32, 0x0000101C#32], .vimin ⟨4, 28, 33, 13, 28, 0, 3, 5, 13, 0, 0, 4, 0, 0x101c, 0⟩),
    ([0x0E85D3D6#32, 0x016F685D#32, 0x0000101D#32], .vimax ⟨5, 29, 33, 14, 29, 1, 4, 6, 14, 1, 1, 5, 0, 0x101d, 0⟩),
    ([0x0A0423E2#32, 0x04070000#32, 0], .vclmul ⟨0, 2, 1, 10, 0, 0, 0, 0, 14, 0, 0, 0, 2, 0, 0⟩),
    ([0x1085F41E#32, 0x01F89CC0#32, 0x0000101F#32], .vpopc ⟨7, 31, 33, 16, 0, 3, 6, 1, 1, 3, 1, 7, 0, 0x101f, 0⟩)] = true := by decide +kernel

/-- Worked encodings of R429, R431, R436 to R438, R440 and R444 to R450: opcodes 0x21 to 0x33. -/
theorem test_decode_vector_move : allRead [
    ([0x23042422#32, 0x04000000#32, 0], .vcmp ⟨0, 2, 1, 35, 0, 0, 0, 0, 0, 0, 0, 0, 2, 0, 0⟩),
    ([0x02044442#32, 0x00068003#32, 0], .vsel ⟨0, 4, 1, 2, 3, 0, 0, 0, 13, 0, 0, 0, 0, 0, 0⟩),
    ([0x00080462#32, 0x00068000#32, 0x00000001#32], .vmsk ⟨0, 0, 2, 0, 0, 0, 0, 0, 13, 0, 0, 0, 0, 1, 0⟩),
    ([0x0026248E#32, 0x06200000#32, 0], .vcvt ⟨3, 34, 9, 0, 0, 0, 0, 0, 0, 0, 1, 0, 3, 0, 0⟩),
    ([0x001054A2#32, 0x06200000#32, 0], .vqnt ⟨0, 5, 4, 0, 0, 0, 0, 0, 0, 0, 1, 0, 3, 0, 0⟩),
    ([0x261464C2#32, 0x00018000#32, 0], .vpack ⟨0, 6, 5, 38, 0, 0, 0, 0, 3, 0, 0, 0, 0, 0, 0⟩),
    ([0x001874E2#32, 0x00038000#32, 0], .vunpk ⟨0, 7, 6, 0, 0, 0, 0, 0, 7, 0, 0, 0, 0, 0, 0⟩),
    ([0x0022450E#32, 0x04000000#32, 0], .vred ⟨3, 36, 8, 0, 0, 0, 0, 0, 0, 0, 0, 0, 2, 0, 0⟩),
    ([0x02043522#32, 0x00068000#32, 0], .vperm ⟨0, 3, 1, 2, 0, 0, 0, 0, 13, 0, 0, 0, 0, 0, 0⟩),
    ([0x02043542#32, 0x00068000#32, 0], .vshuf ⟨0, 3, 1, 2, 0, 0, 0, 0, 13, 0, 0, 0, 0, 0, 0⟩),
    ([0x00042562#32, 0x00068000#32, 0x00000005#32], .vbcast ⟨0, 2, 1, 0, 0, 0, 0, 0, 13, 0, 0, 0, 0, 5, 0⟩),
    ([0x26043582#32, 0x00068000#32, 0x00000001#32], .vslide ⟨0, 3, 1, 38, 0, 0, 0, 0, 13, 0, 0, 0, 0, 1, 0⟩),
    ([0x000015A2#32, 0x00048000#32, 0], .viota ⟨0, 1, 0, 0, 0, 0, 0, 0, 9, 0, 0, 0, 0, 0, 0⟩),
    ([0x000645C2#32, 0x00068000#32, 0], .vmov ⟨0, 36, 1, 0, 0, 0, 0, 0, 13, 0, 0, 0, 0, 0, 0⟩),
    ([0x070825E2#32, 0x00068000#32, 0x00000500#32], .vxs ⟨0, 2, 2, 7, 0, 0, 0, 0, 13, 0, 0, 0, 0, 0x500, 0⟩),
    ([0x00005602#32, 0, 0x00000207#32], .trd ⟨0, 5, 0, 0, 0, 0, 0, 0, 0, 0, 0, 0, 0, 0x207, 0⟩),
    ([0x00100622#32, 0, 0x00000103#32], .twr ⟨0, 0, 4, 0, 0, 0, 0, 0, 0, 0, 0, 0, 0, 0x103, 0⟩),
    ([0x00000642#32, 0, 0x00000600#32], .tzero ⟨0, 0, 0, 0, 0, 0, 0, 0, 0, 0, 0, 0, 0, 0x600, 0⟩),
    ([0x00022662#32, 0x1E000000#32, 0x0000003F#32], .topkc ⟨0, 34, 0, 0, 0, 0, 0, 0, 0, 0, 0, 0, 15, 0x3f, 0⟩)] = true := by decide +kernel

/-- The worked encodings of R192 and R408. -/
theorem test_decode_pattern : ([
    (0x00438020#32, .pdim 0 7 8 0), (0x04019040#32, .pband 1 3 1), (0x00040040#32, .pband 0 8 0), (0x04000060#32, .pdil 0 0 1),
    (0x00083080#32, .pblk 3 16), (0x000420A0#32, .pkron 2 0 1), (0x0C0210C0#32, .phash 1 4 3), (0x000400E0#32, .pemit 0 8),
    (0x00000100#32, .pinv 0), (0x00000120#32, .pend 0)] :
    List (Word32 × Instr)).all (fun e => match decodePattern e.1 with | .ok j => decide (j = e.2) | .error _ => false) = true := by
  decide +kernel

/-- The channel words worked in "Scheduled DRAM and Channel Programs" and "Program: Routed Expert", and the other forms by Tables
5.2 and 5.3. -/
theorem test_decode_channel : ([
    (0x0000012001414021#64, .dact 20 5 0x120), (0x400001200140C061#64, .drd 12 5 0x120 0 0 2),
    (0xE000010800001061#64, .drd 1 0 0x108 0 0 7), (0xFFFFBFFF03FFF081#64, .dwr 1023 15 0xBFFF 15 511 7),
    (0x0000000002403041#64, .dpre 3 9), (0x0000000004003041#64, .dpreAll 3), (0x00000000000040A1#64, .dref 4),
    (0x00000000058040A1#64, .drefPb 4 6), (0x00000000000050C1#64, .dnop 5), (0x00000000040050C1#64, .dnopEnd 5),
    (0x20000000000280E1#64, .dind 40 1), (0x0007FFFF00000101#64, .dloop 7 65535)] :
    List (Word64 × Instr)).all (fun e => match decodeChannel e.1 with | .ok j => decide (j = e.2) | .error _ => false) = true := by
  decide +kernel
/-! ### Witnesses: scalar words -/

theorem witness_scalarBinaryResults :
    (FieldsOk sC [31, 31, 31] ∧ NoHazard (tHaz sC) [destHere sC 31, destHere sC 31] [(destHere sC 31, 1)]) ∧
    (FieldsOk sL [15, 1, 15] ∧ NoHazard sL [destHere sL 1, destHere sL 15] [(destHere sL 15, 1)]) ∧ FieldsOk sS [15, 15, 15] := by
  simp only [FieldsOk, NoHazard]; decide +kernel

theorem witness_scalarMulDivResults :
    FieldsOk sC [31, 1, 12] ∧ NoHazard (tHaz sC) [destHere sC 1, destHere sC 12] [(destHere sC 31, 3)] ∧
    NoHazard (tHaz sC) [destHere sC 1, destHere sC 12] [(destHere sC 31, 24)] ∧ (regHere sC 12).val = 0 := by
  simp only [FieldsOk, NoHazard]; decide +kernel

theorem witness_scalarUnaryResults :
    (FieldsOk sL [15, 15] ∧ NoHazard sL [destHere sL 15] [(destHere sL 15, 1)] ∧ (2#5).toNat ≤ 2) ∧
    (FieldsOk sC [3, 1, 2] ∧ NoHazard sC [destHere sC 3, destHere sC 1, destHere sC 2] [(destHere sC 3, 1)]) ∧
    sC.turn.q = .c ∧ NoHazard sC [] [(destHere sC 3, 1)] ∧ NoHazard sC [destHere sC 1] [(destHere sC 3, 1)] := by
  simp only [FieldsOk, NoHazard]; decide +kernel

theorem witness_plainWordsFrame :
    (PlainWord (.div tHdr 3 1 12) ∧ ∃ t, exec (.div tHdr 3 1 12) sC = .next t) ∧
    (PlainWord (.loop tHdr 1 4) ∧ ∃ t, exec (.loop tHdr 1 4) sC = .next t) ∧
    PlainWord (.bz tHdr 7 4) ∧ ∃ t, exec (.bz tHdr 7 4) sC = .next t :=
  ⟨⟨by simp [PlainWord], _, rfl⟩, ⟨by simp [PlainWord], _, rfl⟩, by simp [PlainWord], _, rfl⟩

theorem witness_issueChecksTrap :
    (RunsClean sX 0 ∧ sX.turn.q = .x) ∧ (RunsClean sL 0 ∧ sL.turn.q ≠ .c) ∧ RunsClean sC 0 ∧ sC.turn.q = .c :=
  ⟨⟨runsClean_tState _ _ rfl rfl, rfl⟩, ⟨runsClean_tState _ _ rfl rfl, by decide⟩, runsClean_tState _ _ rfl rfl, rfl⟩

theorem witness_issueChecksTrap_static :
    RunsClean sC 0 ∧ FieldsOk sC [7] ∧ NoHazard sC [destHere sC 7] [] ∧ NoHazard sC [destHere sC 7] [(.jt sC.turn.q (3#2).toNat, 1)] ∧
    (regHere sC 7).static = false ∧ 0 < (1#15).toInt :=
  ⟨runsClean_tState _ _ rfl rfl, by simp only [FieldsOk, NoHazard]; decide +kernel⟩

/-- A vector word with a source, a destination, a TYPE and an FN7. -/
def tVec (dst sa : BitVec 6) (ty : BitVec 4) (fn : BitVec 7) : VecWord := ⟨0, dst, sa, 2, 0, 0, 0, 0, ty, 0, 0, 0, fn, 0, 0⟩

theorem witness_issueChecksTrap_vector :
    (RunsClean sX 0 ∧ sX.turn.q = .x) ∧ (tVec 3 1 15 0).ty = 15 ∧ 39 ≤ (tVec 3 39 0 0).sa.toNat ∧ 39 ≤ (tVec 3 63 0 0).sa.toNat ∧
    (tVec 32 1 0 0).dst = 32 ∧ (tVec 3 1 0 0).ty = 0 ∧ 8 ≤ (tVec 3 1 0 8).fn.toNat :=
  ⟨⟨runsClean_tState _ _ rfl rfl, rfl⟩, by decide⟩

/-- C with three loop levels open. -/
def tLoops : State := tState .c fun c => { c with c := { c.c with loops := List.replicate 3 ⟨9, 12, 2⟩ } }

theorem witness_controlFlowCompletes :
    (sS.turn.q ≠ .x ∧ NoHazard sS [] [] ∧ NoHazard sS [.jt sS.turn.q 3] [] ∧ NoHazard sS [] [(.jt sS.turn.q 3, 1)]) ∧
    (FieldsOk sL [15] ∧ NoHazard sL [destHere sL 15] [] ∧ (regHere sL 15).static = true ∧
      NoHazard sL [destHere sL 15] [(.jt sL.turn.q 0, 1)]) ∧
    (sC.turn.q = .c ∧ NoHazard sC [destHere sC 0] [(.reg .c 31, 1)] ∧ (regHere sC 0).static = true) ∧
    (NoHazard sC [.reg .c 31] [] ∧ (regHere sC 31).static = true) ∧
    (0 < (0x3FFF#15).toInt ∧ (regHere sL 12).val.toNat % 2 ^ 32 = 0 ∧ FieldsOk sL [12]) ∧
    FieldsOk tLoops [14] ∧ NoHazard tLoops [destHere tLoops 14] [] ∧ (regHere tLoops 14).static = true ∧
    (regHere tLoops 14).val.toNat % 2 ^ 32 ≠ 0 ∧ (turnStream tLoops).loops.length < 4 := by
  simp only [FieldsOk, NoHazard]; decide +kernel

/-- A core with fifteen outcomes for X and one for S. -/
def tBoq (q : Seq) : State := tState q fun c => { c with boqX := tQueue 15 true, boqS := tQueue 1 false }

theorem witness_branchOutcomesComplete :
    ((tBoq .c).turn.q = .c ∧ (1#2) ≠ 3 ∧ NoHazard (tBoq .c) [destHere (tBoq .c) 1] [] ∧ (regHere (tBoq .c) 1).static = true ∧
      roomFor (boqOf (turnCore (tBoq .c)) (boqSeq 1)) 16 1 (tBoq .c).cyc = true) ∧
    (tBoq .s).turn.q ≠ .c ∧ NoHazard (tBoq .s) [] [] ∧ headOf (boqOf (turnCore (tBoq .s)) .s) (tBoq .s).cyc = some false ∧
    headOf (boqOf (turnCore (tBoq .x)) .x) 100 = some true := by
  simp only [NoHazard]; decide +kernel

theorem witness_streamWordsComplete :
    NoHazard sC [] [] ∧ (FieldsOk sC [3] ∧ NoHazard sC [] [(destHere sC 3, 1)]) ∧ (sS.turn.q ≠ .x ∧ (turnCore sS).launch = some 0) ∧
    (∃ l r, runningOn (tState .x fun c => { c with brks := 15 }) 0 = some (0, l, r)) ∧
    (turnCore (tState .x fun c => { c with brks := 15 })).brks < 16 :=
  ⟨by simp only [NoHazard]; decide +kernel, by simp only [FieldsOk, NoHazard]; decide +kernel, by decide +kernel, ⟨_, _, rfl⟩, by decide +kernel⟩

/-- X with fifteen tokens from C, S with one from X, and a MARK of L that S has not paired. -/
def tTok (q : Seq) : State := tState q fun c => { c with tokens := [(1, ⟨15, 15, 0, 99, 1, 0, 0⟩), (8, ⟨1, 1, 0, 99, 1, 0, 0⟩)], markL := [(90, 7)] }

theorem witness_tokenWordsComplete :
    (NoHazard (tTok .c) [] [] ∧ (0#4).toNat < 12 ∧ (15#4) ≠ 0 ∧ (tTok .c).turn.q = tokenFrom 0 ∧
      tokensRoom (getToken (turnCore (tTok .c)) 0) 15 100 = true) ∧
    ((tTok .s).turn.q = tokenFrom 11 ∧ tokensRoom (getToken (turnCore (tTok .s)) 11) 1 100 = true) ∧
    ((tTok .x).turn.q = tokenTo 1 ∧ 15 ≤ tokensReady (getToken (turnCore (tTok .x)) 1) 100 ∧ tokenHazard (tTok .x) 1 15 = false) ∧
    (tTok .s).turn.q = tokenTo 8 ∧ 1 ≤ tokensReady (getToken (turnCore (tTok .s)) 8) 100 ∧ tokenHazard (tTok .s) 8 1 = false := by
  simp only [NoHazard]; decide +kernel

theorem witness_orderingWordsComplete :
    (NoHazard (tTok .s) [] [] ∧ (tTok .s).turn.q = .s ∧
      (marksOf (turnCore (tTok .s)) (markPartner .s))[(marksOf (turnCore (tTok .s)) .s).length]? = some (90, 7)) ∧
    sC.turn.q ≠ .x ∧ ((2#2) ≠ 1 ∧ 3 ≤ (3#3).toNat) ∧ ¬((1#2) ≠ 1 ∧ 3 ≤ (7#3).toNat) ∧ ¬((0#2) ≠ 1 ∧ 3 ≤ (2#3).toNat) := by
  simp only [NoHazard]; decide +kernel

/-! ### Witnesses: traps, loads and stores -/

/-- The trap of a TRAP word on core 0. -/
def tTrap (cause : Nat) : Trap := ⟨cause, 90, 0, 0, false, some 0, 0, 0, [], 5⟩

/-- The segment that such a trap has ended. -/
def tTrapState (x : Trap) : State := tLaunch (fun l => { l with run := some ⟨0, 0, 900, 64512, some x, [], [], [], [], []⟩ }) sC

/-- A trap of an earlier cycle; one of the running cycle by a channel, by a higher index, by a later party; one that stays first. -/
theorem witness_trapWordsTakeTheirTrap :
    (RunsClean sC 0 ∧ sC.turn.q ≠ .x ∧ NoHazard sC [] []) ∧
    (∃ r, (getLaunch (tTrapState (tTrap 0x80)) 0).run = some r ∧ r.trap = some (tTrap 0x80)) ∧ (tTrap 0x80).cyc < sC.cyc ∧
    (let x : Trap := { tTrap 0x80 with cyc := 100, chan := true }
     x.cyc = sC.cyc ∧ (x.chan = true ∨ 7 < x.lidx ∨ 7 = x.lidx ∧ 1 < x.party)) ∧
    (let x : Trap := { tTrap 0x80 with cyc := 100, lidx := 8 }
     x.cyc = sC.cyc ∧ (x.chan = true ∨ 7 < x.lidx ∨ 7 = x.lidx ∧ 1 < x.party)) ∧
    (let x : Trap := { tTrap 0x80 with cyc := 100, lidx := 7, party := 2 }
     x.cyc = sC.cyc ∧ (x.chan = true ∨ 7 < x.lidx ∨ 7 = x.lidx ∧ 1 < x.party)) ∧
    let x : Trap := { tTrap 0x80 with cyc := 100, lidx := 7, party := 1 }
    x.cyc = sC.cyc ∧ ¬(x.chan = true ∨ 7 < x.lidx ∨ 7 = x.lidx ∧ 1 < x.party) :=
  ⟨⟨runsClean_tState _ _ rfl rfl, by simp only [NoHazard]; decide +kernel⟩, ⟨_, rfl, rfl⟩, by decide +kernel⟩

theorem witness_loadsComplete :
    (sC.turn.q = .c ∧ (6#3) ≠ 7) ∧
    (NoHazard sC [destHere sC 4] [(destHere sC 3, 6)] ∧ (regHere sC 4).val.toNat < 2 ^ 21 ∧
      phaseOk (turnCore sC) 5 100 true false 0x1FFFF8 8 = true) ∧
    ((regHere sC 4).val.toNat < 2 ^ 30 ∧ (regHere sC 4).val.toNat / 2 ^ 21 = (turnCore sC).lidx ∧
      (turnCore sC).lidx < lcountOf sC 0 ∧ phaseOk (turnCore sC) 5 100 true false (0x1FFFF8 % 2 ^ 21) 8 = true) ∧
    NoHazard sC [destHere sC 6] [(destHere sC 3, 3)] ∧ (regHere sC 6).val.toNat < 2 ^ 16 := by
  simp only [NoHazard]; decide +kernel

theorem witness_storesComplete :
    (sC.turn.q = .c ∧ (6#3) ≠ 7 ∧ NoHazard sC [destHere sC 4, destHere sC 1] []) ∧
    ((regHere sC 4).val.toNat < 2 ^ 21 ∧ phaseOk (turnCore sC) 5 100 false true 0x1FFFF8 8 = true) ∧
    ((regHere sC 4).val.toNat < 2 ^ 30 ∧ (regHere sC 4).val.toNat / 2 ^ 21 = (turnCore sC).lidx ∧ (turnCore sC).lidx < lcountOf sC 0 ∧
      phaseOk (turnCore sC) 5 100 false true (0x1FFFF8 % 2 ^ 21) 8 = true) ∧
    NoHazard sC [destHere sC 6, destHere sC 1] [] ∧ (regHere sC 6).val.toNat < 2 ^ 16 := by
  simp only [NoHazard]; decide +kernel

/-- C with a write of the cycle on its scratchpad that not every party sees yet. -/
def tRecent : State := tState .c fun c => { c with recent := [⟨100, 0, 0, .seq .l, 0x1004, [1, 2, 3, 4], 0, 0, []⟩] }

theorem witness_storeFrame :
    (tRecent.turn.q = .c ∧ (6#3) ≠ 7 ∧ NoHazard tRecent [destHere tRecent 2, destHere tRecent 1] [] ∧
      (regHere tRecent 2).val.toNat < 2 ^ 21 ∧ phaseOk (turnCore tRecent) 5 tRecent.cyc false true 0x1000 8 = true ∧
      (∀ w ∈ (turnCore tRecent).recent, w.cyc ≤ tRecent.cyc) ∧
      (∀ w ∈ (turnCore tRecent).recent, w.cyc = tRecent.cyc → w.lidx ≤ (turnCore tRecent).lidx)) ∧
    ∃ t, exec (.st tHdr 1 2 31 6) tRecent = .next t :=
  ⟨by simp only [NoHazard]; decide +kernel, _, rfl⟩

theorem witness_atomicsComplete :
    (sC.turn.q = .c ∧ NoHazard sC [destHere sC 4, destHere sC 1] [(destHere sC 1, 6)] ∧ (regHere sC 4).val.toNat < 2 ^ 21 ∧
      phaseOk (turnCore sC) 5 sC.cyc true true (0x1FFFF8 % 2 ^ 21) 8 = true) ∧
    ((regHere sC 4).val.toNat < 2 ^ 30 ∧ (regHere sC 4).val.toNat / 2 ^ 21 = (turnCore sC).lidx ∧ (turnCore sC).lidx < lcountOf sC 0) ∧
    (NoHazard sC [destHere sC 6, destHere sC 1] [(destHere sC 1, 3)] ∧ (regHere sC 6).val.toNat < 2 ^ 16) ∧
    (30#5) ≠ 31 ∧ NoHazard sC [destHere sC 4, destHere sC 30, .reg .c ((30#5).toNat + 1)] [(destHere sC 30, 6)] := by
  simp only [NoHazard]; decide +kernel

/-- A launch of three cores, one of them on another die. -/
def tThree (q : Seq) : State :=
  let s := tState q id
  { tLaunch (fun l => { l with lcount := 3, cores := [0, 1, 200], squares := [(0, [0, 1, 2])] }) s with
    cores := [(0, tCore), (1, { tCore with lidx := 1 }), (200, { tCore with lidx := 2 })] }

theorem witness_dieAccessesAreSent :
    ((tThree .c).turn.q = .c ∧ (6#3) ≠ 7 ∧ (regHere (tThree .c) 15).val.toNat < 2 ^ 30 ∧
      (regHere (tThree .c) 15).val.toNat / 2 ^ 21 < lcountOf (tThree .c) 0 ∧
      (regHere (tThree .c) 15).val.toNat / 2 ^ 21 ≠ (turnCore (tThree .c)).lidx ∧ physOf (tThree .c) 0 1 ≠ 0) ∧
    NoHazard (tHaz (tThree .c)) [destHere (tThree .c) 15] [(destHere (tThree .c) 3, 72)] ∧
    NoHazard (tHaz (tThree .c)) [destHere (tThree .c) 15, destHere (tThree .c) 3] [(destHere (tThree .c) 3, 200)] ∧
    ((30#5) ≠ 31 ∧ NoHazard (tHaz (tThree .c)) [destHere (tThree .c) 15, destHere (tThree .c) 30, .reg .c ((30#5).toNat + 1)]
      [(destHere (tThree .c) 30, 72)]) ∧
    NoHazard (tThree .c) [destHere (tThree .c) 15, destHere (tThree .c) 1] [] ∧ dieOf (physOf (tThree .c) 0 1) = dieOf 0 ∧
    dieOf (physOf (tThree .c) 0 2) ≠ dieOf 0 := by
  simp only [NoHazard]; decide +kernel

/-- C with no class open. -/
def tShut : State := tState .c fun c => { c with phases := [] }

theorem witness_scalarAccessTraps :
    (RunsClean tShut 0 ∧ tShut.turn.q = .c ∧ (0#3) ≠ 7) ∧
    (29 ≤ (29#5).toNat ∧ 29 ≤ (31#5).toNat ∧ (28#5).toNat < 29 ∧ (30#5) ≠ 31) ∧
    (NoHazard tShut [destHere tShut 5] [] ∧ NoHazard tShut [destHere tShut 5] [(destHere tShut 3, 6)] ∧
      NoHazard tShut [destHere tShut 5, destHere tShut 3] [] ∧ NoHazard tShut [destHere tShut 5, destHere tShut 3] [(destHere tShut 3, 6)] ∧
      NoHazard tShut [destHere tShut 5, destHere tShut 30, .reg .c ((30#5).toNat + 1)] [] ∧
      NoHazard tShut [destHere tShut 5, destHere tShut 30, .reg .c ((30#5).toNat + 1)] [(destHere tShut 30, 6)]) ∧
    2 ^ 21 ≤ (regHere tShut 5).val.toNat ∧ 2 ^ 16 ≤ (regHere tShut 13).val.toNat ∧ 2 ^ 30 ≤ (regHere tShut 11).val.toNat ∧
    ((regHere tShut 5).val.toNat < 2 ^ 30 ∧ lcountOf tShut 0 ≤ (regHere tShut 5).val.toNat / 2 ^ 21) ∧
    ((regHere tShut 4).val.toNat < 2 ^ 30 ∧ (regHere tShut 4).val.toNat / 2 ^ 21 = (turnCore tShut).lidx ∧
      (turnCore tShut).lidx < lcountOf tShut 0) ∧
    (regHere tShut 4).val.toNat < 2 ^ 21 ∧ phaseOk (turnCore tShut) 5 tShut.cyc true false (0x1FFFF8 % 2 ^ 21) 1 = false ∧
    phaseOk (turnCore tShut) 5 tShut.cyc false true (0x1FFFF8 % 2 ^ 21) 1 = false ∧
    phaseOk (turnCore tShut) 5 tShut.cyc true true (0x1FFFF8 % 2 ^ 21) 8 = false :=
  ⟨⟨runsClean_tState _ _ rfl rfl, rfl, by decide⟩, by decide, by simp only [NoHazard]; decide +kernel⟩

/-- A barrier word that is DONE at 0x1000. -/
def tBar (q : Seq) : State := tState q fun c => { c with spad := memWrite [] 0x1000 (leBytes 8 0x120000000) }

theorem witness_barrierWordsComplete :
    (2 ^ 21 > (regHere sC 4).val.toNat ∧ FieldsOk sC [4] ∧ NoHazard sC [destHere sC 4] [] ∧
      phaseOk (turnCore sC) 5 100 false true 0x1FFFF8 8 = true) ∧
    (sC.turn.q = .c ∧ (0x7FFFFFF#32).toNat < 2 ^ 27) ∧
    (FieldsOk (tBar .l) [2] ∧ NoHazard (tBar .l) [destHere (tBar .l) 2] [] ∧ phaseOk (turnCore (tBar .l)) 5 100 true false 0x1000 8 = true ∧
      (leNat (spadRead (turnCore (tBar .l)) 0 (.seq .l) 100 0x1000 8)).testBit 29 = true ∧
      (leNat (spadRead (turnCore (tBar .l)) 0 (.seq .l) 100 0x1000 8)).testBit 30 = false) ∧
    FieldsOk (tBar .s) [15, 2] ∧ NoHazard (tBar .s) [destHere (tBar .s) 2] [(destHere (tBar .s) 15, 2)] := by
  simp only [FieldsOk, NoHazard]; decide +kernel

/-- The words and counts are those of the worked barrier of R346, and the largest PEND; an expectation that the arrivals before it meet
exactly, or have passed; arrivals on an armed barrier that leave PEND above zero, at zero and below it; arrivals on a barrier that is not
armed, down to the least PEND and past it. -/
theorem witness_barrierWordsComplete_update :
    (0x17FFFFFF < 2 ^ 64 ∧ 2 ^ 27 - 1 < barPend 0x17FFFFFF + 1) ∧ (0 < barPend 0xFFFFFC0 + 128 ∧ barPend 0xFFFFFC0 + 128 ≤ 2 ^ 27 - 1) ∧
    (barPend 0xFFFFFC0 + 64 = 0 ∧ barPend 0xFFFFFC0 + 63 < 0) ∧
    ((0x10000040).testBit 28 = true ∧ (63 : Int) < barPend 0x10000040 ∧ (64 : Int) = barPend 0x10000040 ∧ barPend 0x10000040 < 65) ∧
    (0x8000001).testBit 28 = false ∧ barPend 0x8000001 - 1 = -(2 ^ 27) ∧ barPend 0x8000001 - 2 < -(2 ^ 27) := by decide +kernel

/-! ### Witnesses: queues, registers, handles, phases -/

/-- C with an event record, a word in xq and fifteen in cq. -/
def tEvents : State := tState .c fun c => { c with
  regs := { c.regs with events := [(99, 0, 5)] }, xq := tQueue 1 77, cq := tQueue 15 1 }

theorem witness_queueAndControlRegisterWordsComplete :
    (sC.turn.q = .c ∧ NoHazard sC [] [(destHere sC 3, 2)] ∧ (turnCore sC).regs.events = []) ∧
    (tEvents.turn.q = .c ∧ NoHazard tEvents [] [(destHere tEvents 3, 2)] ∧ (turnCore tEvents).regs.events = [(99, 0, 5)] ∧
      (99, 0, (5 : Word64)).1 < tEvents.cyc ∧ headOf (turnCore tEvents).xq tEvents.cyc = some 77 ∧ NoHazard tEvents [] [] ∧
      NoHazard tEvents [destHere tEvents 1] [] ∧ roomFor (turnCore tEvents).cq 16 1 tEvents.cyc = true) ∧
    (decide ((0x022#12) = 0x022#12) || decide ((0x022#12) = 0x025#12)) = true ∧
    (decide ((0x000#12) = 0x022#12) || decide ((0x000#12) = 0x025#12)) = false ∧ 15 < 16 := by
  simp only [NoHazard]; decide +kernel

/-- C with the translation of a 4 KiB host page. -/
def tTrans : Trans := ⟨0x1000, 0, 0x5A, 0x400012344, false, false, true⟩
/-- In its cache. -/
def tXlate : State := tState .c fun c => { c with tcache := [tTrans], regs := { c.regs with h := [(2, 0x05A0_0123_4400_03AB)] } }

theorem witness_handleWordsComplete :
    (tXlate.turn.q = .c ∧ NoHazard tXlate [destHere tXlate 2] [] ∧ ((regHere tXlate 2).val + (0xFFF#32).signExtend 64).toNat < 2 ^ 56 ∧
      lookupTrans (turnCore tXlate).tcache ((regHere tXlate 2).val + (0xFFF#32).signExtend 64).toNat = some tTrans ∧
      revokedOn (turnCore tXlate) tTrans.pid = false ∧ tTrans.frame.toNat / 2 ^ 34 ≠ 0 ∧ tTrans.size < 16) ∧
    (let t : Trans := { tTrans with frame := 0x12344 }
     lookupTrans [t] 0x1FFF = some t ∧ t.frame.toNat / 2 ^ 34 = 0 ∧ inCarveOut (getWorld tXlate (turnCore tXlate).world) t = false ∧
       inCarveOut { World.zero with cbase := 0x12344000, csize := 4096 } t = true) ∧
    revokedOn { turnCore tXlate with revoked := [(0x5A, 0)] } tTrans.pid = true ∧
    2 ^ 56 ≤ ((regHere tXlate 14).val + (0#32).signExtend 64).toNat ∧
    lookupTrans (turnCore tXlate).tcache ((regHere tXlate 2).val + (0x1000#32).signExtend 64).toNat = none ∧
    NoHazard tXlate [.h 2] [] ∧ NoHazard tXlate [.h 2] [(destHere tXlate 3, 4)] := by
  simp only [NoHazard]; decide +kernel

/-- The words are a handle of a miss, an empty one, and the handles of Table 17.1 with world 1 (the core's) and world 7. -/
theorem witness_handleUseChecks :
    (hValid 0x4000 = false ∧ hCause 0x4000 = 1) ∧
    (¬(hValid 0x0310000840000753 = true ∧ hWorld 0x0310000840000753 = (getCore sC 0).world ∧ hSpace 0x0310000840000753 ≠ 3) ∧
      ¬(hValid 0x0310000840000753 = false ∧ hCause 0x0310000840000753 = 1)) ∧
    (hValid 0x0310000840000153 = true ∧ hWorld 0x0310000840000153 = (getCore sC 0).world ∧ hSpace 0x0310000840000153 ≠ 3 ∧
      hSize 0x0310000840000153 < 0x4000000 + 1 ∧ 0x3FFFFFF + 1 ≤ hSize 0x0310000840000153 ∧ hSealed 0x0310000840000153 = true ∧
      (getWorld sC (getCore sC 0).world).sealKey = none) ∧
    hValid 0x0300000800000101 = true ∧ hWorld 0x0300000800000101 = (getCore sC 0).world ∧ hSpace 0x0300000800000101 ≠ 3 ∧
    0xFFF + 1 ≤ hSize 0x0300000800000101 ∧ hSealed 0x0300000800000101 = false ∧ hWrite 0x0300000800000101 = false := by
  decide +kernel

/-- Control memory with phase descriptors at 0 and 32, a nest descriptor at 64, and a class 2 set that meets the first one. -/
def tPhase : State := tLaunch (fun l => { l with squares := [(0, [0])] }) <| tState .c fun c => { c with
  phases := [(2, ⟨some [⟨0x80, 64, true, false⟩], 0, none⟩)]
  ctl := memWrite [] 0 ([0x300040000000, 0, 0, 0, 0x100007DFFFC0, 0, 0, 0, 0x500, 0x30007, 0x20001, 0].flatMap (leBytes 8)) }

theorem witness_phaseAndNestWordsComplete_phase :
    (tPhase.turn.q = .c ∧ (6#5).toNat < 7 ∧ NoHazard tPhase [destHere tPhase 0] [] ∧
      ctlDescriptor tPhase 0 0 4 = .ok ([0x300040000000, 0, 0, 0], false) ∧ phaseOpen (turnCore tPhase) 6 = false ∧
      (∀ r ∈ phaseRanges [0x300040000000, 0, 0, 0], r.base + r.len ≤ 2 ^ 21) ∧
      ((openSets (turnCore tPhase) 6).any fun o => o.any fun x => (phaseRanges [0x300040000000, 0, 0, 0]).any (phaseClash x)) = true) ∧
    (ctlDescriptor tPhase 0 32 4 = .ok ([0x100007DFFFC0, 0, 0, 0], false) ∧
      (∀ r ∈ phaseRanges [0x100007DFFFC0, 0, 0, 0], r.base + r.len ≤ 2 ^ 21) ∧
      ((openSets (turnCore tPhase) 0).any fun o => o.any fun x => (phaseRanges [0x100007DFFFC0, 0, 0, 0]).any (phaseClash x)) = false) ∧
    (phaseOpen (turnCore tPhase) 2 = true ∧ classQuiet tPhase 0 2 = true) ∧ (6#3).toNat < 7 ∧ NoHazard tPhase [] [] := by
  simp only [NoHazard]; decide +kernel

theorem witness_phaseAndNestWordsComplete_clean : RunsClean tPhase 0 := ⟨rfl, rfl, _, rfl, rfl⟩

theorem witness_phaseAndNestWordsComplete_nest :
    (ctlDescriptor tPhase 3 0 4 = .ok ([0x500, 0x30007, 0x20001, 0], false) ∧ NoHazard tPhase [destHere tPhase 3] [] ∧
      nestOf [0x500, 0x30007, 0x20001, 0] (sliceOf (smGet [] (launchOf tPhase 0).squares 0) 0) = some ⟨0, 21, 21, [1, 0], [7, 3, 0, 0], [1, 2, 0, 0]⟩) := by
  simp only [NoHazard]; decide +kernel

theorem witness_phaseAndNestWordsComplete_slices :
    (NoHazard tPhase [] [(destHere tPhase 3, 1)] ∧ (3#3).toNat < 4 ∧ 4 ≤ (4#3).toNat ∧ NoHazard tPhase [destHere tPhase 1] [(destHere tPhase 3, 1)]) ∧
    [4, 2, 9].Nodup ∧ 1 + 1 < [4, 2, 9].length := by
  simp only [NoHazard]; decide +kernel

/-! ### Witnesses: bins -/

/-- The definition words b0 to b3 of "Program: Nested Deferral over Three Passes", b0 without carries and final, with fills. -/
def tBin (w : Word64) (fill : Nat) : Bin := ⟨w, fill, 3, 0, 1, false, 15, []⟩

/-- A definition word: BASE, ROWL, CAPACITY, RULE, PARENT, CARRYA, CARRYB, FINAL, LIFT (Table 6.1). -/
def tDef (base rowl cap rule parent ca cb fin lift : Nat) : Word64 :=
  BitVec.ofNat 64 (base + rowl * 2 ^ 21 + cap * 2 ^ 32 + rule * 2 ^ 45 + parent * 2 ^ 47 + ca * 2 ^ 51 + cb * 2 ^ 55 + fin * 2 ^ 59 +
    lift * 2 ^ 60)

/-- Bins: root 0 of the drop rule with a child 3; root 5 of the trap rule, full; root 6 of the drop rule, full; 9 is not defined. -/
def tBins : SMap Bin :=
  [(0, tBin (tDef 0x8000 1 4 0 15 15 15 0 15) 2), (3, tBin (tDef 0xB000 1 2 0 0 15 15 0 15) 1), (5, tBin (tDef 0xD000 1 4 2 15 15 15 1 15) 4),
   (6, tBin (tDef 0xE000 1 1 0 15 15 15 1 15) 1)]

/-- A bin-unit command waiting. -/
def tCmd (op bin n : Nat) (start : Option Nat) : BinCmd := ⟨4, op, 90, .c, bin, 0, n, false, 300, none, start, 100, 0, none, []⟩

/-- A core with those bins and seven commands waiting. -/
def tBinState (q : Seq) : State := tState q fun c => { c with
  regs := { c.regs with bins := tBins, sa := [(4, ⟨0x1FFFF8, true⟩), (8, ⟨128, true⟩)] }, binQ := List.replicate 7 (tCmd 1 0 0 none) }

theorem witness_binWordsComplete :
    ((tBinState .c).turn.q = .c ∧ NoHazard (tBinState .c) [] [] ∧
      ((turnCore (tBinState .c)).binQ.filter fun b => b.start.isNone).length < 8) ∧
    ((0xFFFF#32).toNat < 2 ^ 16 ∧ ctlStatic (turnCore (tBinState .c)) 0xFFF8 = true) ∧
    ((getBin (turnCore (tBinState .c)).regs.bins 9).defined = false ∧
      phaseOk (turnCore (tBinState .c)) 3 100 false true (getBin tBins 6).base ((getBin tBins 6).cap * (getBin tBins 6).rb) = true) ∧
    ((getBin tBins 5).isRoot = true ∧ (getBin tBins 5).final = true ∧ liftCarry tBins (getBin tBins 5) = none) ∧
    ((3#3).toNat < 4 ∧ NoHazard (tBinState .c) [] [(destHere (tBinState .c) 3, 4)]) ∧
    (getBin ((turnCore (tBinState .c)).binPrev.getD (turnCore (tBinState .c)).regs.bins) 6).defined = true ∧
    (getBin ((turnCore (tBinState .c)).binPrev.getD (turnCore (tBinState .c)).regs.bins) 9).defined = false := by
  simp only [NoHazard]; decide +kernel

theorem witness_binWordsComplete_clean : RunsClean (tBinState .c) 0 := runsClean_tState _ _ rfl rfl

/-- `route b0, a8` with a barrier, a8 of 128 rows. -/
def tRoute (fn : BitVec 11) : XferWord := ⟨0, 4, 0, 8, 0, 0, fn, 0x80000002⟩

theorem witness_binWordsComplete_route :
    ((tBinState .s).turn.q = .s ∧ (tRoute 0x80).q.toNat < 16 ∧
      (let rs := if (tRoute 0x80).fn.getLsbD 7 then [(tRoute 0x80).c, (tRoute 0x80).a] else [(tRoute 0x80).c]
       FieldsOk (tBinState .s) rs ∧ NoHazard (tBinState .s) (rs.map (destHere (tBinState .s))) []) ∧
      (let w := { tRoute 0 with a := 31, b := 31 }
       w.fn.getLsbD 7 = false ∧ FieldsOk (tBinState .s) [w.c] ∧ NoHazard (tBinState .s) ([w.c].map (destHere (tBinState .s))) []) ∧ (regHere (tBinState .s) 8).static = true ∧
      routeBad tBins (tRoute 0x80).q.toNat (regHere (tBinState .s) 8).val.toNat false = false ∧
      routeRegionsOk (tBinState .s) tBins (tRoute 0x80).q.toNat false = true ∧
      ((turnCore (tBinState .s)).binQ.filter fun b => b.start.isNone).length < 8) ∧
    (tRoute 0x80).fn.getLsbD 7 = true ∧ ((regHere (tBinState .s) 4).val + BitVec.ofNat 64 (tRoute 0x80).off.toNat).toNat < 2 ^ 21 := by
  simp only [NoHazard, FieldsOk]; decide +kernel

/-- Roots 0, 1 and 2, 1 the active carry of 0 and 2 the one it reads; under 0 the bins 3, then 4, then 7 and 8. The rules of 0, 2, 3, 4,
7 and 8 are 1, 0, 1, 2, 0 and 0. -/
def tTree (f1 r1 f3 f4 f7 : Nat) : SMap Bin :=
  [(0, { tBin (tDef 0x8000 1 4 1 15 1 2 0 15) 2 with cur := 1 }), (1, tBin (tDef 0x9000 1 4 r1 15 0 2 0 15) f1),
   (2, { tBin (tDef 0xA000 1 4 0 15 0 1 0 15) 3 with tags := [(0, 0x00), (1, 0x24), (2, 0x09)] }), (3, tBin (tDef 0xB000 1 4 1 0 15 15 0 15) f3), (4, tBin (tDef 0xC000 1 4 2 3 15 15 0 15) f4),
   (7, tBin (tDef 0xE000 1 4 0 4 15 15 0 15) f7), (8, tBin (tDef 0xF000 1 4 0 4 15 15 1 15) 0)]

/-- Whether a chain has no repeats and at most four bins and ends at a root, and a root's carries are roots of their own. -/
def treeFine (bs : SMap Bin) (b : Nat) : Bool :=
  !(getBin bs b).defined ||
    (decide (chainOf bs b).Nodup && decide ((chainOf bs b).length ≤ 4) &&
      (chainOf bs b).getLast?.any (fun r => (getBin bs r).isRoot) &&
      (!(getBin bs b).isRoot || !(getBin bs b).hasCarry || [(getBin bs b).carryA, (getBin bs b).carryB].all fun x =>
        decide (x ≠ 15) && decide (x ≠ b) && (getBin bs x).isRoot))

theorem binTrees_of_treeFine (bs : SMap Bin) (h : ∀ b < 16, treeFine bs b = true) : BinTrees bs := by
  intro b hb hd
  have hf := h b hb
  simp only [treeFine, hd, Bool.not_true, Bool.false_or, Bool.and_eq_true, decide_eq_true_eq] at hf
  obtain ⟨⟨⟨h1, h2⟩, h3⟩, h4⟩ := hf
  refine ⟨h1, h2, ?_, fun hr hc x hx => ?_⟩
  · cases hl : (chainOf bs b).getLast? with
    | none => simp [hl] at h3
    | some r => exact ⟨r, rfl, by simpa [hl] using h3⟩
  · simp only [hr, hc, Bool.not_true, Bool.false_or, List.all_eq_true, Bool.and_eq_true, decide_eq_true_eq] at h4
    exact ⟨(h4 x hx).1.1, (h4 x hx).1.2, (h4 x hx).2⟩

/-- The trees are sound, one of four levels among them. -/
theorem binTrees_tTree : BinTrees (tTree 3 0 1 1 1) := binTrees_of_treeFine _ (by decide +kernel)

/-- A ROUTE of root 0 whose selector names a child, the deepest leaf, none, and a bin outside the tree; the carry's rows of its tags. -/
def tRouteCmd (carry : Bool) : BinCmd := { tCmd 4 0 3 (some 90) with carry := carry, sel := some [3, 7, 15, 9] }

theorem witness_routeRowPlacement :
    (let b := tRouteCmd false
     let bs := tTree 3 0 1 1 1
     b.carry = false ∧ (laneAt (b.sel.getD []) 2).toNat % 16 = 15 ∧ inTree bs b.bin ((laneAt (b.sel.getD []) 3).toNat % 16) = false ∧
       inTree bs b.bin ((laneAt (b.sel.getD []) 1).toNat % 16) = true ∧ (chainOf bs 7).reverse = [0, 3, 4, 7] ∧
       ∀ x ∈ (chainOf bs 7).reverse, (getBin bs x).fill ≠ (getBin bs x).cap) ∧
    (let b := tRouteCmd true
     let bs := tTree 3 0 1 1 1
     let root := getBin bs b.bin
     let rc := getBin bs root.readCarry
     let tag (k : Nat) : Nat := (smGet 0 rc.tags (root.cur + k)).toNat
     b.carry = true ∧ (root.cur + 0 < rc.fill ∧ inTree bs b.bin (tag 0 % 16) = true ∧ tag 0 / 16 % 4 ≤ binLevel bs (tag 0 % 16) ∧
       (chainOf bs (tag 0 % 16)).reverse.drop (tag 0 / 16 % 4) = [4]) ∧
       (root.cur + 1 < rc.fill ∧ inTree bs b.bin (tag 1 % 16) = false) ∧ rc.fill ≤ root.cur + 2) ∧
    bindefBad (tTree 3 0 1 1 1) 9 (tDef 0xD000 1 4 0 4 15 15 0 15) = false := by
  decide +kernel

/-- The first full bin of a path drops (7), traps (4) or defers (3), and the carry that takes the row has room, drops or does not drop. -/
theorem witness_routeRowPlacement_full :
    (let bs := tTree 3 0 1 1 4
     (chainOf bs 7).reverse = [0, 3, 4] ++ 7 :: [] ∧ (∀ x ∈ [0, 3, 4], (getBin bs x).fill ≠ (getBin bs x).cap) ∧
       (getBin bs 7).fill = (getBin bs 7).cap ∧ (getBin bs 7).rule = 0) ∧
    (let bs := tTree 3 0 1 4 1
     (chainOf bs 7).reverse = [0, 3] ++ 4 :: [7] ∧ (getBin bs 4).fill = (getBin bs 4).cap ∧ 2 ≤ (getBin bs 4).rule) ∧
    (let bs := tTree 3 0 4 1 1
     (chainOf bs 7).reverse = [0] ++ 3 :: [4, 7] ∧ (getBin bs 3).fill = (getBin bs 3).cap ∧ (getBin bs 3).rule = 1 ∧
       (getBin bs 0).hasCarry = true ∧ (getBin bs 0).activeCarry = 1 ∧ (getBin bs 1).fill < (getBin bs 1).cap) ∧
    (let bs := tTree 4 0 4 1 1
     (getBin bs 0).activeCarry = 1 ∧ (getBin bs 1).cap ≤ (getBin bs 1).fill ∧ (getBin bs 1).rule = 0) ∧
    (let bs := tTree 4 1 4 1 1
     (getBin bs 0).activeCarry = 1 ∧ (getBin bs 1).cap ≤ (getBin bs 1).fill ∧ (getBin bs 1).rule ≠ 0) ∧
    (getBin tBins 0).hasCarry = false := by
  decide +kernel

/-- A core whose bin unit runs one command. -/
def tRun (b : BinCmd) : State := tState .c fun c => { c with
  regs := { c.regs with bins := tBins }, binQ := [b], takers := [4], sq := tQueue 1 [0, 3, 15] }

theorem witness_binUnitSteps :
    ((getCore (tRun (tCmd 1 0 0 none)) 0).binQ = [tCmd 1 0 0 none] ∧ (tCmd 1 0 0 none).issued ≤ 100 ∧
      (getCore (tRun (tCmd 1 0 0 none)) 0).binFree ≤ 100 ∧ binStartBad tBins (tCmd 1 0 0 none) = false) ∧
    (binStartBad tBins (tCmd 2 9 0 none) = true ∧ (tCmd 2 9 0 (some 99)).finish ≤ 100) ∧
    ((tCmd 0 7 0 (some 99)).op = 0 ∧ (tCmd 2 0 0 (some 99)).op = 2 ∧ (getBin tBins 0).hasCarry = false) ∧
    (∀ w ∈ (getCore (tRun (tCmd 1 0 0 (some 99))) 0).recent, w.cyc ≤ 100 ∧ (w.cyc = 100 → w.lidx ≤ 0)) := by
  decide +kernel

theorem witness_binUnitSteps_clean :
    RunsClean { tRun (tCmd 2 9 0 none) with turn := { (tRun (tCmd 2 9 0 none)).turn with core := 0 } } 0 := ⟨rfl, rfl, _, rfl, rfl⟩

theorem witness_binUnitSteps_route :
    (let b := tCmd 4 0 3 (some 95)
     routeNext tBins b ≤ 100 ∧ b.carry = false ∧ b.sel = none ∧ b.n ≠ 0 ∧ (getCore (tRun b) 0).takers.head? = some b.id ∧
       headOf (getCore (tRun b) 0).sq 100 = some [0, 3, 15] ∧
       headOf (getCore (tState .c fun c => { c with binQ := [b] }) 0).sq 100 = none) ∧
    (let b := { tCmd 4 0 3 (some 90) with sel := some [0, 3, 15], rows := [[1], [2], [3]] }
     routeNext tBins b ≤ 100 ∧ b.sel ≠ none ∧ b.n * (getBin tBins b.bin).entries ≤ b.rows.length ∧ (routeRows tBins b b.n).stop = none ∧
       b.barrier = none) := by
  decide +kernel

/-- A BINEND of root 5, whose active carry 6 holds f rows, which lifts into the tree of bin 3: the active carry 1 of its root 0, of a rule, holds g
of four rows; the outer root has carries or none. -/
def tLift (final carries : Bool) (rule f g : Nat) : State := tState .c fun c => { c with
  regs := { c.regs with bins :=
    [(0, tBin (tDef 0x8000 1 4 1 15 (if carries then 1 else 15) (if carries then 2 else 15) 0 15) 0), (1, tBin (tDef 0x9000 1 4 rule 15 15 15 0 15) g),
     (2, tBin (tDef 0xA000 1 4 0 15 15 15 0 15) 0), (3, tBin (tDef 0xB000 1 4 0 0 15 15 0 15) 0),
     (5, tBin (tDef 0xC000 1 4 1 15 6 7 (if final then 1 else 0) 3) 0), (6, tBin (tDef 0xD000 1 4 2 15 15 15 0 15) f),
     (7, tBin (tDef 0xE000 1 4 2 15 15 15 0 15) 0)] }
  binQ := [tCmd 3 5 0 (some 90)] }

/-- FINAL 0; an outer root without carries; room for every row; a row too many under the drop rule and under the trap rule. -/
theorem witness_binUnitSteps_lift :
    let bin (s : State) (x : Nat) : Bin := getBin (getCore s 0).regs.bins x
    (∀ s ∈ [tLift false true 2 2 0, tLift true false 2 2 0, tLift true true 2 2 2, tLift true true 0 2 3, tLift true true 2 2 3],
      (getCore s 0).binQ = [tCmd 3 5 0 (some 90)] ∧ (tCmd 3 5 0 (some 90)).finish ≤ 100 ∧ (bin s 5).hasCarry = true ∧
        (bin s 5).activeCarry = 6 ∧ (bin s 6).fill = 2 ∧ (chainOf (getCore s 0).regs.bins (bin s 5).lift).getLast? = some 0) ∧
    (bin (tLift false true 2 2 0) 5).final = false ∧ (bin (tLift true false 2 2 0) 5).final = true ∧
    (bin (tLift true false 2 2 0) 0).hasCarry = false ∧ (bin (tLift true true 2 2 2) 0).hasCarry = true ∧
    (bin (tLift true true 2 2 2) 0).activeCarry = 1 ∧ 2 - min 2 ((bin (tLift true true 2 2 2) 1).cap - 2) = 0 ∧
    2 - min 2 ((bin (tLift true true 0 2 3) 1).cap - 3) = 1 ∧ (bin (tLift true true 0 2 3) 1).rule = 0 ∧ (bin (tLift true true 2 2 3) 1).rule ≠ 0 := by
  decide +kernel

/-! ### Witnesses: vector, tile and matrix words -/

/-- Whether a vector word of a form is ready on a state, as GivesLanes asks. -/
def tReady (w : VecWord) (f : VecForm) (s : State) : Prop :=
  s.turn.q = .x ∧ vecBad w f = false ∧ vecStall w f s = none ∧
    NoHazard s (vecPlan w f fun _ => ⟨[], false⟩).reads (vecPlan w f fun _ => ⟨[], false⟩).writes

/-- X with an entry in lq and in cq, seven in sq and fifteen in xq. -/
def tVecState : State := tHaz <| tState .x fun c => { c with
  lq := tQueue 1 [0x3F800000], cq := tQueue 1 7, sq := tQueue 7 [], xq := tQueue 15 0 }

/-- A vector word with three sources and a destination. -/
def tVec3 (dst sa sb sc : BitVec 6) (ty : BitVec 4) (fn : BitVec 7) (imm : Word32) : VecWord :=
  ⟨0, dst, sa, sb, sc, 1, 4, 6, ty, 0, 0, 0, fn, imm, 0⟩

theorem witness_vectorFloatResults :
    tReady (tVec3 34 32 35 37 0 0 0) (floatForm (tVec3 34 32 35 37 0 0 0) true true true 4) tVecState ∧
    tReady (tVec3 31 33 38 0 14 0 0) (floatForm (tVec3 31 33 38 0 14 0 0) true false false 12) tVecState ∧
    tReady (tVec3 36 0 0 0 1 0 0) (floatForm (tVec3 36 0 0 0 1 0 0) false false false 12) tVecState := by
  simp only [tReady, NoHazard]; decide +kernel

theorem witness_vectorIntegerResults :
    tReady (tVec3 34 32 35 37 9 0 0) (intForm (tVec3 34 32 35 37 9 0 0) true true true) tVecState ∧
    tReady (tVec3 0 31 38 0 14 0 0) (intForm (tVec3 0 31 38 0 14 0 0) true false false) tVecState ∧
    (let w := tVec3 3 1 2 0 13 0 0
     tReady w ⟨true, true, false, true, false, true, 0, laneTypeMod w ++ (rndMod w ++ satMod w), laneType w, 1, none, []⟩ tVecState) ∧
    (let w := tVec3 3 1 2 4 10 0 0
     tReady w ⟨true, true, true, true, false, true, 0, laneTypeMod w ++ (rndMod w ++ satMod w), laneType w, 1, none, []⟩ tVecState) ∧
    let w := tVec3 3 1 2 0 14 7 0
    tReady w ⟨true, true, false, true, decide (8 ≤ w.fn.toNat), false, 0, rndMod w ++ satMod w, 14, 4, none, []⟩ tVecState := by
  simp only [tReady, NoHazard]; decide +kernel

theorem witness_vectorMoveResults :
    (let w := tVec3 36 33 0 0 13 0 127
     tReady w ⟨true, false, false, true, false, true, 0x7F, laneTypeMod w ++ (rndMod w ++ satMod w), laneType w, 1, none, []⟩ tVecState) ∧
    (let w := tVec3 3 1 38 0 13 1 127
     tReady w ⟨true, true, false, true, decide (2 ≤ w.fn.toNat), false, 0x7F, rndMod w ++ satMod w, 13, 2, none, []⟩ tVecState) ∧
    (let w := tVec3 3 0 0 0 9 0 5
     tReady w ⟨false, false, false, true, decide (w.ty ≠ 9) && decide (w.ty ≠ 13), true, 2 ^ 32 - 1, [], 9, 2, none, []⟩ tVecState) ∧
    (let w := tVec3 3 1 2 0 14 5 0
     tReady w ⟨true, decide (w.fn.toNat ≠ 5), false, true, decide (6 ≤ w.fn.toNat), false, 0, [], 14, 2, none, []⟩ tVecState) ∧
    let w := tVec3 3 1 2 0 3 3 0
    tReady w ⟨true, true, false, true, match packWidth 3 with | none => true | some n => decide (32 / n ≤ w.fn.toNat), false, 0, [], 3, 2,
      none, []⟩ tVecState := by
  simp only [tReady, NoHazard]; decide +kernel

theorem witness_vectorTestResults :
    (let w := tVec3 3 1 35 0 0 5 0
     tReady w ⟨true, true, false, true, decide (6 ≤ w.fn.toNat), false, 0, [], 0, 2, none, []⟩ tVecState) ∧
    (let w := tVec3 3 0 0 0 13 1 7
     w.fn.toNat = 1 ∧ tReady w ⟨false, false, false, true, false, false, 0x7, [], 13, 1, none, [7]⟩ tVecState) ∧
    (let w := tVec3 0 1 0 0 13 6 0x3F
     w.fn.toNat ≠ 1 ∧ w.fn.toNat < 7 ∧ vecBad w ⟨false, false, false, false, false, false, 0x3F, [], 13, 1, some 7, [7]⟩ = false ∧
       vecStall w ⟨false, false, false, false, false, false, 0x3F, [], 13, 1, some 7, [7]⟩ tVecState = none ∧
       NoHazard tVecState [.m 0, .m 7] [(.m 7, 1)]) ∧
    (let w := tVec3 34 9 0 0 0 14 0
     tReady w ⟨true, false, false, true, decide (15 ≤ w.fn.toNat), false, 0, [], 14, 3, none, []⟩ tVecState) ∧
    (let w := tVec3 5 4 0 0 0 6 0
     tReady w ⟨true, false, false, true, decide (w.ty ≠ 0) || decide (w.fn.toNat < 3) || decide (6 < w.fn.toNat), false, 0, [], 0, 5, none, []⟩
       tVecState) ∧
    let w := tVec3 36 8 0 0 0 7 0
    tReady w ⟨true, false, false, true, decide (8 ≤ w.fn.toNat), false, 0, [], 0, 9, none, []⟩ tVecState := by
  simp only [tReady, NoHazard]; decide +kernel

/-- A matrix word: its stamp, its first operand parcel, its second, and whether it reads B through h4. -/
def tMat (stamp p1 p2 : Word32) (h : Bool) : MatWord := ⟨0, 2, 0, 0, if h then 1 else 0, if h then 4 else 2, 0, p1, p2, 0, stamp, 160, 0⟩

/-- X with a handle of a 64 MiB page of world 1 in h4, and three matrix words waiting. -/
def tMatState : State := tState .x fun c => { c with
  regs := { c.regs with h := [(4, 0x0310000840000113)] }
  matQ := List.replicate 3 ⟨1, 1, 50, 9, tMat 0 0 0 false, 0, 0, 1, none, [], [], 0, none, [], [], [], [], []⟩ }

theorem witness_matrixWordsComplete :
    (tMatState.turn.q = .x ∧ StampDue tMatState (tMat 0xFFFFFFFF 0 0 false) ∧ StampDue tMatState (tMat 100 0 0 true) ∧
      matRoom (turnCore tMatState) = true) ∧
    (stepBad (tMat 100 0 0 true) = false ∧ handleOperand (tMat 100 0 0 true) = some (false, 4) ∧ NoHazard tMatState [.h 4] [] ∧
      NoHazard tMatState [] [] ∧ (matHandles tMatState 1 (tMat 100 0 0 true)).isOk = true ∧
      (matHandles tMatState 2 (tMat 100 0 0 true)).isOk = true) ∧
    (stepBad (tMat 100 0 0 false) = false ∧ handleOperand (tMat 100 0 0 false) = none) ∧
    ((∀ t ∈ maskTiles (tMat 100 0x81 0 false), tileDrained (turnCore tMatState) t 100 = true) ∧
      tileDrained (turnCore tMatState) ({ tMat 100 0 0x017F false with acc := 7 } : MatWord).acc.toNat 100 = true ∧ 0 < drainCount (tMat 100 0 0x017F false) ∧
      drainRow0 (tMat 100 0 0x017F false) + drainCount (tMat 100 0 0x017F false) ≤ 128) := by
  simp only [NoHazard, StampDue]; decide +kernel

/-- A stamp one cycle ahead, the farthest ahead, one cycle past, the farthest past, and an engine with no room. -/
theorem witness_matrixWordsComplete_stamp :
    (RunsClean tMatState 0 ∧ maskTiles (tMat 101 0 0 false) = [] ∧ NoHazard tMatState [] []) ∧
    ((100 + 1) % 2 ^ 32 = (entryOf tMatState 0 + (tMat 101 0 0 false).stamp.toNat) % 2 ^ 32 ∧
      (100 + (2 ^ 31 - 1)) % 2 ^ 32 = (entryOf tMatState 0 + (tMat 0x80000063 0 0 false).stamp.toNat) % 2 ^ 32) ∧
    (100 % 2 ^ 32 = (entryOf tMatState 0 + (tMat 99 0 0 false).stamp.toNat + 1) % 2 ^ 32 ∧
      100 % 2 ^ 32 = (entryOf tMatState 0 + (tMat 0x80000064 0 0 false).stamp.toNat + 2 ^ 31) % 2 ^ 32) ∧
    matRoom (turnCore (tState .x fun c => { c with
      matQ := List.replicate 4 ⟨1, 1, 50, 9, tMat 0 0 0 false, 0, 0, 1, none, [], [], 0, none, [], [], [], [], []⟩ })) = false ∧
    (stepBad (tMat 101 0 0 true) = false ∧ NoHazard tMatState (matReads 1 (tMat 101 0 0 true)) []) ∧
    (tileDrained (turnCore tMatState) ({ tMat 101 0 0 false with acc := 7 } : MatWord).acc.toNat 100 = true ∧ (101#32) ≠ 0xFFFFFFFF) ∧
    (StampDue tMatState (tMat 100 0 0 false) ∧ drainCount (tMat 100 0 0 false) = 0 ∧
      128 < drainRow0 (tMat 100 0 0x0180 false) + drainCount (tMat 100 0 0x0180 false)) :=
  ⟨⟨runsClean_tState _ _ rfl rfl, by simp only [NoHazard]; decide +kernel⟩, by simp only [NoHazard, StampDue]; decide +kernel⟩

theorem witness_tileWordsComplete :
    (let w : VecWord := ⟨0, 5, 0, 0, 0, 0, 0, 0, 0, 0, 0, 0, 0, 0x77F, 0⟩
     tReady w ⟨false, false, false, true, false, true, 0x77F, [], 0, 6, none, []⟩ tVecState ∧
       tileQuiet (turnCore tVecState) (w.imm.extractLsb' 8 3).toNat 100 = true ∧
       tReady w ⟨false, false, false, false, false, true, 0x700, [], 0, 6, none, []⟩ tVecState) ∧
    (let w : VecWord := ⟨0, 0, 32, 0, 0, 0, 0, 0, 0, 0, 0, 0, 0, 0x103, 0⟩
     tReady w ⟨true, false, false, false, false, true, 0x77F, [], 0, 6, none, []⟩ tVecState) ∧
    let w : VecWord := ⟨0, 34, 0, 0, 0, 0, 0, 0, 0, 0, 0, 0, 31, 0x3F, 0⟩
    vecBad w ⟨false, false, false, true, decide (w.dst.toNat ≠ 34) || decide (32 ≤ w.fn.toNat), false, 0x77F, [], 0, 6, none, []⟩ = false ∧
      NoHazard tVecState [] [] ∧ tileQuiet (turnCore tVecState) 0 100 = true := by
  simp only [tReady, NoHazard]; decide +kernel

/-- A command of the matrix engine on tile 2. -/
def tMatCmd (op : Nat) (start : Option Nat) (rows : List Lanes) : MatCmd :=
  ⟨3, op, 90, 500, tMat 0xFFFFFFFF (if op = 3 then 5 else 0) 0x0303 false, 0, 0, 1, start, [], [], 98, none, [], [], [], [], rows⟩

/-- A core whose engine holds one command. -/
def tEngine (m : MatCmd) (f : Core → Core) : State := tState .x fun c => f { c with matQ := [m], sq := ⟨[⟨none, 0, 3⟩, ⟨none, 0, 9⟩], 0, 0, 0, 0⟩ }

theorem witness_matrixEngineSteps_words :
    ((tMatCmd 1 none []).issued ≤ 100 ∧ (getCore (tEngine (tMatCmd 1 none []) id) 0).matFree ≤ 100) ∧
    stepDue (getCore (tEngine { tMatCmd 1 none [] with issued := 0, start := some 0 } id) 0) 128 = true ∧
    stepCause (tMatCmd 1 (some 60) []) (getCore (tEngine (tMatCmd 1 (some 60) []) id) 0).regs.trellis = none ∧
    36 + max 1 (32 * (maskTiles (tMatCmd 3 (some 36) []).w).length) ≤ 100 ∧
    mdrainDue (getCore (tEngine (tMatCmd 4 (some 95) [[1], [2]]) id) 0) 100 = true ∧
    smGet 0 (getCore (tEngine (tMatCmd 3 none []) fun c => { c with drain := [(1, 100)] }) 0).drain 1 ≤ 100 := by
  decide +kernel

/-- A TWR of row 3, and a TOPKC with two entries left. -/
def tTileState : State := tState .x fun c => { c with
  sq := ⟨[⟨none, 0, 9⟩, ⟨none, 0, 9⟩], 0, 0, 0, 0⟩, tileQ := [⟨2, 1, some 3, [5], 0xFF, 100⟩], topkQ := [⟨9, 100, [[1], [2]]⟩] }

theorem witness_matrixEngineSteps_tiles :
    nextTileWrite (getCore tTileState 0) 100 = some ⟨2, 1, some 3, [5], 0xFF, 100⟩ ∧
    (getCore tTileState 0).topkQ = [⟨9, 100, [[1], [2]]⟩] ∧ topkcDue (getCore tTileState 0) 100 = true := by
  decide +kernel

/-- An event record due in a cycle, at a barrier or none, and a core that holds it. -/
def tPost (due : Nat) (status : Option Nat) (b : Option BarRef) : Post := ⟨due, 1, status, .matrix, b, 64, false⟩
/-- A core that holds one post, and n event records. -/
def tPosted (y : Post) (n : Nat) : State := tState .x fun c => { c with
  posts := [y], evPop := 99, regs := { c.regs with events := List.replicate n (90, 0, 5) } }

/-- A post a cycle ahead; due, without a record; due, with room for one record more and with none; due, for a barrier of its own core or of another. -/
theorem witness_matrixEngineSteps_posts :
    (let y := tPost 101 (some 0) none
     (getCore (tPosted y 31) 0).posts = [y] ∧ (tPosted y 31).cyc < y.due) ∧
    (let y := tPost 100 none none
     (getCore (tPosted y 31) 0).posts = [y] ∧ y.due ≤ 100 ∧ y.barrier = none ∧ y.status = none) ∧
    (let y := tPost 100 (some 3) none
     (getCore (tPosted y 31) 0).posts = [y] ∧ y.due ≤ 100 ∧ y.barrier = none ∧ y.status = some 3 ∧ (getCore (tPosted y 31) 0).evPop < 100 ∧
       (getCore (tPosted y 31) 0).regs.events.length < 32 ∧ (getCore (tPosted y 32) 0).regs.events.length = 32) ∧
    ∀ k, k < 2 → let y := tPost 100 none (some ⟨k, 72⟩)
    (getCore (tPosted y 0) 0).posts = [y] ∧ y.due ≤ 100 ∧ y.barrier = some ⟨k, 72⟩ ∧ ((⟨k, 72⟩ : BarRef).core = 0 ↔ k = 0) := by
  decide +kernel

/-- A line at the address, of the owner tag. -/
def tLine (addr : Nat) (ot : BitVec 8) : SlotLine := ⟨addr, ⟨5, 0, ot⟩, 80⟩
/-- A line of world 1, neither confidential nor sealed, as it stands in package memory. -/
def tGoodLine (addr : Nat) : SlotLine := ⟨addr, lineTagged sC 1 false false addr 5, 80⟩

/-- A word that needs two lines, the line x at slot 7's head. -/
def tPipe (x : SlotLine) : State :=
  tEngine { tMatCmd 1 none [] with w := tMat 0xFFFFFFFF 0 0 true, need := [0x80000000, 0x80000040], hOp := 0x0310000800000113 }
    fun c => { c with slots := { c.slots with land := [(7, [x])] } }

/-- What the check of that line gives, once it is taken from the slot. -/
def tPiped (x : SlotLine) : Option (BitVec 512 × Bool) :=
  (deliverLine (setCore (tPipe x) 0 (popLand (getCore (tPipe x) 0) 7 100)) 1 (hConf 0x0310000800000113) (hSealed 0x0310000800000113) x).2

theorem lineGood_congr (s t : State) (h : s.worlds = t.worlds) (hm : s.devMacKey = t.devMacKey) (w : Nat) (conf sealed_ : Bool) (addr : Nat) (l : Line) :
    lineGood s w conf sealed_ addr l = lineGood t w conf sealed_ addr l := by
  have hk : macKeyOf s w conf sealed_ = macKeyOf t w conf sealed_ := by simp only [macKeyOf, getWorld, h, hm]
  unfold lineGood
  rw [hk]

/-- A line passes under the bits it was tagged with. -/
theorem witness_matrixEngineSteps_pipe_good :
    let x := tGoodLine 0x80000000
    pipeDue (getCore (tPipe x) 0) 100 = true ∧ (pipeWord (getCore (tPipe x) 0)).isSome = true ∧
      landHead (getCore (tPipe x) 0) 7 100 = some x ∧ tPiped x = some (5, false) := by
  refine ⟨rfl, rfl, rfl, ?_⟩
  have hc : hConf 0x0310000800000113 = false := by decide
  have hs : hSealed 0x0310000800000113 = false := by decide
  simp only [tPiped, deliverLine, checkLine, hc, hs]
  rw [lineGood_congr _ sC (by rfl) (by rfl)]
  rw [show (tGoodLine 0x80000000).line = lineTagged sC 1 false false 0x80000000 5 from rfl,
    show (tGoodLine 0x80000000).addr = 0x80000000 from rfl, lineGood_lineTagged]
  simp [lineOpen, lineTagged]

/-- A line whose tag is off in two bits is beyond correction. -/
theorem witness_matrixEngineSteps_pipe :
    let x := tLine 0x80000000 0x7D
    pipeDue (getCore (tPipe x) 0) 100 = true ∧ (pipeWord (getCore (tPipe x) 0)).isSome = true ∧
      landHead (getCore (tPipe x) 0) 7 100 = some x ∧ tPiped x = none := by
  decide +kernel

theorem witness_matrixEngineSteps_clean :
    RunsClean { tPipe (tLine 0x80000000 0) with turn := { (tPipe (tLine 0x80000000 0)).turn with core := 0 } } 0 :=
  ⟨rfl, rfl, _, rfl, rfl⟩

/-! ### Witnesses: ports, copies, rows, collectives -/

/-- A transfer word: A, B, C, Q, OFF21, FN11, IMM32. -/
def tXfer (a b c q : Reg) (off : BitVec 21) (fn : BitVec 11) (imm : Word32) : XferWord := ⟨0, a, b, c, q, off, fn, imm⟩

/-- L or S with counts of 1, 64, 512, 4,096 and 4,097 entries, and an entry in sq. -/
def tFeed (q : Seq) : State := tState q fun c =>
  let r : SMap SReg := [(1, ⟨0x1000, true⟩), (2, ⟨1, true⟩), (3, ⟨64, true⟩), (4, ⟨0x1FFE00, true⟩), (5, ⟨4096, true⟩), (6, ⟨4097, true⟩),
    (7, ⟨7, false⟩), (8, ⟨0x200001, true⟩), (9, ⟨0x200000, true⟩), (10, ⟨0x1FFE01, true⟩), (11, ⟨512, true⟩)]
  { c with regs := { c.regs with la := r, sa := r }, sq := tQueue 1 [7] }

theorem witness_feedWordsComplete :
    (FieldsOk (tFeed .l) [1, 11, 5] ∧ NoHazard (tFeed .l) ([1, 11, 5].map (destHere (tFeed .l))) [] ∧
      FieldsOk (tFeed .l) [1, 3] ∧ NoHazard (tFeed .l) ([1, 3].map (destHere (tFeed .l))) [] ∧ (tXfer 1 31 3 3 0 0x40 0).fn.getLsbD 7 = false ∧
      (regHere (tFeed .l) 5).static = true ∧ (regHere (tFeed .l) 5).val.toNat ≤ 4096 ∧ (regHere (tFeed .l) 0).val.toNat = 0) ∧
    (lqFree (turnCore (tFeed .l)) 100 = true ∧ ∀ k, k < (regHere (tFeed .l) 2).val.toNat →
      (0x1FFE00 + k * 512) % 2 ^ 64 + 512 ≤ 2 ^ 21 ∧ phaseOk (turnCore (tFeed .l)) 1 100 true false ((0x1FFE00 + k * 512) % 2 ^ 64) 512 = true) ∧
    ((tXfer 1 3 3 3 0 0xC0 8).q.toNat < 4 ∧ 64 % 64 = 0 ∧ 64 ≤ 64 ∧ 0x1FFFC0 + 64 ≤ 2 ^ 21 ∧
      phaseOk (turnCore (tFeed .l)) 1 100 true false 0x1FFFC0 64 = true ∧
      barrierRef (tFeed .l) (regHere (tFeed .l) 3).val (8 % 2 ^ 21) = .ok ⟨0, 72⟩) ∧
    (tFeed .s).turn.q = .s ∧ (turnCore (tFeed .s)).takers = [] ∧ (headOf (turnCore (tFeed .s)).sq 100).isSome = true ∧
      phaseOk (turnCore (tFeed .s)) 2 100 false true (0x1FFE00 % 2 ^ 64) 512 = true := by
  simp only [FieldsOk, NoHazard]; decide +kernel

theorem witness_engineWordsTrap_feed :
    (RunsClean (tFeed .l) 0 ∧ (tFeed .l).turn.q = .l) ∧ FieldsOk (tFeed .l) [10, 0, 6] ∧
    NoHazard (tFeed .l) ([10, 0, 6].map (destHere (tFeed .l))) [] ∧
    (let w := tXfer 10 31 6 3 0 0x40 0
     w.q.toNat < 4 ∧ w.fn.getLsbD 7 = false ∧ FieldsOk (tFeed .l) [w.a, w.c] ∧ NoHazard (tFeed .l) ([w.a, w.c].map (destHere (tFeed .l))) []) ∧
    (let w := tXfer 10 3 7 3 0 0x80 8
     w.fn.getLsbD 7 = true ∧ FieldsOk (tFeed .l) [w.a, w.b, w.c] ∧ NoHazard (tFeed .l) ([w.a, w.b, w.c].map (destHere (tFeed .l))) []) ∧ lqFree (turnCore (tFeed .l)) 100 = true ∧
    (regHere (tFeed .l) 7).static = false ∧ ((regHere (tFeed .l) 6).static = true ∧ 4096 < (regHere (tFeed .l) 6).val.toNat ∧
      (regHere (tFeed .l) 6).val.toNat % 64 ≠ 0) ∧ 2 ^ 21 < ((regHere (tFeed .l) 10).val + (0#21).setWidth 64).toNat + 512 :=
  ⟨⟨runsClean_tState _ _ rfl rfl, rfl⟩, by simp only [FieldsOk, NoHazard]; decide +kernel⟩

/-- A COPY that waits at the engine. -/
def tCopyCmd : CopyCmd :=
  ⟨1, .l, 4, 5, 0, true, 64, 0, 0, 0, 0, 0, none, false, none, 0, none, none, 0, 0, 0, 0, [], [], 0, 0, 0, 0, none, none, [], [], [], 0, false⟩

/-- L with seventeen COPYs waiting. -/
def tCopyFull : State := tState .l fun c => { turnCore (tFeed .l) with copyQ := List.replicate 17 tCopyCmd, launch := c.launch }

theorem witness_engineWordsTrap_copy :
    (RunsClean tCopyFull 0 ∧ tCopyFull.turn.q = .l) ∧ (copyFar (tXfer 1 0 8 0 0 0 5) = 0 ∧ decGcm (tXfer 1 0 8 0 0 0 5) = false) ∧
    (FieldsOk tCopyFull [1, 0, 8, 0] ∧ NoHazard tCopyFull [destHere tCopyFull 1, destHere tCopyFull 8, destHere tCopyFull 0, destHere tCopyFull 0] []) ∧
    (regHere tCopyFull 7).static = false ∧ 2 ^ 21 < (regHere tCopyFull 8).val.toNat ∧
    ((regHere tCopyFull 9).val.toNat ≤ 2 ^ 21 ∧ (regHere tCopyFull 2).val.toNat % 512 ≠ 0 ∧ decTopk (tXfer 1 0 2 0 0 0x10 5) = true ∧
      decZfill (tXfer 1 0 2 0 0 0x10 5) = false) ∧
    (copyDir (tXfer 10 0 11 0 0 0 5) = false ∧ 2 ^ 21 < ((regHere tCopyFull 10).val + (0#21).setWidth 64).toNat + (regHere tCopyFull 11).val.toNat) ∧
    copyChecks (tXfer 1 0 3 0 0 0 5) (copyPlanOf (tXfer 1 0 3 0 0 0 5) tCopyFull) tCopyFull = .ok () ∧ copyRoom (turnCore tCopyFull) = false :=
  ⟨⟨⟨rfl, rfl, _, rfl, rfl⟩, rfl⟩, by simp only [FieldsOk, NoHazard]; decide +kernel⟩

/-- A row descriptor (Table 19.6): N, RB, IDX, LOC, the table, its rows, whether it lies in package memory, BOUND. -/
def tRowDesc (n rb idx loc table trows : Nat) (pkg : Bool) : List Word64 :=
  [BitVec.ofNat 64 (n + rb * 2 ^ 13 + (if pkg then 2 ^ 20 else 0) + 300 * 2 ^ 44), BitVec.ofNat 64 (idx + loc * 2 ^ 21), BitVec.ofNat 64 table,
   BitVec.ofNat 64 trows, 0, 0, 0, 0]

/-- The first of the descriptors with a barrier at 0x1FFFF8. -/
def tRowMarked : List Word64 :=
  [BitVec.ofNat 64 (8 + 2 ^ 13 + 2 ^ 21 + 300 * 2 ^ 44), BitVec.ofNat 64 (0x1000 + 0x2000 * 2 ^ 21 + 0x1FFFF8 * 2 ^ 42), 5, 10, 0, 0, 0, 0]

/-- C with descriptors at 0, 64, 128 … of control memory, and its die's row engine given to its world. -/
def tRowState : State := { tState .c (fun c => { c with
  ctl := memWrite [] 0 ((tRowDesc 8 1 0x1000 0x2000 5 10 false ++ tRowDesc 0 1 0x1000 0x2000 5 10 false ++ tRowDesc 4097 1 0x1000 0x2000 5 10 false ++
    tRowDesc 8 1 0x1FFFF0 0x2000 5 10 false ++ tRowDesc 8 1 0x1000 0x1FFFC0 5 10 false ++ tRowDesc 8 1 0x1000 0x2000 0x200000 10 false ++
    tRowMarked ++ tRowDesc 8 1 0x1000 0x2000 0x500000005 10 true).flatMap fun w => leBytes 8 w.toNat)
  regs := { c.regs with h := [(5, 0x4000)] } }) with frameTable := [(1024, 1)] }

/-- The same with class 4 open for the first 64 KiB only. -/
def tRowNarrow : State := { tRowState with
  cores := [(0, { turnCore tRowState with phases := [(4, ⟨some [⟨0, 0x10000, true, true⟩], 0, none⟩)] })] }

theorem witness_rowWordsComplete :
    tRowState.turn.q = .c ∧ NoHazard tRowState [destHere tRowState 0] [] ∧
    ctlDescriptor tRowState 0 0 8 = .ok (tRowDesc 8 1 0x1000 0x2000 5 10 false, false) ∧
    rowChecks 0 (tRowDesc 8 1 0x1000 0x2000 5 10 false) (rowDesc (tRowDesc 8 1 0x1000 0x2000 5 10 false)) tRowState = .ok () ∧
    rowChecks 1 (tRowDesc 8 1 0x1000 0x2000 5 10 false) (rowDesc (tRowDesc 8 1 0x1000 0x2000 5 10 false)) tRowState = .ok () ∧
    rowChecks 2 (tRowDesc 8 1 0x1000 0x2000 5 10 false) (rowDesc (tRowDesc 8 1 0x1000 0x2000 5 10 false)) tRowState = .ok () := by
  simp only [NoHazard]; decide +kernel

theorem witness_engineWordsTrap_rows_clean : RunsClean tRowState 0 := ⟨rfl, rfl, _, rfl, rfl⟩

theorem witness_engineWordsTrap_rows :
    (let ws := tRowDesc 0 1 0x1000 0x2000 5 10 false
     ctlDescriptor tRowState 0 64 8 = .ok (ws, false) ∧ (rowDesc ws).n = 0) ∧
    (let ws := tRowDesc 4097 1 0x1000 0x2000 5 10 false
     ctlDescriptor tRowState 0 128 8 = .ok (ws, false) ∧ 4096 < (rowDesc ws).n) ∧
    (let ws := tRowDesc 8 1 0x1FFFF0 0x2000 5 10 false
     ctlDescriptor tRowState 0 192 8 = .ok (ws, false) ∧ rowFieldsBad ws (rowDesc ws) = false ∧
       rowWindowsBad ws (rowDesc ws) (rowPackage tRowState (rowDesc ws)) = false ∧ ¬((rowDesc ws).idx + 4 * (rowDesc ws).n ≤ 2 ^ 21)) ∧
    (let ws := tRowDesc 8 1 0x1000 0x1FFFC0 5 10 false
     ctlDescriptor tRowState 0 256 8 = .ok (ws, false) ∧ phaseOk (turnCore tRowState) 4 100 true false (rowDesc ws).idx (4 * (rowDesc ws).n) = true ∧
       ¬((rowDesc ws).loc + (rowDesc ws).n * (rowDesc ws).rb ≤ 2 ^ 21)) ∧
    (let ws := tRowDesc 8 1 0x1000 0x2000 0x200000 10 false
     ctlDescriptor tRowState 0 320 8 = .ok (ws, false) ∧ (rowDesc ws).tkind = false ∧ lcountOf tRowState 0 ≤ (rowDesc ws).table / 2 ^ 21) ∧
    rowWorld { tRowState with frameTable := [] } (0 / 128) ≠ (turnCore tRowState).world := by
  decide +kernel

/-- A descriptor whose barrier lies outside class 4, and one whose table's handle was missed. -/
theorem witness_engineWordsTrap_rows_barrier :
    (let d := rowDesc tRowMarked
     ctlDescriptor tRowNarrow 0 384 8 = .ok (tRowMarked, false) ∧ NoHazard tRowNarrow [destHere tRowNarrow 0] [] ∧
       rowFieldsBad tRowMarked d = false ∧ rowWindowsBad tRowMarked d (rowPackage tRowNarrow d) = false ∧
       phaseOk (turnCore tRowNarrow) 4 100 true false d.idx (4 * d.n) = true ∧
       phaseOk (turnCore tRowNarrow) 4 100 false true d.loc (d.n * d.rb) = true ∧ d.bv = true ∧ d.tkind = false ∧
       phaseOk (turnCore tRowNarrow) 4 100 false true (d.bar / 8 * 8) 8 = false ∧
       phaseOk (turnCore tRowState) 4 100 false true (d.bar / 8 * 8) 8 = true) ∧
    let ws := tRowDesc 8 1 0x1000 0x2000 0x500000005 10 true
    let d := rowDesc ws
    ctlDescriptor tRowState 0 448 8 = .ok (ws, false) ∧ NoHazard tRowState [destHere tRowState 0, .h 5] [] ∧
      rowFieldsBad ws d = false ∧ d.tkind = true ∧ d.h = 5 ∧ rowHandleOk tRowState d = false ∧ d.bv = false ∧
      hValid (rowHandle tRowState d) = false ∧ hCause (rowHandle tRowState d) = 1 := by
  simp only [NoHazard]; decide +kernel

/-- A VLD, an OBLD and a VST at the ports. -/
def tPort (f : FeedCmd) : State := tState .l fun c => { c with
  feedQ := [f], lqOrder := [(4, 2)], sq := tQueue 1 [7], storeQ := [⟨5, 90, 2, 0x1000, 64, false, some 3, 1, 100⟩], takers := [5] }

theorem witness_feedPortSteps :
    vldDue (getCore (tPort ⟨4, true, 90, 2, 0x1000, 64, 1, false, none, 1, 100, []⟩) 0) 100 = true ∧
    (obldDue (getCore (tPort ⟨4, false, 90, 1024, 0x1000, 64, 1, false, none, 0, 100, []⟩) 0) 100 = true ∧ 512 * (0 + 1) < 1024) ∧
    (obldDue (getCore (tPort ⟨4, false, 90, 1024, 0x1000, 64, 1, true, none, 1, 100, []⟩) 0) 100 = true ∧ 1024 ≤ 512 * (1 + 1)) ∧
    (∀ k, k < 2 → let f : FeedCmd := ⟨4, false, 90, 1024, 0x1000, 64, 1, true, some ⟨k, 72⟩, 1, 100, []⟩
      obldDue (getCore (tPort f) 0) 100 = true ∧ 1024 ≤ 512 * (1 + 1) ∧ f.barrier = some ⟨k, 72⟩) ∧
    headOf (getCore (tPort ⟨4, true, 90, 2, 0x1000, 64, 1, false, none, 1, 100, []⟩) 0).sq 100 = some [7] ∧
    vstDue (getCore (tPort ⟨4, true, 90, 2, 0x1000, 64, 1, false, none, 1, 100, []⟩) 0) 100 = true := by
  decide +kernel

theorem witness_copyWordCompletes :
    (copyBad (tXfer 1 0 9 0 0 0 5) = false ∧ FieldsOk (tFeed .l) [1, 0, 9, 0] ∧ (tFeed .s).turn.q = .s ∧ copyFar (tXfer 1 0 9 0 0 0 5) ≠ 5) ∧
    NoHazard (tFeed .l) [destHere (tFeed .l) 1, destHere (tFeed .l) 9, destHere (tFeed .l) 0, destHere (tFeed .l) 0] [] ∧
    copyChecks (tXfer 0 0 9 0 0 0 5) (copyPlanOf (tXfer 0 0 9 0 0 0 5) (tFeed .l)) (tFeed .l) = .ok () ∧
    copyBarrier (tXfer 0 0 9 0 0 0 5) (tFeed .l) = .ok none ∧ copyRoom (turnCore (tFeed .l)) = true := by
  simp only [FieldsOk, NoHazard]; decide +kernel

/-- A COPY of a kind and direction, with its count, the units it has moved and its start. -/
def tCopy (far : Nat) (toLocal : Bool) (count units : Nat) (start finish : Option Nat) : CopyCmd :=
  ⟨4, .l, 90, 500, far, toLocal, count, 0x1000, 0x3000, 0, 0x0310000840000113, 2, none, false, none, 0, none, start, 92, units, 98, 1,
    List.replicate (if far = 5 then 448 else 0) 9, [], 0, 0, 0, 0, finish, none, [], [], [], 0, false⟩

/-- A core whose engine holds a COPY, with a line of an address in slot 2. -/
def tCopyState (m : CopyCmd) (addr : Nat) : State := tState .l fun c => { c with
  copyQ := [m], lqOrder := [(4, 2)], slots := { c.slots with land := [(2, [⟨addr, ⟨5, 0, 0⟩, 80⟩])] } }

theorem witness_copyEngineSteps :
    ((tCopy 5 false 600 0 none none).issued ≤ 100 ∧ (getCore (tCopyState (tCopy 5 false 600 0 none none) 0) 0).copyFree ≤ 100 ∧
      copyOutside (tCopy 5 false 600 0 none none) = false ∧ copyEmits (tCopy 5 false 600 0 none none) = false) ∧
    (let m : CopyCmd := { tCopy 4 false 4096 0 none none with tr := 2 }
     m.start = none ∧ m.issued ≤ 100 ∧ copyOutside m = false ∧ copyEmits m = true) ∧
    (let m : CopyCmd := { tCopy 0 true 200 2 (some 90) none with lastMove := 100, movedNow := 2 }
     m.lastMove = (tCopyState m 0).cyc ∧ 2 ≤ m.movedNow) ∧
    copyNext (getCore (tCopyState (tCopy 0 true 200 4 (some 90) (some 100)) 0) 0) 100 = some .complete ∧
    (copyNext (getCore (tCopyState (tCopy 3 true 256 1 (some 90) none) 7) 0) 100 = some .landLine ∧
      landHead (getCore (tCopyState (tCopy 3 true 256 1 (some 90) none) 7) 0) 2 100 = some ⟨7, ⟨5, 0, 0⟩, 80⟩) ∧
    copyNext (getCore (tCopyState (tCopy 4 false 256 1 (some 90) none) 0) 0) 100 = some .append ∧
    (copyNext (getCore (tCopyState (tCopy 5 false 600 7 (some 90) none) 0) 0) 100 = some .lqPush ∧
      ¬(copyUnits (tCopy 5 false 600 7 (some 90) none) ≤ 7) ∧
      512 ≤ (tCopy 5 false 600 7 (some 90) none).data.length +
        (copyRead (getCore (tCopyState (tCopy 5 false 600 7 (some 90) none) 0) 0) 0 100 (tCopy 5 false 600 7 (some 90) none) 0x1000).1.length) ∧
    (let m : CopyCmd := { tCopy 5 false 600 7 (some 90) none with zfill := true }
     copyNext (getCore (tCopyState m 0) 0) 100 = some .lqPush ∧ ¬(copyUnits m ≤ m.units) ∧
       512 ≤ m.data.length + (List.replicate (min 64 (copySrc m - 64 * m.units)) (0 : Byte)).length) ∧
    let m : CopyCmd := { tCopy 5 false 4096 64 (some 90) none with topk := some 8, data := [], out := List.replicate 64 7 }
    copyNext (getCore (tCopyState m 0) 0) 100 = some .lqPush ∧ copyUnits m ≤ m.units ∧
      copyOut m ≤ copyOut m - m.out.length + (m.out.take 64).length := by
  decide +kernel

/-- A transfer of a far end and a direction whose next unit is the last of four. -/
def tUnit (far : Nat) (toLocal : Bool) : CopyCmd := { tCopy far toLocal 200 3 (some 90) none with tail := [1, 2] }

/-- Whether such a transfer moves its unit. -/
def tMoves (m : CopyCmd) : Prop :=
  copyNext (getCore (tCopyState m 0) 0) 100 = some .unit ∧ m.units < copyUnits m ∧ m.zfill = false ∧ copyGathers m = false

/-- The package as package 5, its world 1 with a domain table whose device 0 is world 1 of a package. -/
def tDomain (pkg : Nat) (s : State) : State := { s with
  domain := some 5, worlds := [(1, { World.zero with enabled := true, cbase := 2 ^ 30, csize := 2 ^ 30, domain := [(0, 3), (1, BitVec.ofNat 8 (pkg / 2))] })] }

theorem witness_copyEngineSteps_far :
    (∀ b, tMoves (tUnit 0 b)) ∧ (∀ b, tMoves (tUnit 1 b)) ∧
    (∀ b, let m := { tUnit 2 b with handle := 0x0004000000050000 }
      tMoves m ∧ m.status ≠ 3 ∧ hSpace m.handle = 1 ∧ dmaOpen (tCopyState m 0) 1 = true ∧ m.own = none) ∧
    (∀ b, let m := { tUnit 2 b with handle := 0x0008000000000000 }
      tMoves m ∧ hSpace m.handle ≠ 1 ∧
        domTarget (tDomain 6 (tCopyState m 0)) 1 (hDevice m.handle) (hDevAddr m.handle + (m.farAddr + 192)) 8 =
          .away ((6 * 64 + 1) * 2 ^ 41 + (m.farAddr + 192))) ∧
    (let m := { tUnit 2 false with handle := 0x0008000000000000 }
     domTarget { tDomain 6 (tCopyState m 0) with domain := none } 1 (hDevice m.handle) (hDevAddr m.handle + (m.farAddr + 192)) 8 = .refused) ∧
    let m := { tUnit 2 true with handle := 0x0008000000000000, own := some 0x1000, got := [(0x10C0, some 7)] }
    tMoves m ∧ (gotBytes m.got (0x1000 + 192) 8).isSome = true := by
  simp only [tMoves]; decide +kernel

theorem witness_copyEngineSteps_own :
    let m := { tUnit 2 false with handle := 0x0008000000000000 }
    let s := tCopyState m 0
    let u := { tDomain 6 s with domain := some 6 }
    domTarget u 1 (hDevice m.handle) (hDevAddr m.handle + (m.farAddr + 192)) 8 = .own 1 (2 ^ 30 + (m.farAddr + 192)) := by
  decide +kernel

theorem witness_copyEngineSteps_clean :
    RunsClean { tCopyState (tCopy 3 true 256 1 (some 90) none) 7 with turn := ⟨0, .l, 0⟩ } 0 := ⟨rfl, rfl, _, rfl, rfl⟩

/-- Core 0 with a line of core 1 at its inbound port, its class 6 open or not. -/
def tIn (k : InKind) (shut : Bool) : State :=
  let s := tThree .c
  { s with cores := [(0, { tCore with inbound := [⟨4, 90, 1, 1, .seq .c, k, 0x1008, [1, 2], 0⟩], phases := if shut then [] else tCore.phases }),
      (1, { tCore with lidx := 1, flight := [⟨.c, .reg .c 3, 200, .word 0 false, some 4, 0, 90⟩] })] }

theorem witness_copyEngineSteps_inbound :
    (inDue (getCore (tIn .store false) 0) 100 = true ∧ (inNext (getCore (tIn .store false) 0)).isSome = true ∧
      phaseOk (getCore (tIn .store false) 0) 6 100 false true 0x1008 2 = true) ∧
    (inDue (getCore (tIn (.load 8 true) false) 0) 100 = true ∧ phaseOk (getCore (tIn (.load 8 true) false) 0) 6 100 true false 0x1008 8 = true) ∧
    (inDue (getCore (tIn .store true) 0) 100 = true ∧ phaseOk (getCore (tIn .store true) 0) 6 100 false true 0x1008 2 = false) ∧
    (inDue (getCore (tIn (.atomic 6 0 5) false) 0) 100 = true ∧ phaseOk (getCore (tIn (.atomic 6 0 5) false) 0) 6 100 true true 0x1008 8 = true ∧
      BitVec.ofNat 64 (leNat (spadBefore (getCore (tIn (.atomic 6 0 5) false) 0) 100 1 0x1008 8)) = 0) ∧
    (0 : Nat) ≠ 1 ∧ (getCore (tIn (.atomic 6 0 5) false) 1).flight.any (fun f => decide (f.awaits = some 4)) = true := by
  decide +kernel

/-- Core 0 with a transfer's line of core 1 at its inbound port, its class 6 open or not. -/
def tInCopy (k : InKind) (shut : Bool) : State :=
  let s := tThree .c
  { s with cores := [(0, { tCore with inbound := [⟨4, 90, 1, 1, .copy, k, 0x1008, [1, 2], 9⟩], phases := if shut then [] else tCore.phases }),
      (1, { tCore with lidx := 1, copyQ := [{ tCopy 1 true 200 3 (some 90) none with id := 9, pending := 1 }] })] }

theorem witness_copyEngineSteps_inbound_copy :
    (∀ k ∈ [InKind.copyWrite, .copyRead 8 192], ∀ b,
      let s := tInCopy k b
      let r : InReq := ⟨4, 90, 1, 1, .copy, k, 0x1008, [1, 2], 9⟩
      let m := { tCopy 1 true 200 3 (some 90) none with id := 9, pending := 1 }
      inDue (getCore s 0) 100 = true ∧ inNext (getCore s 0) = some r ∧ r.party = .copy ∧ 0 ≠ r.fromCore ∧
        (getCore s 1).copyQ = [m] ∧ m.id = r.cmd ∧ m.far = 1 ∧ m.toLocal = true ∧ copyGathers m = false ∧
        phaseOk (getCore s 0) 6 100 false true 0x1008 2 = !b ∧ phaseOk (getCore s 0) 6 100 true false 0x1008 8 = !b) := by
  decide +kernel

theorem witness_copyEngineSteps_inbound_copy_clean : RunsClean { tInCopy .copyWrite true with turn := ⟨1, .c, 0⟩ } 0 :=
  ⟨rfl, rfl, _, rfl, rfl⟩

theorem witness_copyEngineSteps_inbound_clean : RunsClean { tIn .store true with turn := ⟨1, .c, 0⟩ } 0 := ⟨rfl, rfl, _, rfl, rfl⟩

/-- A command of the row engine of die 0. -/
def tRow (start : Option Nat) (row : Nat) (h : Option Word64) (entries : List (Nat × BinEntry)) : RowCmd := {
  id := 4, op := 0, core := 0, lidx := 0, issued := 90, bound := 300, n := 4, rb := 64, idx := 0x1000, loc := 0x2000, table := 0, handle := h,
  stride := 64, trows := 10, win0 := 100, wlen := 400, nw := 2, cap := 10, fillAt := none, barrier := none, start := start, finish := 100,
  list := [], row := row, entries := entries, fills := [], done := [], sums := [], times := [], lines := 0, fail := false, waits := 0, got := [],
  late := 0, closed := false }

/-- An entry of a package command. -/
def tEntry (write : Bool) : BinEntry := ⟨0x80001400, write, 100, .rowLine 0 4 1 0, none⟩

theorem witness_rowAndCollectiveSteps :
    (getRows { sC with rows := [(0, [tRow none 0 none []])] } 0 = [tRow none 0 none []] ∧ (tRow none 0 none []).issued ≤ 100) ∧
    ((tRow (some 90) 4 none []).start ≠ none ∧ (tRow (some 90) 4 none []).n ≤ 4 ∧ (tRow (some 90) 4 none []).finish ≤ 100) ∧
    (100 ≤ (tRow (some 90) 0 (some 5) [(5, tEntry false)]).finish ∧ (tEntry false).since ≤ 100 ∧
      (binSection { sC with rows := [(0, [tRow (some 90) 0 (some 5) [(5, tEntry false)]])] } 5 0).length < 64) := by
  decide +kernel

/-- Row 1 of a command of four on a scratchpad table of three rows, its index list given. -/
def tApply (op : Nat) (list : List Nat) (table : Nat) : RowCmd := { tRow (some 90) 1 none [] with op := op, list := list, table := table, trows := 3 }

/-- The package with such a command, on a core with class 4 open or not. -/
def tApplyState (r : RowCmd) (shut : Bool) : State :=
  { tState .c (fun c => { c with phases := if shut then [] else c.phases }) with rows := [(0, [r])] }

/-- A row whose local rights fail, one skipped, one whose table row ends past 2^21, and one that is applied, for each operation. -/
theorem witness_rowAndCollectiveSteps_rows :
    (∀ op, op < 3 → let r := tApply op [0, 2, 1, 0] 0x3000
      getRows (tApplyState r false) 0 = [r] ∧ r.start = some 90 ∧ r.handle = none ∧ r.row < r.n ∧ 90 + (((r.row + 1) * r.rb + 255) / 256 - 1) ≤ 100 ∧
        phaseOk (getCore (tApplyState r true) 0) 4 100 (decide (op ≠ 0)) (decide (op = 0)) (r.loc + r.row * r.rb) r.rb = false ∧
        phaseOk (getCore (tApplyState r false) 0) 4 100 (decide (op ≠ 0)) (decide (op = 0)) (r.loc + r.row * r.rb) r.rb = true ∧
        (tApply op [0, 3, 1, 0] 0x3000).trows ≤ (tApply op [0, 3, 1, 0] 0x3000).list.getD 1 0 ∧
        r.list.getD 1 0 ≠ 2 ^ 32 - 1 ∧ ¬r.trows ≤ r.list.getD 1 0 ∧ physOf (tApplyState r false) 0 0 = 0 ∧
        0x3000 + 2 * r.stride + r.rb ≤ 2 ^ 21 ∧ ¬(0x1FFF80 + 2 * r.stride + r.rb ≤ 2 ^ 21) ∧
        phaseOk (getCore (tApplyState r false) 0) 4 100 (decide (op ≠ 1)) (decide (op ≠ 0)) (0x3000 + 2 * r.stride) r.rb = true) := by
  decide +kernel

theorem witness_rowAndCollectiveSteps_rows_clean :
    RunsClean { tApplyState (tApply 0 [0, 2] 0x3000) true with turn := ⟨0, .c, 0⟩ } 0 := ⟨rfl, rfl, _, rfl, rfl⟩

/-- A participant of a collective on a core. -/
def tPart (core : Nat) : CollPart := ⟨core, 0, core, 90, 500, [], 0, 0, 3, [], 0, []⟩

theorem witness_rowAndCollectiveSteps_coll :
    (let i : Coll := ⟨7, 0, 0, some 0, 0, 6, 0, 0, [tPart 0, tPart 1], some 100, false, some 101⟩
     i.kind = 6 ∧ i.cancelled = false ∧ (i.aborts.any fun k => decide (k ≤ 100)) = false ∧ (i.finish.any fun f => decide (f ≤ 100)) = true ∧
       (∀ p ∈ i.parts, p.waits = 0) ∧ (i.parts.map (·.core)).Nodup) ∧
    (let i : Coll := ⟨7, 3, 0, none, 0, 2, 0, 0, [tPart 0, tPart 1], none, true, none⟩
     i.cancelled = true ∧ i.launch = none ∧ ∃ p ∈ i.parts, p.core = 1) ∧
    let i : Coll := ⟨7, 3, 0, none, 0, 2, 0, 0, [tPart 0, tPart 1], none, false, some 100⟩
    (i.aborts.any fun k => decide (k ≤ 100)) = true ∧ i.launch = none ∧ ∃ p ∈ i.parts, p.core = 0 := by
  decide +kernel

/-- A descriptor of the kinds that move data (Table 18.10): COUNT or the rows, buffers at 0x1000 and 0x2000, RBIN, META_OUT, META_IN, the list
of ranks at 0x5000. -/
def tData (count rbin : Nat) : List Word64 :=
  [0, BitVec.ofNat 64 count, 0x1000, 0x2000, 0, 0, BitVec.ofNat 64 (rbin * 2 ^ 42 + 0x4000 * 2 ^ 21 + 0x3000), BitVec.ofNat 64 (2 ^ 21 + 0x5000)]

/-- An instance of a kind of one launch, of three participants on distinct cores. -/
def tInst (kind count rbin : Nat) : Coll :=
  ⟨7, 0, 0, some 0, 0, kind, 0, 0, [0, 1, 200].map fun p => { tPart p with desc := tData count rbin }, some 100, false, some 101⟩

/-- Two rows of 64 bytes for each participant, with their records, sent to ranks 1 and 1; every core has bins 0, of the drop rule, and 5, of
the trap rule, of CAPACITY 2 and 5. -/
def tRowsState (fill : Nat) (rec : Nat → Nat → List Byte) : State :=
  let s := tThree .c
  let core (k : Nat) : Core := { tCore with
    lidx := k, spad := memWrite (memWrite (memWrite [] 0x1000 (List.replicate 128 (BitVec.ofNat 8 (k + 1)))) 0x3000 (rec k 0 ++ rec k 1)) 0x5000
      (leBytes 4 1 ++ leBytes 4 1),
    regs := { tCore.regs with bins := [(0, tBin (tDef 0x8000 1 2 0 15 15 15 0 15) fill), (5, tBin (tDef 0xD000 1 5 2 15 15 15 1 15) 0)] } }
  let kept := memWrite (core 1).spad 0x4000 ((List.range 6).flatMap fun j => rec (j / 2) (j % 2))
  { s with cores := [(0, core 0), (1, { core 1 with spad := kept }), (200, core 2)] }

/-- A record of a row, its token and weight. -/
def tRec (k j : Nat) : List Byte := leBytes 4 (10 * k + j) ++ leBytes 4 0 ++ leBytes 4 0x3F800000 ++ leBytes 4 0

/-- Whether an instance of one launch is due, with its buffers in scratchpads. -/
def tDue (i : Coll) : Bool :=
  !i.cancelled && (i.aborts.any fun k => decide (100 < k)) && (i.finish.any fun f => decide (f ≤ 100)) && (i.parts.all fun p => decide (p.waits = 0)) &&
    decide (i.parts.map (·.core)).Nodup && i.launch.isSome && i.parts.all fun p => !(partDesc p).inb.mem && !(partDesc p).outb.mem

/-- Instances of kinds 0 to 3; an all-to-all whose receiver of rank 1 keeps two of six rows and loses four, or, in a bin of the trap rule, one
too many for CAPACITY 5; a combine whose records each have the row that a receiver of rank 1 returns. -/
theorem witness_rowAndCollectiveSteps_data :
    (∀ k, k < 4 → let i := tInst k 64 0
      tDue i = true ∧ i.kind < 4 ∧ i.parts ≠ [] ∧ ∀ p ∈ i.parts, (partDesc p).count = 64) ∧
    (∀ b ∈ [0, 5], let i := tInst 4 (2 + 2 ^ 16) b
      tDue i = true ∧ ∀ p ∈ i.parts, (partDesc p).rb = 64 ∧ (partDesc p).nrows = 2 ∧
        (getBin (getCore (tRowsState 0 tRec) p.core).regs.bins (partDesc p).rbin).rb = 64) ∧
    (∀ e ∈ (tInst 4 (2 + 2 ^ 16) 0).parts.zipIdx, (partSends (tRowsState 0 tRec) e.1 e.2 3 []).map (·.dst) = [some 1, some 1]) ∧
    (let bin (b : Nat) : Bin := getBin (getCore (tRowsState 0 tRec) 1).regs.bins b
     (bin 0).rule = 0 ∧ (bin 0).cap = 2 ∧ (bin 5).rule ≠ 0 ∧ (bin 5).cap = 5) := by
  decide +kernel

theorem witness_rowAndCollectiveSteps_combine :
    let i := tInst 5 (2 + 2 ^ 16) 0
    let s := tRowsState 6 tRec
    let u : State := { s with cores := s.cores.map fun e => (e.1, { e.2 with regs := { e.2.regs with
      bins := [(0, tBin (tDef 0x8000 1 7 0 15 15 15 0 15) (if e.1 = 1 then 6 else 0))] } }) }
    tDue i = true ∧ ∀ p ∈ i.parts, ∀ j, j < 2 →
      let record := spadRead (getCore u p.core) 1000 .coll 100 ((partDesc p).metaIn + 16 * j) 16
      (partDests u p 3)[j]? = some (some 1) ∧ leField record 12 1 % 2 = 0 ∧
        ((returnedRows u i).filter fun (b : Nat × List Byte × List Byte) => decide (b.2.1 = record)).map (·.1) = [1] := by
  decide +kernel

theorem witness_rowAndCollectiveSteps_clean : RunsClean { tThree .c with turn := { (tThree .c).turn with core := 1 } } 0 :=
  ⟨rfl, rfl, _, rfl, rfl⟩

/-- A collective descriptor (Table 18.10): BOUND, SQUARE 0, COUNT, buffers at 0x1000 and 0x2000, no barrier, DBASE, MIN and MOUT, DEST, DMODE. -/
def tCollDesc (dbase mi mo dest dm : Nat) : List Word64 :=
  [BitVec.ofNat 64 (900 * 2 ^ 24), 16, 0x1000, 0x2000, 0, BitVec.ofNat 64 dbase, BitVec.ofNat 64 (mi + mo * 2 ^ 21),
   BitVec.ofNat 64 (dest + dm * 2 ^ 21)]

/-- C of a launch of three cores, with such a descriptor at 64 of its control memory. -/
def tCollState : State :=
  let s := tThree .c
  { s with cores := s.cores.map fun e => (e.1, { e.2 with ctl := memWrite [] 64 ((tCollDesc 900 0 0 0 0).flatMap fun w => leBytes 8 w.toNat) }) }

theorem witness_collWordsComplete :
    (tCollState.turn.q = .c ∧ NoHazard tCollState (destHere tCollState 3 :: [(collDesc (tCollDesc 900 0 0 0 0)).inb,
        (collDesc (tCollDesc 900 0 0 0 0)).outb].filterMap fun b => if b.mem then some (.h b.h) else none) [] ∧
      ctlDescriptor tCollState 3 0 8 = .ok (tCollDesc 900 0 0 0 0, false) ∧ (1#2).toNat < 2 ∧ (2#2).toNat < 3) ∧
    ((collDesc (tCollDesc 900 0 0 0 0)).dbase + (100#32).toNat) % 2 ^ 32 = tCollState.dtime % 2 ^ 32 ∧
    (((runningOn tCollState 0).map fun r => r.2.2.dentry).getD 0 + (100#32).toNat) % 2 ^ 32 = tCollState.dtime % 2 ^ 32 ∧
    (∀ k, k < 7 → k ≠ 4 → k ≠ 5 → collChecks k true (collDesc (tCollDesc 900 0 0 0 0)) tCollState = .ok ()) := by
  simp only [NoHazard]; decide +kernel

/-! ### Well-formedness: for each check an ill-formed term, which is refused, and the nearest well-formed one -/

/-- Whether each pair's first term is refused and its second accepted. -/
def refuses (l : List (Instr × Instr)) : Bool := l.all fun e => !e.1.wf && e.2.wf

/-- The selecting fields of C's, L's and S's words (R257 to R259). -/
theorem test_wf_scalar : refuses [
    (.add ⟨0, true⟩ 3 1 2, .add ⟨0, false⟩ 3 1 2), (.clz ⟨0, true⟩ 3 1, .clz ⟨7, false⟩ 3 1), (.addi ⟨0, true⟩ 3 1 2, .addi ⟨0, false⟩ 3 1 2),
    (.shli ⟨0, true⟩ 3 1 2, .shli ⟨0, false⟩ 3 1 63), (.b ⟨0, true⟩ 5, .b ⟨0, false⟩ 5), (.nop ⟨0, true⟩, .nop ⟨0, false⟩),
    (.sext tHdr 3 1 3, .sext tHdr 3 1 2), (.zext tHdr 3 1 31, .zext tHdr 3 1 0), (.ld tHdr 3 1 28 0, .ld tHdr 3 1 29 0),
    (.st tHdr 3 1 31 7, .st tHdr 3 1 31 6), (.atadd tHdr 3 1 28, .atadd tHdr 3 1 30), (.atcas tHdr 31 1 31, .atcas tHdr 30 1 31),
    (.atcas tHdr 30 1 0, .atcas tHdr 30 1 29), (.loop tHdr 1 0, .loop tHdr 1 1), (.loop tHdr 1 16384, .loop tHdr 1 16383),
    (.boput tHdr 1 3, .boput tHdr 1 2), (.tkput tHdr 12 1, .tkput tHdr 11 1), (.tkget tHdr 11 0, .tkget tHdr 11 15),
    (.bbexp tHdr 1 0x8000000, .bbexp tHdr 1 0x7FFFFFF), (.binfill tHdr 1 2 4, .binfill tHdr 1 2 3), (.bindef tHdr 16 0, .bindef tHdr 15 0),
    (.phend tHdr 7, .phend tHdr 6), (.nslice tHdr 1 3 1, .nslice tHdr 1 3 0), (.nslice ⟨0, true⟩ 1 4 1, .nslice tHdr 1 4 1),
    (.phase tHdr 7 1 0, .phase tHdr 6 1 0), (.li ⟨0, true⟩ 1 5, .li tHdr 1 5), (.fence ⟨0, true⟩ 0 0, .fence tHdr 7 3),
    (.binrst ⟨0, true⟩ 1, .binrst tHdr 15), (.hinv ⟨0, true⟩ 1, .hinv tHdr 31), (.trap ⟨0, true⟩ 1, .trap tHdr 1),
    (.boget ⟨0, true⟩ 1, .boget tHdr 1), (.nest ⟨0, true⟩ 1 0, .nest tHdr 1 0)] = true := by decide

/-- Those of the transfer, collective, matrix and vector words (R260 to R268). -/
theorem test_wf_engines : refuses [
    (.collAllred tHdr 1 0 2 0 0, .collAllred tHdr 1 0 1 2 0), (.collReduce tHdr 1 0 0 3 0, .collReduce tHdr 1 0 0 2 0),
    (.collBcast ⟨0, true⟩ 1 0 0, .collBcast tHdr 1 0 0), (.rowg ⟨0, true⟩ 1 0, .rowg tHdr 1 0),
    (.vld (tXfer 1 2 3 1 0 0 0), .vld (tXfer 1 2 3 0 0 0 0)), (.vst (tXfer 1 2 3 1 0 0 0), .vst (tXfer 1 2 3 0 0 0 0)),
    (.copy (tXfer 1 2 3 0 0 0x300 0), .copy (tXfer 1 2 3 0 0 0x280 0)), (.obld (tXfer 1 2 3 4 0 0 0), .obld (tXfer 1 2 3 3 0 0 0)),
    (.route (tXfer 1 2 3 16 0 0 0), .route (tXfer 1 2 3 15 0 0 0)),
    (.mma { tMat 0 0 0 false with asrc := 2 }, .mma { tMat 0 0 0 false with asrc := 1 }),
    (.mmap { tMat 0 0 0 false with bsrc := 2 }, .mmap { tMat 0 0 0 false with bsrc := 1 }),
    (.mma { tMat 0 0 0 false with top0 := 1 }, .mma (tMat 0 0 0 false)), (.mma { tMat 0 0 0 false with top5 := 1 }, .mma (tMat 0 0 0 true)),
    (.mret { tMat 0 0 0 false with asrc := 1 }, .mret (tMat 0 0 0 false)), (.mdrain { tMat 0 0 0 false with bsrc := 1 }, .mdrain (tMat 0 0 0 false)),
    (.mdrain { tMat 0 0 0 false with top0 := 4 }, .mdrain (tMat 5 6 7 false)),
    (.vadd ⟨0, 0, 0, 0, 0, 0, 0, 0, 0, 0, 0, 0, 0, 0, 1⟩, .vadd ⟨0, 0, 0, 0, 0, 0, 0, 0, 0, 0, 0, 0, 0, 0, 0⟩),
    (.topkc ⟨0, 0, 0, 0, 0, 0, 0, 0, 15, 0, 0, 0, 0, 0, 0⟩, .topkc ⟨0, 0, 0, 0, 0, 0, 0, 0, 14, 0, 0, 0, 0, 0, 0⟩)] = true := by decide

/-- Those of pattern and channel words (R128, R192 to R196); a step of a device is no word. -/
theorem test_wf_programs : refuses [
    (.pdim 0 12 0 0, .pdim 0 11 0 0), (.pdim 0 0 12 0, .pdim 0 0 11 1), (.pband 0 0 0, .pband 0 1 0), (.pdil 0 0 0, .pdil 0 0 1),
    (.phash 0 0 0, .phash 0 1 0), (.pemit 0 0, .pemit 0 1), (.pemit 0 513, .pemit 0 512), (.pend 1, .pend 0),
    (.dact 0 0 0, .dact 1 0 0), (.dact 1 0 49152, .dact 1 0 49151), (.dpre 0 0, .dpre 1 0), (.drd 1 0 49152 0 0 0, .drd 1 0 49151 0 0 0),
    (.dwr 0 0 0 0 0 0, .dwr 1 0 0 15 511 7), (.dref 0, .dref 1023), (.drefPb 0 1, .drefPb 1 1), (.dnop 0, .dnop 1), (.dnopEnd 0, .dnopEnd 1),
    (.dind 1 2, .dind 1 1), (.dind 0 1, .dind 1 0), (.dloop 0 1, .dloop 1 1), (.dloop 1 0, .dloop 1 65535),
    (.frameStart, .nop tHdr), (.registerResultLanding 0 .c, .nop tHdr), (.vfReset 1, .nop tHdr), (.reservedOpcode 0, .nop tHdr)] = true := by decide

/-! ### What the decoder refuses, by name -/

/-- The name a word is refused under. -/
def refusal (ps : List Word32) : Option DecodeError := match decode ps with | .ok _ => none | .error e => some e

/-- Opcode 0 of each class, C's opcode 63, and words cut short (R255 to R257). -/
theorem test_refuses_opcode :
    refusal [0x00000000] = some .opcode ∧ refusal [0x00000001, 0] = some .opcode ∧ refusal [0x00000002, 0, 0] = some .opcode ∧
    refusal [0x00000003, 0, 0, 0, 0, 0] = some .opcode ∧ refusal [0x000007E0] = some .opcode ∧
    refusal [] = some .short ∧ refusal [0x00005021] = some .short ∧ refusal [0x20043022, 0] = some .short := by decide +kernel

/-- FN 28 of the ALU's table of functions, which Table 10.4 leaves reserved. -/
theorem test_refuses_function : refusal [0xE0823020] = some .function := by decide +kernel

/-- What a pattern word, and a channel word, is refused under: PEND with an operand, an unassigned operation, LEN of another class, DACT
with parcel 1's high half set (R128, R196). -/
theorem test_refuses_layout :
    (match decodePattern 0x00080120 with | .ok _ => none | .error e => some e) = some .layout ∧
    (match decodePattern 0x00000140 with | .ok _ => none | .error e => some e) = some .opcode ∧
    (match decodeChannel 0x0000012001414020 with | .ok _ => none | .error e => some e) = some .layout ∧
    (match decodeChannel 0x0001012001414021 with | .ok _ => none | .error e => some e) = some .layout := by decide +kernel

/-! ### Results: the manual's own worked values -/

/-- What a word of C leaves for register 3 where 1 and 2 hold a and b: the result in flight. -/
def tResult (i : Instr) (a b : Word64) : Option Word64 :=
  match exec i (tState .c fun c => { c with regs := { c.regs with s := [(1, ⟨a, true⟩), (2, ⟨b, true⟩)] } }) with
  | .next t => (getCore t 0).flight.findSome? fun f => match f.dest, f.val with | .reg .c 3, .word v _ => some v | _, _ => none
  | _ => none

/-- R378, R400, R412. -/
theorem test_result_mul_div :
    tResult (.mul tHdr 3 1 2) (-1) 1 = some 0xFFFFFFFFFFFFFFFF ∧ tResult (.mulh tHdr 3 1 2) (-1) 1 = some 0xFFFFFFFFFFFFFFFF ∧
    tResult (.mulhn tHdr 3 1 2) (-1) 1 = some 0 ∧ tResult (.div tHdr 3 1 2) (-7) 2 = some (-3) ∧
    tResult (.divn tHdr 3 1 2) 0xFFFFFFFFFFFFFFF9 2 = some 0x7FFFFFFFFFFFFFFC ∧ tResult (.rem tHdr 3 1 2) (-7) 2 = some (-1) ∧
    tResult (.remn tHdr 3 1 2) 0xFFFFFFFFFFFFFFF9 2 = some 1 ∧ tResult (.div tHdr 3 1 2) 0x8000000000000000 (-1) = some 0x8000000000000000 ∧
    tResult (.rem tHdr 3 1 2) 7 0 = some 7 := by decide +kernel

/-- R359, R393, R414, R422. -/
theorem test_result_bits :
    tResult (.clz tHdr 3 1) 0xF0 0 = some 56 ∧ tResult (.ctz tHdr 3 1) 0xF0 0 = some 4 ∧ tResult (.popc tHdr 3 1) 0xF0 0 = some 4 ∧
    tResult (.clz tHdr 3 1) 0 0 = some 64 ∧ tResult (.min tHdr 3 1 2) (-1) 1 = some (-1) ∧ tResult (.minn tHdr 3 1 2) (-1) 1 = some 1 ∧
    tResult (.shl tHdr 3 1 2) 0x8000000000000001 1 = some 2 ∧ tResult (.shr tHdr 3 1 2) 0x8000000000000001 1 = some 0x4000000000000000 ∧
    tResult (.sha tHdr 3 1 2) 0x8000000000000001 1 = some 0xC000000000000000 ∧ tResult (.rot tHdr 3 1 2) 0x8000000000000001 1 = some 3 ∧
    tResult (.sext tHdr 3 1 1) 0x12348765 0 = some 0xFFFFFFFFFFFF8765 ∧ tResult (.zext tHdr 3 1 1) 0x12348765 0 = some 0x8765 := by
  decide +kernel

/-! ### Witnesses: patterns and channels -/

/-- Register 0: a 4 × 8 pattern; 1: a 2 × 2 one; 2: of 1,024 rows, whose product with 0 is too large; 3 has no dimensions. -/
def tPat (run : PatRun) : State := tState .x fun c => { c with regs := { c.regs with trellis := { Trellis.zero with run := run, g :=
  [(0, ⟨some (4, 8), 0, 1, 0, some [[0, 1], [2, 3], [4, 5], [6, 7]]⟩), (1, ⟨some (2, 2), 0, 1, 0, some [[0], [1]]⟩),
   (2, ⟨some (1024, 4), 0, 1, 0, some []⟩)] } } }

/-- The pattern registers of such a state. -/
def tTr (run : PatRun) : Trellis := (turnCore (tPat run)).regs.trellis

/-- A program that has emitted register 0 with two columns a row. -/
def tEmitted : PatRun := { PatRun.zero with emitted := some (0, 2), rows := [[0, 1], [2, 3], [0, 1], [2, 3]], dims := (4, 4) }

theorem witness_patternWordsComplete :
    ((tTr PatRun.zero).run.ended = false ∧ (tTr PatRun.zero).run.cause = none ∧ (11#4).toNat ≤ 11 ∧ 12 ≤ (12#4).toNat) ∧
    (1 ≤ (1#6).toNat ∧ (∀ p, (getG (tTr PatRun.zero) 3).dims = some p → (2047#11).toNat < p.2)) ∧
    ((getG (tTr PatRun.zero) 0).dims = some (4, 8) ∧ 1 ≤ (8#11).toNat ∧ (8#11).toNat ≤ 8 ∧ 4 % (4#11).toNat = 0 ∧ (4#11).toNat * 8 % 4 = 0) ∧
    (let cols (r : Nat) : List Nat := (List.range 8).map fun k => (r * 8 / 4 + 0 + 1 * k) % 8
     ((List.range 4).all fun r => noRepeats (cols r)) = true) ∧
    (∃ rows, hashRows 63 8 8 (List.range 4) = some rows) ∧
    ((getG (tTr PatRun.zero) 1).pat ≠ none ∧ (getG (tTr PatRun.zero) 1).dims = some (2, 2) ∧ (getG (tTr PatRun.zero) 0).pat ≠ none ∧
      4 * 2 ≤ 2048 ∧ 8 * 2 ≤ 2048) ∧
    ((getG (tTr PatRun.zero) 2).pat ≠ none ∧ (getG (tTr PatRun.zero) 2).dims = some (1024, 4) ∧ 2048 < 1024 * 4) ∧
    (∀ row ∈ enumRows (getG (tTr PatRun.zero) 0), row.length ≤ (2#10).toNat) ∧ (512#10).toNat ≤ 512 := by
  refine ⟨?_, ⟨by decide, ?_⟩, ?_, ?_, ?_⟩
  · decide +kernel
  · intro p hp
    exact absurd (hp.symm.trans (by decide +kernel : (getG (tTr PatRun.zero) 3).dims = none)) (by simp)
  · decide +kernel
  · decide +kernel
  · exact ⟨Option.isSome_iff_exists.mp (by decide +kernel), by decide +kernel⟩

/-- Inverting 2 columns of 4 rows works out where each row is named as often as any other. -/
theorem witness_patternWordsComplete_run :
    ((tTr tEmitted).run.emitted = some (0, 2) ∧
      ∀ c ∈ transposeRows (tTr tEmitted).run.rows 4 2, c.length = ((transposeRows (tTr tEmitted).run.rows 4 2).headD []).length) ∧
    (∃ c ∈ transposeRows [[0, 1], [2, 1], [0, 1], [2, 3]] 4 2, c.length ≠ ((transposeRows [[0, 1], [2, 1], [0, 1], [2, 3]] 4 2).headD []).length) ∧
    ((tTr tEmitted).run.emitted ≠ none ∧ (tTr PatRun.zero).run.emitted = none) ∧
    ((tTr { PatRun.zero with ended := true }).run.ended = true ∧ (tTr { PatRun.zero with cause := some 0x60 }).run.cause ≠ none) ∧
    ∃ row, hashRow 63 3 8 8 1024 0 [] = some row := by
  refine ⟨?_, ?_, ?_, ?_, Option.isSome_iff_exists.mp (by decide +kernel)⟩ <;> decide +kernel

/-- Channel 5's program of launch 0, on core 0 of it. -/
def tChanRun : ChanRun := ⟨0, 50, 0, 0, 3, 100, none⟩

/-- Channel 5 running it, every bank refreshed in cycle 60, changed by f. -/
def tChan (f : Channel → Channel) : Channel :=
  f { Channel.zero with run := some tChanRun, lastRef := (List.range 16).map fun i => (i, 60) }

/-- The address that DRD and DWR of row 0x120 of bank 5 and column 0 of channel 5 name. -/
def tAddr : Nat := 0x120 * 2 ^ 23 + 5 * 2 ^ 19 + 5 * 2 ^ 10

/-- The package with such a channel and turn, in a cycle; core 0 has a line to store in slot 2, and its slot 1 full. -/
def tChanState (f : Channel → Channel) (cyc : Nat) : State :=
  { tState .c (fun c => { c with slots := { c.slots with out := [(2, [tLine tAddr 0])], land := [(1, List.replicate 64 (tLine 0 0))] } }) with
    chans := [(5, tChan f)], turn := ⟨0, .c, 5⟩, cyc := cyc }

/-- An entry of a channel's bin. -/
def tPort5 (w : Bool) : BinEntry := ⟨0x80001400, w, 90, .rowLine 0 4 1 0, none⟩

theorem witness_channelWordsComplete :
    ((tChan id).run = some tChanRun ∧ getBank (tChan id) 15 = .closed ∧ gapsOk (tChan id) kDact 15 100 = true ∧
      isRefreshing (tChan id) 0 = false ∧ (∀ k, k < 16 → isRefreshing (tChan id) k = false ∧ (isOpen (tChan id) k = true → gapsOk (tChan id) kDpre k 100 = true)) ∧
      allClosed (tChan id) = true ∧ gapsOk (tChan id) kDref 0 100 = true ∧ gapsOk (tChan id) kDrefPb 15 100 = true) ∧
    (let s := tChanState (fun c => { c with banks := [(5, .opened 0x120)], recent := [⟨0, 5, 88⟩] }) 100
     let c := getChan s s.turn.chan
     getBank c 5 = .opened 0x120 ∧ gapsOk c kDrd 5 100 = true ∧ landCount s 0 0 < 64 ∧ gapsOk c kDwr 5 100 = true ∧
       outHead (getCore s 0) 2 100 = some (tLine tAddr 0) ∧ isOpen c 5 = true) ∧
    (let s := tChanState (fun c => { c with bin1 := [tPort5 false] }) 100
     let c := getChan s s.turn.chan
     allClosed c = true ∧ (1#3) ≠ 0 ∧ c.bin1 = [tPort5 false] ∧ s.ports = []) ∧
    (let s := tChanState (fun c => { c with bin0 := [(2, [tPort5 true])] }) 100
     allClosed (getChan s 5) = true ∧ bin0Die s 5 = some 2 ∧ binSection s 5 2 = [tPort5 true]) ∧
    (bin0Die (tChanState id 100) 5 = none) := by
  decide +kernel

theorem witness_channelTimingTraps_clean :
    ChanRunsClean (tChanState id 100) 5 0 ∧
    ChanRunsClean (tChanState (fun c => { c with banks := [(5, .opened 0x120), (3, .refreshing 120)], recent := [⟨0, 5, 80⟩] }) 3180) 5 0 :=
  ⟨⟨⟨_, rfl, rfl⟩, _, rfl, rfl⟩, ⟨_, rfl, rfl⟩, _, rfl, rfl⟩

theorem witness_channelTimingTraps :
    (let c := tChan fun c => { c with banks := [(5, .opened 0x120), (3, .refreshing 120)] }
     getBank c 5 ≠ .closed ∧ getBank c 3 ≠ .closed ∧ getBank c 5 ≠ .opened 0x121 ∧ allClosed c = false ∧ isRefreshing c 3 = true) ∧
    (let f : DramCmd := ⟨kDact, 5, 62⟩
     let c := tChan fun c => { c with recent := [f] }
     getBank c 5 = .closed ∧ f ∈ c.recent ∧ 100 < f.cyc + gapBetween f.kind kDact f.bank 5) ∧
    (let f : DramCmd := ⟨kDpre, 5, 89⟩
     let c := tChan fun c => { c with recent := [f] }
     getBank c 5 = .closed ∧ f ∈ c.recent ∧ 100 < f.cyc + gapBetween f.kind kDrefPb f.bank 5) ∧
    (let c := tChan fun c => { c with recent := [⟨kDact, 1, 85⟩, ⟨kDact, 2, 88⟩, ⟨kDrefPb, 3, 91⟩, ⟨kDact, 4, 94⟩] }
     getBank c 5 = .closed ∧
       4 ≤ (c.recent.filter fun r => (r.kind = kDact || r.kind = kDrefPb) && decide (100 < r.cyc + 16)).length) ∧
    (let f : DramCmd := ⟨kDact, 5, 74⟩
     let c := tChan fun c => { c with banks := [(5, .opened 0x120)], recent := [f] }
     isOpen c 5 = true ∧ f ∈ c.recent ∧ 100 < f.cyc + gapBetween f.kind kDpre f.bank 5 ∧ ∀ k, k < 16 → isRefreshing c k = false) ∧
    (let f : DramCmd := ⟨kDact, 5, 89⟩
     let c := tChan fun c => { c with banks := [(5, .opened 0x120)], recent := [f] }
     getBank c 5 = .opened 0x120 ∧ f ∈ c.recent ∧ 100 < f.cyc + gapBetween f.kind kDrd f.bank 5 ∧
       100 < f.cyc + gapBetween f.kind kDwr f.bank 5) ∧
    (let f : DramCmd := ⟨kDpre, 0, 89⟩
     let c := tChan fun c => { c with recent := [f] }
     allClosed c = true ∧ f ∈ c.recent ∧ 100 < f.cyc + gapBetween f.kind kDref f.bank 0) ∧
    (let s := tChanState (fun c => { c with banks := [(5, .opened 0x120)] }) 100
     (getChan s 5).run = some tChanRun ∧ gapsOk (getChan s 5) kDwr 5 100 = true ∧
       outHead (getCore s ((getLaunch s tChanRun.launch).cores.getD 0 0)) 3 100 = none ∧
       outHead (getCore s ((getLaunch s tChanRun.launch).cores.getD 0 0)) 2 100 = some (tLine tAddr 0) ∧
       (tLine tAddr 0).addr ≠ 0x120 * 2 ^ 23 + 5 * 2 ^ 19 + 5 * 2 ^ 10 + 1 * 64) ∧
    (let s := tChanState (fun c => { c with banks := [(5, .opened 0x120)] }) 100
     getBank (getChan s 5) 5 = .opened 0x120 ∧ gapsOk (getChan s 5) kDrd 5 100 = true ∧
       64 ≤ landCount s ((getLaunch s tChanRun.launch).cores.getD 0 0) 1) := by
  decide +kernel

/-- The seal of a channel whose segment runs on, and of one whose segment a trap has ended. -/
theorem witness_channelEvents_seal :
    LaunchClean (tChanState id 64512) tChanRun.launch ∧
    ¬LaunchClean (tLaunch (fun l => { l with run := none }) (tChanState id 64512)) tChanRun.launch :=
  ⟨⟨_, rfl, rfl⟩, fun ⟨_, h, _⟩ => by simp [tChanState, tLaunch, tState, getLaunch, smGet, placedLaunch, tChanRun] at h⟩

/-- A line on its way to slot 2, to land in cycle 100. -/
def tFlight (ot : BitVec 8) : ChanFlight := ⟨100, 0, 2, ⟨0x80001400, ⟨7, 0, ot⟩, 0⟩, 0, 2, 78⟩

theorem witness_channelEvents :
    ((tFlight 1).due ≤ 100 ∧ (tFlight 1).line.line.ot.getLsbD 6 = false) ∧
    ((tFlight 0x41).due ≤ 100 ∧ (tFlight 0x41).line.line.ot.getLsbD 6 = true ∧ (tFlight 0x41).slot ≠ 7 ∧
      (getChan (tChanState (fun c => { c with flight := [tFlight 0x41] }) 100) 5).flight = [tFlight 0x41] ∧
      ((getLaunch (tChanState id 100) 0).run.map (·.trap)) = some none) ∧
    ((tFlight 0x41).slot = 2 ∧ ({ tFlight 0x41 with slot := 7 } : ChanFlight).slot = 7) ∧
    ((tChan id).run ≠ none ∧ inGap (tChanState id 64512) = true ∧ inGap (tChanState id 64511) = false) ∧
    getBank (tChan fun c => { c with banks := [(3, .refreshing 100)] }) 3 = .refreshing 100 ∧
    getRef (tChan id) 15 + 3120 ≤ 3180 ∧
    closable false (tChan fun c => { c with run := none, banks := [(5, .opened 3)] }) 100 = some 5 ∧
    (let s := tChanState (fun c => { c with run := none }) 3180
     closable (inGap s) (getChan s 5) 3180 = none ∧ refreshWanted s (getChan s 5) = true ∧ refreshReady (getChan s 5) 3180 = true) ∧
    (let s := tChanState (fun c => { c with run := none, bin1 := [tPort5 false] }) 100
     remoteDue s (getChan s 5) = true ∧ s.ports = []) ∧
    leadInDue (tChan fun c => { c with leadIn := some 400 }) 100 = true ∧
    (let w : Window := ⟨88, tPort5 false, none, false⟩
     w.done = false ∧ w.entry.write = false ∧ w.line = none ∧ w.start + 12 ≤ 100) := by
  decide +kernel

/-! ### Witnesses: landings, overruns, traps, segments, frames -/

/-- A result due in cycle 100, real or not by then, and waiting for another core's reply or not. -/
def tLanding (awaits : Option Nat) (real : Nat) : Landing := ⟨.c, .reg .c 3, 100, .word 9 true, awaits, real, 90⟩

/-- A core whose C stream has not ended. -/
def tOn (f : Core → Core) : State := tState .c fun c => f { c with c := { c.c with ended := false } }

theorem witness_landingsComplete :
    (let f := tLanding none 100
     (getCore (tOn fun c => { c with flight := [f] }) 0).flight = [f] ∧
       landingDue (getCore (tOn fun c => { c with flight := [f] }) 0) 100 f = true ∧ f.awaits = none ∧ f.real ≤ 100) ∧
    (let c := getCore (tOn fun c => { c with flight := [tLanding (some 4) 0, tLanding none 120] }) 0
     (∃ g ∈ c.flight, g.q = .c ∧ landingDue c 100 g = true) ∧ (streamOf c .c).ended = false ∧
       ∀ g ∈ c.flight, g.q = .c ∧ landingDue c 100 g = true ∧ landingReady 100 g = false) ∧
    (let f := tLanding none 100
     let g := { f with val := .word 7 true, real := 99 }
     let late := tLanding none 101
     let c := getCore (tOn fun c => { c with flight := [f, g] }) 0
     c.flight = [f, g] ∧ f.dest = g.dest ∧ f.due = g.due ∧ landingDue c 100 f = true ∧ landingReady 100 f = true ∧
       landingReady 100 g = true ∧ late.dest = g.dest ∧ late.due = g.due ∧ landingDue c 100 late = true ∧ landingReady 100 late = false) ∧
    (let x : XlateLanding := ⟨3, 100, 0x0310000840000113, false, 0x5000⟩
     x.due ≤ 100 ∧ x.outside = false) ∧
    (let x : XlateLanding := ⟨3, 100, 0, true, 0x5000⟩
     (getCore (tOn fun c => { c with xlate := [x] }) 0).xlate = [x] ∧ x.due ≤ 100 ∧ x.outside = true ∧
       (getCore (tOn fun c => { c with xlate := [x] }) 0).launch = some 0) ∧
    let u : PendingPush := ⟨9, true, 100, [], 77⟩
    (getCore (tOn fun c => { c with pushes := [u] }) 0).pushes = [u] ∧ u.due ≤ 100 := by
  decide +kernel

theorem witness_landingsComplete_clean : LaunchClean (tOn fun c => { c with xlate := [⟨3, 100, 0, true, 0x5000⟩] }) 0 := ⟨_, rfl, rfl⟩

/-- A segment of the cost, with a slip allowance of 64. -/
def tSeg (cost : Nat) : Segment := ⟨cost, 64, [0, 0, 0, 0], [], []⟩

/-- A COPY of cycle 50 with a bound of 50, and a matrix word of cycle 80 with one of 20; `fixed` lines were corrected. -/
def tOver (fixed : Nat) : State := tLaunch (fun l => { l with segs := [tSeg 100] }) <| tState .c fun c => { c with
  copyQ := [{ tCopyCmd with issued := 50, bound := 50, fixed := fixed }], matQ := [{ tMatCmd 1 none [] with issued := 80, bound := 20 }],
  c := { c.c with stallRun := 64, awaits := .token 3 } }

theorem witness_overrunsTrap :
    ((getLaunch (tOver 0) 0).segs[0]? = some (tSeg 100) ∧ (getLaunch (tOver 0) 0).run = some ⟨0, 0, 900, 64512, none, [], [], [], [], []⟩ ∧
      0 < (streamOf (getCore (tOver 0) 0) .c).stallRun ∧ (tSeg 100).slipa ≤ (streamOf (getCore (tOver 0) 0) .c).stallRun ∧
      (getCore (tOver 0) 0).launch = some 0 ∧ (getCore (tOver 0) 0).stopAt = none) ∧
    ((overBound (tOver 0) 0 .copy).isSome = true ∧ (overBound (tOver 0) 0 .matrix).isSome = true) ∧
    (∃ m ∈ (getCore (tOver 0) 0).copyQ, m.issued + m.bound + 80 * m.fixed ≤ 100) ∧
    (∃ m ∈ (getCore (tOver 0) 0).matQ, m.issued + m.bound ≤ 100) ∧
    (∀ m ∈ (getCore (tOver 1) 0).copyQ, 100 < m.issued + m.bound + 80 * m.fixed) ∧
    (∃ x, overBound (tOver 0) 0 .copy = some x ∧ (streamOf (getCore (tOver 0) 0) .c).awaits = .token 3) ∧
    ∀ m ∈ (getCore (tEngine { tMatCmd 1 none [] with issued := 81, bound := 20 } id) 0).matQ, 100 < m.issued + m.bound := by
  refine ⟨by decide +kernel, by decide +kernel, by decide +kernel, by decide +kernel, by decide +kernel, ⟨_, rfl, by decide +kernel⟩, ?_⟩
  decide +kernel

/-- The frame check of a segment entered in cycle 0, whose gap starts in cycle 64,512, in a cycle, under a cost. -/
theorem witness_overrunsTrap_frame :
    (getLaunch (tState .c id) 0).run = some ⟨0, 0, 900, 64512, none, [], [], [], [], []⟩ ∧
    (64512 ≤ 64512 ∨ 0 + (tSeg 64513).cost ≤ 64512) ∧ (64512 ≤ 100 ∨ 0 + (tSeg 100).cost ≤ 100) ∧
    (99 < 64512 ∧ 99 < 0 + (tSeg 100).cost) ∧ ∃ g, (getLaunch (tState .c id) 0).segs[0]? = some g :=
  ⟨rfl, by decide +kernel, by decide +kernel, by decide +kernel, _, rfl⟩

/-- A trap of cycle 90 on core 0 of a launch, with the cause and first address. -/
def tTrapOf (cause first : Nat) : Trap := ⟨cause, 90, 0, 0, false, some 0, first, first, [], 0⟩

/-- A page of world 1's table. -/
def tPage : Machine.Trans := ⟨0x1000, 0, 0x31, 0x84000, false, true, true⟩

/-- Three cores of a launch whose segment a trap has ended, with their sections recorded or not, and the rows of its log so far. -/
def tTrapped (x : Trap) (row : Nat) (cut : Bool) : State :=
  let s := tLaunch (fun l => { l with row := row, replays := row, run := l.run.map fun r => { r with
    trap := some x, sections := if cut then [(0, [1]), (1, [2]), (2, [3])] else [] } }) (tThree .c)
  { s with
    cyc := 400, worlds := [(1, { World.zero with enabled := true, table := [tPage] })]
    cores := s.cores.map fun e => (e.1, { e.2 with stopAt := if cut then some 282 else none }) }

theorem witness_trapsEndSegments_stop :
    (let s := tTrapped (tTrapOf 0x80 0) 0 false
     let c := getCore s 200
     c.launch = some 0 ∧ c.stopAt = none ∧ coreStopCycle (tTrapOf 0x80 0) 200 c ≤ 400 ∧
       ((getLaunch s 0).run.map fun r => (r.trap, r.sections, r.others)) = some (some (tTrapOf 0x80 0), [], [])) ∧
    (let s := tTrapped (tTrapOf 0x80 0) 0 true
     coreStopCycle (tTrapOf 0x80 0) 200 (getCore s 200) ≤ 400 ∧ (getCore s 200).stopAt = some 282) := by
  decide +kernel

theorem witness_trapsEndSegments_end :
    (trapEndDue (tTrapped (tTrapOf 0x80 0) 0 true) 0 = true ∧ restartable 0x80 = false) ∧
    (trapEndDue (tTrapped (tTrapOf 0x22 0x9999) 0 true) 0 = true ∧
      lookupTrans (getWorld (tTrapped (tTrapOf 0x22 0x9999) 0 true) 1).table 0x9999 = none) ∧
    (trapEndDue (tTrapped (tTrapOf 0x10 0) 16 true) 0 = true ∧ 16 ≤ (getLaunch (tTrapped (tTrapOf 0x10 0) 16 true) 0).row) ∧
    (trapEndDue (tTrapped (tTrapOf 0x13 0) 15 true) 0 = true ∧ (getLaunch (tTrapped (tTrapOf 0x13 0) 15 true) 0).row < 16) ∧
    (trapEndDue (tTrapped (tTrapOf 0x22 0x1004) 0 true) 0 = true ∧
      lookupTrans (getWorld (tTrapped (tTrapOf 0x22 0x1004) 0 true) 1).table 0x1004 = some tPage) := by
  decide +kernel

/-- A launch's segment of 1,000 cycles, in a phase, with two writes of its cores to come, the first of them due. -/
def tPhased (x : LaunchPhase) (commits : List (Nat × Held)) : State :=
  tLaunch (fun l => { l with phase := x, run := none, segs := [tSeg 1000], commits := commits }) (tState .c id)

/-- A write to host memory. -/
def tHeld : Held := ⟨3, 1, 0x5000, [1, 2, 3], false⟩

/-- A running segment whose streams have ended, its core with tile 2 written and live or not. -/
def tEnded (live : Nat) : State := tLaunch (fun l => { l with segs := [tSeg 1000] }) (tState .c fun c => { c with
  c := { c.c with ended := true }, l := { c.l with ended := true }, x := { c.x with ended := true }, st := { c.st with ended := true },
  live := live, tiles := [(2, [(1, 5)])] })

theorem witness_segmentSteps :
    ((getLaunch (tPhased (.placed 100) []) 0).segs[(getLaunch (tPhased (.placed 100) []) 0).seg]? = some (tSeg 1000) ∧
      (getLaunch (tPhased (.placed 100) []) 0).phase = .placed 100 ∧ (tSeg 1000).chans = [] ∧ (([] : List Nat)).Nodup) ∧
    ((getLaunch (tEnded 4) 0).run.map (·.trap) = some none ∧ ∃ j ∈ (getLaunch (tEnded 4) 0).cores, retireReady (getCore (tEnded 4) j) 100 = true) ∧
    ((∀ j ∈ (getLaunch (tEnded 0) 0).cores, retireReady (getCore (tEnded 0) j) 100 = false) ∧ segmentOver (tEnded 0) 0 = true) ∧
    ((getLaunch (tPhased (.committing true) []) 0).phase = .committing true ∧ (getLaunch (tPhased (.committing true) []) 0).commits = [] ∧
      commitQueued (tPhased (.committing true) []) 0 = false ∧ dmaOpen (tPhased (.committing true) []) 1 = true) ∧
    (let s := { tPhased (.committing true) [] with worlds := [(1, { World.zero with enabled := true, tdisp := .run })] }
     commitQueued s 0 = false ∧ dmaOpen s (getLaunch s 0).world = false) ∧
    commitQueued { tPhased (.committing true) [] with ports := [⟨0x80001400, true, 90, .commit 1 0 0 [] false, none⟩] } 0 = true ∧
    (let s := { tPhased (.committing false) [] with cyc := 64512 }
     commitQueued s 0 = false ∧ (getLaunch s 0).phase = .committing false ∧ gapStart s ≤ s.cyc ∧ s.gapDone ≤ gapStart s + 320) ∧
    (let s := tPhased (.committing true) [(200, tHeld), (100, tHeld)]
     commitQueued s 0 = false ∧ (getLaunch s 0).commits.find? (fun z => decide (z.1 ≤ 100)) = some (100, tHeld) ∧ tHeld.space = 1 ∧ tHeld.add = false ∧
       dmaOpen s (getLaunch s 0).world = true ∧
       dmaOpen { s with worlds := [(1, { World.zero with enabled := true, tdisp := .run })] } (getLaunch s 0).world = false) ∧
    ∃ e, entryIn { tPhased .waiting [] with frameTable := [(2048, 1)] } 0 (getLaunch (tPhased .waiting []) 0) (tSeg 1024) 1 128001 = some e := by
  refine ⟨?_, ?_, ?_, ?_, ?_, ?_, ?_, ?_, Option.isSome_iff_exists.mp ?_⟩ <;> decide +kernel

/-- A segment on a channel whose window and refresh leave room for a lead-in. -/
theorem witness_segmentSteps_leadLow :
    leadLow { Channel.zero with banks := [(3, .refreshing 70060)], windows := [⟨70000, tPort5 false, none, false⟩] } 70000 = 70360 ∧
    ∃ e, entryIn { tPhased .waiting [] with
        frameTable := [(2048, 1), (2565, 1)], cyc := 70000
        chans := [(5, { Channel.zero with banks := [(3, .refreshing 70060)], progs := [(0, 0, 0)] })] } 0
      (getLaunch (tPhased .waiting []) 0) { tSeg 1024 with chans := [(5, 0)] } 1 70020 = some e := by
  refine ⟨?_, Option.isSome_iff_exists.mp ?_⟩ <;> decide +kernel

/-- The package in a cycle, with the hottest sensor at t and a cool reading or none, a key and a domain table to take in, and a core
of world 1 that the next frame gives to world 2. -/
def tFrame (cyc t : Nat) (cool : Bool) : State := { tState .c (fun c => { c with revoked := [(49, 100)], regs := { c.regs with h := [(3, 0x0310000840000113)] } }) with
  cyc := cyc, hottest := t, cool := cool, throttle := 2, frameDone := 0, casks := [(0, -5), (3, 100000)], domain := none,
  keys := [(0, ⟨some 1, none, false, 5, some (32, 9), []⟩)], launches := [],
  worlds := [(1, { World.zero with enabled := true, sealPending := some 77, domainNext := [(3, 4)] })], frameTable := [(2048, 2)] }

theorem witness_frameSteps :
    (frameStartDue (tFrame 65536 95 true) = true ∧ 95 ≤ (tFrame 65536 95 true).hottest) ∧
    (let s := { tFrame 65536 94 true with reached := true, owed := [(3, 7)] }
     frameStartDue s = true ∧ s.reached = true ∧ s.owed = [(3, 7)] ∧ ∀ z ∈ s.owed, z.1 ≠ 0) ∧
    (frameStartDue (tFrame 65536 94 true) = true ∧ (tFrame 65536 94 true).hottest < 95 ∧ (tFrame 65536 94 true).cool = true ∧
      dtimeFollows (tFrame 65536 94 true) = false) ∧
    (edgePart (tFrame 64512 20 true) = some false ∧ (getKey (tFrame 64512 20 true) 0).pending = some (32, 9) ∧
      (getWorld (tFrame 64512 20 true) 1).sealPending = some 77) ∧
    (edgePart { tFrame 64832 20 true with gapDone := 64513 } = some true ∧
      ∀ e ∈ (tFrame 64832 20 true).launches, waitsHeld e.2 = false ∧ inLists e.2 = false) ∧
    (let s := { tFrame 64832 20 true with gapDone := 64513 }
     unitWorld s 1 0 = 2 ∧ (getCore s 0).world = 1 ∧ (getCore s 0).launch = some 0) ∧
    (let s := { tFrame 64832 20 true with gapDone := 64513, frameTable := [(2048, 1)] }
     unitWorld s 1 0 = 1 ∧ (getCore s 0).launch.isSome = true) ∧
    (let s := { tFrame 64832 20 true with gapDone := 64513, frameTable := [(2048, 1)], cores := [(0, { tCore with launch := none })] }
     unitWorld s 1 0 = 1 ∧ (getCore s 0).launch.isSome = false ∧ (ringOwner s 0).isSome = false) ∧
    (let s := { tFrame 64832 20 true with gapDone := 64513, frameTable := [(2048, 1)], cores := [(0, { tCore with launch := none, spad := [(9, 1)] })] }
     (getCore s 0).launch = none ∧ (unitWorld s (frameOf s s.cyc + 1) 0 = (getCore s 0).world → ringOwner s 0 = none) ∧
       settleAll (getCore s 0) s.cyc ≠ []) ∧
    ((∀ e ∈ sC.launches, (getLaunch sC e.1).world = 1 ∧ e.2 = getLaunch sC e.1) ∧ ∃ e ∈ sC.launches, e.1 = 0) ∧
    ((49#12, 100) ∈ (getCore (tFrame 100 20 true) 0).revoked ∧ hValid (smGet 0 (getCore (tFrame 100 20 true) 0).regs.h 3) = true ∧
      hPid (smGet 0 (getCore (tFrame 100 20 true) 0).regs.h 3) = 49) ∧
    (100 + 256 ≤ 356 ∧ 355 < 100 + 256 ∧ (getCore (tFrame 100 20 true) 0).launch.isSome = true ∧ (getCore (tFrame 100 20 true) 0).world = 1) := by
  decide +kernel

/-! ### Witnesses: worlds, the host, interfaces, the package, the step -/

/-- World 1 with its function and interface in RUN. -/
def tWorld : World := { World.zero with
  enabled := true, tdisp := .run, lqEn := true, qlog2 := 4, tail := 3, head := 15, cbase := 2 ^ 30, csize := 2 ^ 30, privKey := 1 }

/-- The package with that world in a cycle, no request waiting. -/
def tWorldState (f : World → World) (cyc : Nat) : State := { tState .c id with
  cyc := cyc, worlds := [(1, f tWorld)], launches := [], cores := [], frameDone := 65537, gapDone := 65537,
  keys := [(3, ⟨some 1, some (32, 77), false, 0, none, []⟩), (9, ⟨some 2, none, true, 0, none, []⟩)] }

/-- A read window at its delivery and a write window at its DWR, of a row command's entry or of a port's request. -/
def tRemote (write : Bool) (who : Requester) : Window := ⟨if write then 88 else 66, ⟨0x80001400, write, 60, who, if write then some 7 else none⟩,
  if write then none else some (tLine 0x80001400 1), false⟩

theorem witness_channelEvents_windows :
    let q : RemoteReq := ⟨hostPkg, 1, 1, 0, 9, some 7, true⟩
    (∀ b, ∀ who ∈ [Requester.rowLine 0 4 1 0, .port q], let w := tRemote b who
      w.done = false ∧ w.entry.write = b ∧ (if b then w.line = none ∧ w.start + 12 ≤ 100 else w.line.isSome = true ∧ w.start + 34 ≤ 100)) ∧
    (let r := tRow (some 60) 0 (some 0x0310000840000113) []
     r.id = 4 ∧ r.start ≠ none ∧ r.closed = false ∧ r.op = 0 ∧ ({ r with op := 1 } : RowCmd).op = 1 ∧ r.done = [] ∧ r.loc % 8 = 0 ∧ r.rb % 64 = 0 ∧
       64 * (0 + 1) ≤ r.rb ∧ hConf (r.handle.getD 0) = false ∧ hConf 0x0310000840000193 = true ∧
       (tLine 0x80001400 1).line.ot.getLsbD 6 = false) ∧
    (let s := tWorldState (fun x => { x with cbase := 2 ^ 31 }) 100
     portInside s 1 0x80001400 = true ∧ (readLine s 0x80001400 100).line.ot.getLsbD 6 = false ∧ q.wdata = some 7) := by
  decide +kernel

/-- A line that stands as it was tagged is delivered, to a row command and to a port. -/
theorem witness_channelEvents_delivered :
    let x : SlotLine := ⟨0x80001400, lineTagged sC 1 false false 0x80001400 5, 80⟩
    (deliverLine sC 1 false false x).2 = some (5, false) := by
  simp only [deliverLine, checkLine]
  rw [lineGood_lineTagged]
  simp [lineOpen, lineTagged]

/-- A key record (Table 15.7) without its tag: the header, the generator as the ephemeral key, 64 zero bytes of wrapped key. -/
def tRecord (hdr : Nat) : List Byte := leBytes 8 hdr ++ beBytes 32 p256Gx ++ beBytes 32 p256Gy ++ List.replicate 64 0

/-- Key of the tag of such a record under the private key 1. -/
def tKek (hdr : Nat) : List Byte := hkdf32 (List.replicate 32 0) ((p256Ecdh 1 p256Gx p256Gy).getD []) (leBytes 8 hdr)

/-- The tag that authenticates it. -/
def tTag (hdr : Nat) : List Byte :=
  gcmTag (tKek hdr) (List.replicate 12 0) (leBytes 8 hdr ++ beBytes 32 p256Gx ++ beBytes 32 p256Gy) (List.replicate 64 0)

/-- The world with a record and a tag at its key window, its import due. -/
def tImport (hdr : Nat) (tag : List Byte) (d : BitVec 256) (t : Tdisp) (k : Option (BitVec 512)) : State := tWorldState (fun x => { x with
  lqEn := false, tdisp := t, sealKey := k, privKey := d, keyBusy := some 4000, keyWindow := memWrite [] 0 (tRecord hdr ++ tag) }) 4096

/-- The 256 bytes of that window. -/
def tWindow (s : State) : List Byte := memRead (getWorld s 1).keyWindow 0 256

/-- What the window holds after the record is written there. -/
theorem window_of_write (bs : List Byte) (h : bs.length ≤ 256) :
    memRead (memWrite [] 0 bs) 0 256 = bs ++ List.replicate (256 - bs.length) 0 := by
  have hf : (memWrite [] 0 bs).filter (fun e => decide (0 ≤ e.1) && decide (e.1 < 0 + 256)) = memWrite [] 0 bs := by
    rw [List.filter_eq_self]
    intro e he
    have := cellsOf_mem 0 bs e (by simpa [memWrite] using he)
    simp; omega
  simp only [memRead, hf]
  refine List.ext_getElem (by simp; omega) fun i hi _ => ?_
  simp only [List.getElem_map, List.getElem_range]
  by_cases hb : i < bs.length
  · rw [memGet_memWrite_in _ _ _ _ hb]; simp [hb]
  · rw [memGet_memWrite_out _ _ _ _ (by omega), List.getElem_append_right (by omega)]
    simp [memGet, smGet, Memory.blank]

theorem sliceBytes_middle (a b c : List Byte) (i n : Nat) (hi : a.length = i) (hn : b.length = n) : sliceBytes (a ++ (b ++ c)) i n = b := by
  subst hi hn; simp [sliceBytes]

theorem tTag_length : (tTag 1).length = 16 := by decide +kernel
theorem tRecord_length : (tRecord 1).length = 136 := by decide +kernel
theorem gcm_length : (gcmCrypt (tKek 1) (List.replicate 12 0) (List.replicate 64 0)).length = 64 := by decide +kernel

/-- The record of the header 1 with its tag unwraps, to a key of 64 bytes. -/
theorem witness_worldSteps_unwrap :
    ∃ key, unwrapKey 1 (tWindow (tImport 1 (tTag 1) 1 .run none)) = some key ∧ leNat (key.drop 64) = 0 := by
  have hw : tWindow (tImport 1 (tTag 1) 1 .run none) = (tRecord 1 ++ tTag 1) ++ List.replicate (256 - (tRecord 1 ++ tTag 1).length) 0 :=
    window_of_write _ (by rw [List.length_append, tTag_length, tRecord_length]; decide)
  have ht := tTag_length
  rw [hw]
  generalize List.replicate (256 - (tRecord 1 ++ tTag 1).length) (0 : Byte) = z
  generalize hT : tTag 1 = T at ht ⊢
  have h8 : sliceBytes (tRecord 1 ++ T ++ z) 0 8 = leBytes 8 1 := by
    have := sliceBytes_middle [] (leBytes 8 1) (beBytes 32 p256Gx ++ beBytes 32 p256Gy ++ List.replicate 64 0 ++ T ++ z) 0 8 rfl (by decide)
    simpa [tRecord, List.append_assoc] using this
  have hx : sliceBytes (tRecord 1 ++ T ++ z) 8 32 = beBytes 32 p256Gx := by
    have := sliceBytes_middle (leBytes 8 1) (beBytes 32 p256Gx) (beBytes 32 p256Gy ++ List.replicate 64 0 ++ T ++ z) 8 32 (by decide) (by decide +kernel)
    simpa [tRecord, List.append_assoc] using this
  have hy : sliceBytes (tRecord 1 ++ T ++ z) 40 32 = beBytes 32 p256Gy := by
    have := sliceBytes_middle (leBytes 8 1 ++ beBytes 32 p256Gx) (beBytes 32 p256Gy) (List.replicate 64 0 ++ T ++ z) 40 32 (by decide +kernel) (by decide +kernel)
    simpa [tRecord, List.append_assoc] using this
  have h72 : sliceBytes (tRecord 1 ++ T ++ z) 0 72 = leBytes 8 1 ++ beBytes 32 p256Gx ++ beBytes 32 p256Gy := by
    have := sliceBytes_middle [] (leBytes 8 1 ++ beBytes 32 p256Gx ++ beBytes 32 p256Gy) (List.replicate 64 0 ++ T ++ z) 0 72 rfl (by decide +kernel)
    simpa [tRecord, List.append_assoc] using this
  have h64 : sliceBytes (tRecord 1 ++ T ++ z) 72 64 = List.replicate 64 0 := by
    have := sliceBytes_middle (leBytes 8 1 ++ beBytes 32 p256Gx ++ beBytes 32 p256Gy) (List.replicate 64 0) (T ++ z) 72 64 (by decide +kernel) rfl
    simpa [tRecord, List.append_assoc] using this
  have hT' : sliceBytes (tRecord 1 ++ T ++ z) 136 16 = T := by
    rw [List.append_assoc]
    exact sliceBytes_middle _ _ _ _ _ tRecord_length ht
  have hz : ∃ v, p256Ecdh 1 p256Gx p256Gy = some v := Option.isSome_iff_exists.mp (by decide +kernel)
  obtain ⟨v, hv⟩ := hz
  have hgx : beNat (beBytes 32 p256Gx) = p256Gx := by decide +kernel
  have hgy : beNat (beBytes 32 p256Gy) = p256Gy := by decide +kernel
  have hk : hkdf32 (List.replicate 32 0) v (leBytes 8 1) = tKek 1 := by rw [tKek, hv]; rfl
  refine ⟨gcmCrypt (tKek 1) (List.replicate 12 0) (List.replicate 64 0), ?_, ?_⟩
  · simp only [unwrapKey, impEpk, hx, hy, hgx, hgy, hv, h8, h72, h64, hT', hk, gcmOpen]
    exact if_pos hT
  · rw [List.drop_of_length_le (by rw [gcm_length])]; rfl

theorem witness_worldSteps :
    ((getWorld (tWorldState id 4096) 1).fetch = none ∧ recordFetchDue (tWorldState id 4096) 1 = true) ∧
    ((getWorld (tWorldState (fun x => { x with fetch := some 4096 }) 4096) 1).fetch = some 4096 ∧
      recordFetchDue (tWorldState (fun x => { x with fetch := some 4096 }) 4096) 1 = true) ∧
    (keyImportDue (tImport 1 [] 0 .locked none) 1 = true ∧ (getWorld (tImport 1 [] 0 .locked none) 1).tdisp ≠ .run) ∧
    (keyImportDue (tImport 4 [] 0 .run none) 1 = true ∧ impMalformed (tWindow (tImport 4 [] 0 .run none)) = true) ∧
    (keyImportDue (tImport 1 [] 0 .run (some 5)) 1 = true ∧ impMalformed (tWindow (tImport 1 [] 0 .run (some 5))) = false ∧
      impType (tWindow (tImport 1 [] 0 .run (some 5))) = 1 ∧ (getWorld (tImport 1 [] 0 .run (some 5)) 1).sealKey.isSome = true) ∧
    (impMalformed (tWindow (tImport (2 + 9 * 256) [] 0 .run none)) = false ∧ impType (tWindow (tImport (2 + 9 * 256) [] 0 .run none)) ≠ 1 ∧
      impSlot (tWindow (tImport (2 + 9 * 256) [] 0 .run none)) = 9 ∧ (getKey (tImport (2 + 9 * 256) [] 0 .run none) 9).world ≠ some 1) ∧
    (impMalformed (tWindow (tImport 1 [] 0 .run none)) = false ∧ (getWorld (tImport 1 [] 0 .run none) 1).sealKey = none ∧
      (getWorld (tImport 1 [] 0 .run none) 1).sealPending = none ∧ unwrapKey 0 (tWindow (tImport 1 [] 0 .run none)) = none) ∧
    replicaDue (tWorldState (fun x => { x with rtArmed := true, rtSwitch := 1000 }) 4096) 1 = true := by
  decide +kernel

/-- A flow (Table 17.5) of rows of 64 bytes, two a bin, swapped every 4,096 cycles, of key slot 3 and a rule. -/
def tFlowEntry (rule : Nat) : List Byte :=
  leBytes 1 (3 + rule * 4) ++ leBytes 1 12 ++ leBytes 2 3 ++ leBytes 4 0x99 ++ leBytes 8 (2 ^ 9 + 2 * 2 ^ 16 + 0x1000 * 2 ^ 29) ++ leBytes 8 0 ++ leBytes 8 0x100

/-- Such a flow with so many rows in its filling bin, its last message known or not. -/
def tFlow (rule fill : Nat) (q : Option Nat) : NetFlow := ⟨tFlowEntry rule, true, 0, 1, fill, 5, q, 1, 2, 3, [], false, false, 0, [], none, []⟩

/-- The same flow in order, its next message q. -/
def tOrdered (q : Option Nat) : NetFlow := { tFlow 0 0 none with entry := leBytes 1 1 ++ (tFlowEntry 0).drop 1, nextSeq := q }

/-- World 1 with that flow. -/
def tFlowState (f : NetFlow) (cyc : Nat) : State := tWorldState (fun x => { x with lqEn := false, flows := [(2, f)] }) cyc

/-- A packet of no plaintext: the tag of message 6 under key slot 3. -/
def tPacket : List Byte := gcmTag (leBytes 32 77) (beBytes 8 6 ++ beBytes 4 0x99) [] []

theorem witness_worldSteps_open : openPacket (tFlowState (tFlow 0 0 none) 4900) (tFlow 0 0 none) 6 tPacket = some [] := by
  have hk : getKey (tFlowState (tFlow 0 0 none) 4900) (flowKslot (tFlow 0 0 none).entry) = ⟨some 1, some (32, 77), false, 0, none, []⟩ := by
    decide +kernel
  have hc : flowCtx (tFlow 0 0 none).entry = 0x99 := by decide +kernel
  have hl : tPacket.length = 16 := by decide +kernel
  have hg : gcmCrypt (leBytes 32 77) (beBytes 8 6 ++ beBytes 4 0x99) [] = [] := by decide +kernel
  simp only [openPacket, hk, hc, hl]
  simp only [show ¬(16 < 16) by decide, if_false, Nat.sub_self, List.take_zero, List.drop_zero, gcmOpen]
  rw [if_pos (by rfl)]
  exact congrArg some hg

theorem witness_worldSteps_packets :
    (getFlow (tFlowState (tFlow 0 0 none) 4900) 1 2 = some (tFlow 0 0 none) ∧ framesRun (tFlowState (tFlow 0 0 none) 4900) = true ∧
      toSwap (tFlow 0 0 none) 4900 = 3292 ∧ toSwap (tFlow 0 0 none) 8000 = 192 ∧ toSwap (tFlow 0 0 none) 8001 = 191) ∧
    (flowOrdered (tFlow 0 0 none) = false ∧ (tFlow 0 0 none).valid = true ∧ swapDue (tFlowState (tFlow 0 0 none) 4900) (tFlow 0 0 none) = false) ∧
    (flowOrdered (tOrdered (some 6)) = true ∧ (tOrdered (some 6)).early = [] ∧ (tOrdered (some 6)).nextSeq = some (6#64).toNat ∧
      6 < (7#64).toNat ∧ (tOrdered none).nextSeq = none ∧ flowOrdered (tOrdered none) = true) ∧
    (let f := { tOrdered (some 6) with early := [(6, [1])] }
     flowOrdered f = true ∧ f.nextSeq = some (6#64).toNat ∧ (∀ e ∈ f.early, e.1.toNat = (6#64).toNat)) ∧
    ((tFlow 0 0 (some 6)).lastSeq = some 6 ∧ (6#64).toNat ≤ 6) ∧
    openPacket (tFlowState (tFlow 0 0 none) 4900) (tFlow 0 0 none) 6 [1, 2, 3] = none ∧
    ([] : List Byte).length ≤ flowRb (tFlow 0 0 none).entry - 16 ∧
    (1 < flowRcap (tFlow 0 1 none).entry ∧ (tFlow 0 2 none).fill = flowRcap (tFlow 0 2 none).entry ∧ flowRule (tFlow 0 2 none) = 0) ∧
    (swapDue (tFlowState (tFlow 0 0 none) 8192) (tFlow 0 0 none) = true ∧ (tFlow 0 0 none).trapPending = false ∧
      (tFlow 0 0 none).trapOwed = false ∧ (tFlow 0 0 none).spill = [] ∧ (tFlow 0 0 none).held = []) := by
  decide +kernel

/-- World 1's function before its interface runs, with no launch queue. -/
def tOpenWorld (f : World → World) : State := tWorldState (fun x => f { x with tdisp := .unlocked }) 100

theorem witness_hostRequestsComplete :
    (vfOpen (tOpenWorld fun x => { x with lqEn := false }) 1 = true ∧ (getWorld (tOpenWorld fun x => { x with lqEn := false }) 1).lqEn = false) ∧
    (vfOpen (tOpenWorld id) 1 = true ∧ (getWorld (tOpenWorld id) 1).lqEn = true ∧ (getWorld (tOpenWorld id) 1).keyBusy = none) ∧
    (getWorld (tOpenWorld fun x => { x with keyBusy := some 200 }) 1).keyBusy.isSome = true ∧
    ((tOpenWorld id).dtime ≤ (1000#64).toNat ∧ (999#64).toNat < (tOpenWorld id).dtime) ∧
    ((getWorld (tOpenWorld id) 1).tdisp ≠ .run ∧ vfOpen (tWorldState (fun x => { x with stream := some 4 }) 100) 1 = true ∧
      (getWorld (tWorldState (fun x => { x with stream := some 4 }) 100) 1).tdisp = .run) ∧
    (framesRun (tOpenWorld id) = true ∧ (getWorld (tOpenWorld id) 63).enabled = false ∧ (3 * 2 ^ 37 - 2 ^ 30) % 2 ^ 30 = 0 ∧
      3 * 2 ^ 37 - 2 ^ 30 + 2 ^ 30 ≤ 3 * 2 ^ 37 ∧ carveFree (tOpenWorld id) 63 (3 * 2 ^ 37 - 2 ^ 30) (2 ^ 30) = true ∧
      ∀ y ∈ (tOpenWorld id).badRows, y < 3 * 2 ^ 37 - 2 ^ 30 ∨ 3 * 2 ^ 37 - 2 ^ 30 + 2 ^ 30 ≤ y) ∧
    (3 * 2 ^ 37 < 3 * 2 ^ 37 + 2 ^ 30 ∧ ∃ y ∈ ({ tOpenWorld id with badRows := [2 ^ 30] }).badRows, 2 ^ 30 ≤ y ∧ y < 2 ^ 30 + 2 ^ 30) ∧
    ((1#64).getLsbD 0 = true ∧ (0x188 ≤ 0xFFFF8 ∧ 0xFFFF8 + 8 ≤ 0x100000) ∧ 0xFFFF8 + 8 ≤ 2 ^ 20 ∧ 0x190 ≤ 0x1FFF8 ∧ 0x1FFF8 + 8 ≤ 0x20000) ∧
    ((getWorld (tOpenWorld id) 1).enabled = true ∧ (getKey (tOpenWorld id) 3).world = some 1) ∧
    (4095 < 4096 ∧ (getKey (tOpenWorld id) 4095).world = none) ∧
    (tdispOpen (tOpenWorld id) 1 = true ∧ (getWorld (tOpenWorld id) 1).tdisp = .unlocked) := by
  decide +kernel

theorem witness_hostRequestsComplete_reset :
    let s := { tOpenWorld id with launches := [(0, placedLaunch 900)] }
    (getWorld s 1).enabled = true ∧ (getLaunch s 0).world = 1 ∧ launchEnded (getLaunch s 0) = false ∧ ∃ e ∈ s.launches, e.1 = 0 := by
  decide +kernel

/-- World 1 with a sealed page of its table at the start of its carve-out. -/
def tSealed : State := tOpenWorld fun x => { x with table := [⟨0x1000, 0, 0x31, 0x40000, false, true, false⟩] }

theorem witness_hostRequestsComplete_debug :
    ((getWorld (tOpenWorld id) 1).cbase ≤ 2 ^ 31 - 1 ∧ 2 ^ 31 - 1 < (getWorld (tOpenWorld id) 1).cbase + (getWorld (tOpenWorld id) 1).csize ∧
      cellarLine (tOpenWorld id) 1 (2 ^ 31 - 1) = false ∧ (readLine (tOpenWorld id) ((2 ^ 31 - 1) / 64 * 64) 100).line.ot.getLsbD 6 = false) ∧
    ((getWorld tSealed 1).cbase ≤ 2 ^ 30 ∧ cellarLine tSealed 1 (2 ^ 30) = true) ∧
    (getCore (tState .c id) 0).world = 1 ∧ (getWorld (tState .c id) 1).enabled = true := by
  decide +kernel

/-- World 1's interface in a state, a session open, a stream bound, and a certificate chain in slot 1. -/
def tIface (t : Tdisp) : State := { tWorldState (fun x => { x with tdisp := t, stream := some 63 }) 100 with
  session := some 7, certs := [(1, [1, 2, 3])] }

theorem witness_interfaceRequestsComplete :
    (∀ t : Tdisp, tdispOpen (tIface t) 1 = true ∧ (getWorld (tIface t) 1).tdisp = t ∧ (tIface t).session.isSome = true ∧
      (getWorld (tIface t) 1).stream = some 63 ∧ (getWorld (tIface t) 1).enabled = true) ∧
    doeOpen (tIface .run) = true ∧ certSlot (tIface .run) 1 ≠ [] ∧ certSlot (tIface .run) 7 = [] ∧
    ∃ z, p256Ecdh 1 p256Gx p256Gy = some z := by
  refine ⟨?_, ?_, ?_, ?_, Option.isSome_iff_exists.mp (by decide +kernel)⟩
  · intro t; cases t <;> decide +kernel
  all_goals decide +kernel

/-- A request from the host at world 1's port, at an offset. -/
def tRequest (off : Nat) : RemoteReq := ⟨hostPkg, 1, 1, off, 9, none, true⟩

/-- (That an image passes verification depends on the fused key digest, which no run can choose.) -/
theorem witness_platformEventsComplete :
    (State.reset.boot = .off ∧ verifyImage State.reset State.reset.flash ≠ 0) ∧
    (({ State.reset with boot := .recovery false 1 }).boot = .recovery false 1 ∧ ({ State.reset with boot := .recovery true 1 }).boot = .recovery true 1 ∧
      verifyImage { State.reset with boot := .recovery true 1 } ({ State.reset with boot := .recovery true 1 }).rcvWindow ≠ 0) ∧
    (({ State.reset with boot := .accepted 9 }).boot = .accepted 9 ∧ 8 < 9 ∧ 9 ≤ 9) ∧
    ((1#64).getLsbD 0 = true ∧ (0#64).getLsbD 0 = false ∧ ({ sC with off := true }).off = true) ∧
    ((sC.off = false ∧ (105 ≤ 105 ∧ 104 < 105)) ∧ (39999 < 40000 ∨ 60000 < 39999) ∧ (60001 < 40000 ∨ 60000 < 60001) ∧ 40000 ≤ 60000) ∧
    (doeOpen sC = true ∧ sC.domain = none ∧ ({ sC with domain := some 5 }).domain = some 5 ∧ 5 ≠ 1023 ∧ 1023 < 1024) ∧
    (let s := { sC with domain := some 5, groups := [(1, 3, [(5, 1, 0)]), (1, 3, [(5, 2, 0)])], worlds :=
        [(1, { World.zero with domain := [(0, 5), (1, 3)] }), (2, { World.zero with domain := [(8, 5), (9, 3)] })] }
     s.domain = some 5 ∧ 5 ≠ 6 ∧ namesBack s 1 6 2 = true ∧ namesBack s 2 6 2 = true ∧ 3 ≤ 3) ∧
    (let s := { sC with domain := some 5 }
     s.domain = some 5 ∧ 5 ≠ 6 ∧ ∀ e ∈ s.groups, e.1 ≠ 1) ∧
    (let s := tWorldState (fun x => { x with stream := some 4 }) 100
     framesRun s = true ∧ portAllowed s (tRequest (2 ^ 30 - 64)) = true ∧ s.ports = [] ∧
       (getChan s (chanOf (portEntry s (tRequest (2 ^ 30 - 64))).addr)).bin1.length < 64 ∧ portAllowed s (tRequest (2 ^ 30 - 63)) = false) ∧
    (let s := { tWorldState id 100 with linkKeys := [(15, 7)] }
     (∃ e ∈ s.linkKeys, e.1 = 15) ∧ (∀ e ∈ s.linkKeys, e.1 ≠ 14) ∧ portAllowed s { tRequest 0 with pkg := 6 } = false) ∧
    (let s := tWorldState (fun x => { x with stream := none }) 100
     (tRequest 0).pkg = hostPkg ∧ (getWorld s (tRequest 0).target).tdisp = .run ∧ (getWorld s (tRequest 0).target).stream = none ∧
       ({ tRequest 0 with tee := false }).tee = false) ∧
    (let s := tWorldState (fun x => { x with stream := some 4 }) 100
     let ch := chanOf (portEntry s (tRequest 0)).addr
     let u := { s with chans := [(ch, { Channel.zero with bin1 := List.replicate 64 (tPort5 false) })] }
     portAllowed u (tRequest 0) = true ∧ 64 ≤ (getChan u (chanOf (portEntry u (tRequest 0)).addr)).bin1.length) := by
  decide +kernel

/-! ### Witnesses: the step and decoding -/

theorem witness_stepRunsDecodedWord :
    (let s := State.reset.withFetchWord 32 0x00823020
     let ps := fetchFrom (getCore s 0) .c (streamOf (getCore s 0) .c).pc
     s.boot ≠ .off ∧ dueRequest s = none ∧ earlyEvent s = none ∧ inGap s = false ∧ dueStream s = some (0, .c) ∧ owedTrap s 0 = none ∧
       missingParcel ps = none ∧ decode ps = .ok (.add ⟨0, false⟩ 3 1 2)) ∧
    (let s := State.reset.withFetchWord 32 0
     let ps := fetchFrom (getCore s 0) .c (streamOf (getCore s 0) .c).pc
     dueStream s = some (0, .c) ∧ missingParcel ps = none ∧ ∃ e, decode ps = .error e) ∧
    (let s := { State.reset.withFetchWord 32 0 with cores := [(0, { placedCore .x [0x20043022] with lidx := 0 })] }
     dueStream s = some (0, .x) ∧ missingParcel (fetchFrom (getCore s 0) .x (streamOf (getCore s 0) .x).pc) = some 1) := by
  refine ⟨by decide +kernel, ⟨by decide +kernel, by decide +kernel, _, rfl⟩, by decide +kernel⟩

/-- A core whose inbound port holds a line of a core of a lower index while its own word is due, and one where it does not. -/
theorem witness_stepRunsDecodedWord_inbound :
    let s := { tThree .c with cores := [(1, { placedCore .c [0x00823020] with
      lidx := 1, phases := tCore.phases, inbound := [⟨4, 90, 0, 0, .seq .c, .store, 0x1008, [1, 2], 0⟩] })] }
    earlyEvent s = none ∧ inGap s = false ∧ dueStream s = some (1, .c) ∧ inboundFirst (getCore s 1) s.cyc = true ∧
      dueRequest s = none ∧ s.boot ≠ .off ∧
      inboundFirst (getCore (State.reset.withFetchWord 32 0x00823020) 0) (State.reset.withFetchWord 32 0x00823020).cyc = false := by
  decide +kernel

theorem witness_stepRunsDecodedWord_other :
    (∃ i, earlyEvent (tOn fun c => { c with xlate := [⟨3, 100, 0, false, 0x5000⟩] }) = some i) ∧
    (let s := { tChanState (fun c => { c with mem := [(3, 0x0000012001414021)] }) 100 with cores := [] }
     (dueChannel s).isSome = true ∧ earlyEvent s = none ∧ inGap s = false ∧ dueStream s = none) ∧
    (let s := tWorldState (fun x => { x with lqEn := false }) 100
     earlyEvent s = none ∧ (nextWord s).isNone = true ∧ lateEvent s = none ∧ dueRequest s = none ∧ s.boot ≠ .off) := by
  exact ⟨⟨_, rfl⟩, by decide +kernel, by decide +kernel⟩

theorem witness_encodeDecodeRoundTrip :
    (Instr.pdim 7 11 11 1).wf = true ∧ (Instr.dact 1023 15 0xBFFF).wf = true ∧ (Instr.add ⟨0, false⟩ 31 31 31).wf = true := by
  decide +kernel

theorem witness_decodingIsUnambiguous :
    ((Instr.add ⟨0, false⟩ 3 1 2).wf = true ∧ decode [0x00823020, 5] = .ok (.add ⟨0, false⟩ 3 1 2)) ∧
    ((Instr.dact 20 5 0x120).wf = true ∧ decodeChannel (0x00000120#32 ++ 0x01414021#32) = .ok (.dact 20 5 0x120)) ∧
    (Instr.pdim 0 7 8 0).wf = true ∧ decodePattern 0x00438020 = .ok (.pdim 0 7 8 0) := by
  decide +kernel

theorem witness_stepKeepsMemoriesCanonical : sC.Canonical ∧ ∃ t, step sC = .next t := by
  refine ⟨?_, _, rfl⟩
  simp only [State.Canonical, Core.Canonical, Core.Numbered]; decide +kernel

end Sys2Proof.Tests
end

section
/-!
The two-source scalar words: what each one's function of its operands is in the terms of its rule, and what the words
that set a warning as they issue leave of their core.
-/

namespace Sys2Proof.Machine

open Sys2Proof

/-! ### The functions of the scalar words, as their rules give them -/

/-- SHL's result is the product with a power of two (R414). -/
theorem shiftLeft_eq_ofNat_mul (x : Word64) (n : Nat) : x <<< n = BitVec.ofNat 64 (x.toNat * 2 ^ n) :=
  BitVec.eq_of_toNat_eq (by simp [Nat.shiftLeft_eq])

/-- SHR's result is the natural quotient by a power of two (R414). -/
theorem ushiftRight_eq_ofNat_div (x : Word64) (n : Nat) : x >>> n = BitVec.ofNat 64 (x.toNat / 2 ^ n) := by
  have hlt : x.toNat / 2 ^ n < 2 ^ 64 := Nat.lt_of_le_of_lt (Nat.div_le_self _ _) x.isLt
  refine BitVec.eq_of_toNat_eq ?_
  rw [BitVec.toNat_ushiftRight, Nat.shiftRight_eq_div_pow, BitVec.toNat_ofNat, Nat.mod_eq_of_lt hlt]

/-- SHA's result is the signed quotient by a power of two, rounded down (R414). -/
theorem sshiftRight_eq_ofInt_div (x : Word64) (n : Nat) : x.sshiftRight n = BitVec.ofInt 64 (x.toInt / 2 ^ n) := by
  rw [BitVec.sshiftRight, Int.shiftRight_eq_div_pow]
  norm_cast

/-- ROT's two shifts make a rotation, a shift amount being below 64 (R414). -/
theorem shifts_eq_rotateLeft (x y : Word64) : x <<< amount y ||| x >>> (64 - amount y) = x.rotateLeft (amount y) := by
  have hlt : amount y < 64 := Nat.mod_lt _ (by decide)
  rw [BitVec.rotateLeft_def, Nat.mod_eq_of_lt hlt]

/-- A comparison's flag is 1 where it holds (R360). -/
theorem flag_decide (P : Prop) [Decidable P] : flag (decide P) = if P then 1 else 0 := by
  by_cases h : P <;> simp [flag, h]

/-- A comparison's flag is 0 where its opposite holds (R360). -/
theorem flag_decide_of_iff_not {P Q : Prop} [Decidable P] [Decidable Q] (hPQ : P ↔ ¬ Q) : flag (decide P) = if Q then 0 else 1 := by
  by_cases h : Q <;> simp [flag, hPQ, h]

/-- MUL's result is the low half of the natural product (R400). -/
theorem mul_eq_ofNat_mul (x y : Word64) : x * y = BitVec.ofNat 64 (x.toNat * y.toNat) :=
  BitVec.eq_of_toNat_eq (by simp)

/-- REM's result is what the truncated quotient leaves of the dividend (R412). -/
theorem remWord_eq_sub (x y : Word64) :
    remWord x y = if y = 0 then x else BitVec.ofInt 64 (x.toInt - y.toInt * x.toInt.tdiv y.toInt) := by
  rw [remWord, sgn, sgn, Int.tmod_def]

/-- A two-source word whose function of the operands has been computed. -/
theorem binary_gives_of_eq {i : Instr} {s : State} {h : Hdr} {d a b : Reg} {n : Nat} {f : Word64 → Word64 → Word64} {v : Word64}
    (hf : FieldsOk s [d, a, b]) (hz : NoHazard s [destHere s a, destHere s b] [(destHere s d, n)])
    (hi : exec i s = issueWord (binaryPlan h d a b n f s) s) (hv : f (regHere s a).val (regHere s b).val = v) :
    Gives i s h.mbz 1 d n v ((regHere s a).static && (regHere s b).static) :=
  hv ▸ binary_gives s h d a b n f hi hf hz

/-! ### A warning at issue -/

theorem onlyCore_refl (s : State) (p : Nat) : OnlyCore s s p (getCore s p) := ⟨rfl, rfl, fun _ _ => rfl⟩

/-- A warning of the turn's word changes its core alone. -/
theorem onlyCore_warnHereIf (s : State) (w : Bool) (bit : Nat) :
    OnlyCore s (warnHereIf w bit s) s.turn.core (warnIf w bit (turnCore s)) := by
  cases w with
  | false => exact onlyCore_refl s _
  | true => exact onlyCore_updCore s _ fun c => warn c bit

@[simp] theorem warnHereIf_turn (s : State) (w : Bool) (bit : Nat) : (warnHereIf w bit s).turn = s.turn := by cases w <;> rfl
@[simp] theorem warnHereIf_cyc (s : State) (w : Bool) (bit : Nat) : (warnHereIf w bit s).cyc = s.cyc := by cases w <;> rfl

/-- A warning leaves every register of the sequencers. -/
@[simp] theorem readReg_warnIf (c : Core) (w : Bool) (bit : Nat) (q : Seq) (r : Nat) : readReg (warnIf w bit c) q r = readReg c q r := by
  cases w <;> rfl

@[simp] theorem regHere_warnHereIf (s : State) (w : Bool) (bit : Nat) (r : Reg) : regHere (warnHereIf w bit s) r = regHere s r := by
  obtain ⟨-, hcore, -⟩ := onlyCore_warnHereIf s w bit
  rw [regHere, warnHereIf_turn, hcore, readReg_warnIf]
  rfl

/-- A warning of the turn's word and one more change of its core. -/
theorem onlyCore_updCore_warnHereIf (s : State) (w : Bool) (bit : Nat) (f : Core → Core) :
    OnlyCore s (updCore (warnHereIf w bit s) s.turn.core f) s.turn.core (f (warnIf w bit (turnCore s))) := by
  have hwarn := onlyCore_warnHereIf s w bit
  have hboth := onlyCore_trans hwarn (onlyCore_updCore (warnHereIf w bit s) s.turn.core f)
  obtain ⟨-, hcore, -⟩ := hwarn
  rwa [hcore] at hboth

/-- A word whose effect leaves its core alone changed, and which goes on, leaves that core moved on. -/
theorem leaves_goesOn_of_onlyCore {i : Instr} (s s1 : State) (p : WordPlan) (mbz : Bool) (c : Core) (hi : exec i s = issueWord p s)
    (hw : p.warns = if mbz then [warnMbz] else []) (hq : p.accepts.contains s.turn.q = true) (hb : p.bad = false)
    (hs : p.stall s = none) (ht : p.stamp s = none) (hz : hazard s p.reads p.writes = false)
    (ha : p.act s = .ok (goOn s1)) (hc : OnlyCore s s1 s.turn.core c) :
    Leaves i s (goesOn c s.turn.q s.cyc p.len mbz) := by
  refine ⟨_, by rw [hi, issueWord_acts p s _ _ hq hb hs ht hz ha], ?_⟩
  have ⟨hrest, hcore, _⟩ := hc
  have hturn : s1.turn = s.turn := by rw [hrest]
  have hcyc : s1.cyc = s.cyc := by rw [hrest]
  have hstep := onlyCore_trans hc (onlyCore_updCore s1 s.turn.core fun c =>
    setStream (warnIf mbz warnMbz c) s.turn.q (flowStream (streamOf c s.turn.q) p.len s.cyc (.on (s.cyc + 1) false)))
  simp only [issued, hw, warnAll_mbz, hturn, hcyc]
  rwa [hcore] at hstep

/-! ### Divisions -/

/-- What a division leaves: its result of latency 24 on its way, warn(DIVZ) set for a zero divisor, and its stream moved on. -/
theorem div_leaves {i : Instr} {s : State} {h : Hdr} {d a b : Reg} {f : Word64 → Word64 → Word64} {v : Word64}
    (hf : FieldsOk s [d, a, b]) (hz : NoHazard s [destHere s a, destHere s b] [(destHere s d, 24)])
    (hi : exec i s = issueWord (divPlan h d a b f s) s) (hv : f (regHere s a).val (regHere s b).val = v) :
    Leaves i s (goesOn (fly (warnIf (decide ((regHere s b).val = 0)) warnDivz (turnCore s)) s.turn.q s.cyc (.reg s.turn.q d.toNat) 24
      (.word v ((regHere s a).static && (regHere s b).static))) s.turn.q s.cyc 1 h.mbz) := by
  have hact : (divPlan h d a b f s).act s =
      .ok (goOn (updCore (warnHereIf (decide ((regHere s b).val = 0)) warnDivz s) s.turn.core fun c =>
        fly c s.turn.q s.cyc (.reg s.turn.q d.toNat) 24 (.word v ((regHere s a).static && (regHere s b).static)))) := by
    simp only [divPlan, binaryPlan, WordPlan.plain, flyReg, regHere_warnHereIf, warnHereIf_turn, warnHereIf_cyc, hv]
  exact leaves_goesOn_of_onlyCore s _ _ h.mbz _ hi rfl (accepts_of_fieldsOk s _ hf) (regBad_of_fieldsOk s _ hf) rfl rfl hz hact
    (onlyCore_updCore_warnHereIf s _ _ _)

end Sys2Proof.Machine

open Sys2Proof Sys2Proof.Machine

/-- Settles O1: each word issues by the plan of a two-source word, whose function is the one its rule gives. -/
theorem scalarBinaryResults : Obligations.ScalarBinaryResults := by
  intro s h d a b hf hz
  exact ⟨
    binary_gives_of_eq hf hz (exec_add h d a b s) rfl,
    binary_gives_of_eq hf hz (exec_sub h d a b s) rfl,
    binary_gives_of_eq hf hz (exec_and h d a b s) rfl,
    binary_gives_of_eq hf hz (exec_andn h d a b s) rfl,
    binary_gives_of_eq hf hz (exec_or h d a b s) rfl,
    binary_gives_of_eq hf hz (exec_xor h d a b s) rfl,
    binary_gives_of_eq hf hz (exec_shl h d a b s) (shiftLeft_eq_ofNat_mul _ _),
    binary_gives_of_eq hf hz (exec_shr h d a b s) (ushiftRight_eq_ofNat_div _ _),
    binary_gives_of_eq hf hz (exec_sha h d a b s) (sshiftRight_eq_ofInt_div _ _),
    binary_gives_of_eq hf hz (exec_rot h d a b s) (shifts_eq_rotateLeft _ _),
    binary_gives_of_eq hf hz (exec_min h d a b s) rfl,
    binary_gives_of_eq hf hz (exec_minn h d a b s) rfl,
    binary_gives_of_eq hf hz (exec_max h d a b s) rfl,
    binary_gives_of_eq hf hz (exec_maxn h d a b s) rfl,
    binary_gives_of_eq hf hz (exec_cmpeq h d a b s) (flag_decide _),
    binary_gives_of_eq hf hz (exec_cmpne h d a b s) (flag_decide_of_iff_not Iff.rfl),
    binary_gives_of_eq hf hz (exec_cmplt h d a b s) (flag_decide _),
    binary_gives_of_eq hf hz (exec_cmpltn h d a b s) (flag_decide _),
    binary_gives_of_eq hf hz (exec_cmple h d a b s) (flag_decide_of_iff_not not_lt.symm),
    binary_gives_of_eq hf hz (exec_cmplen h d a b s) (flag_decide_of_iff_not not_lt.symm)⟩

/-- Settles O2: the multiplies by the plan of a two-source word, the divisions by that plan with its warning at issue. -/
theorem scalarMulDivResults : Obligations.ScalarMulDivResults := by
  intro s h d a b hf x y st divides
  refine ⟨fun hz => ⟨?mul, ?mulh, ?mulhn⟩, fun hz => ⟨?div, ?divn, ?rem, ?remn⟩⟩
  case mul => exact binary_gives_of_eq hf hz (exec_mul h d a b s) (mul_eq_ofNat_mul _ _)
  case mulh => exact binary_gives_of_eq hf hz (exec_mulh h d a b s) rfl
  case mulhn => exact binary_gives_of_eq hf hz (exec_mulhn h d a b s) rfl
  case div => exact div_leaves hf hz (exec_div h d a b s) rfl
  case divn => exact div_leaves hf hz (exec_divn h d a b s) rfl
  case rem => exact div_leaves hf hz (exec_rem h d a b s) (remWord_eq_sub _ _)
  case remn => exact div_leaves hf hz (exec_remn h d a b s) rfl
end

section
/-!
The one-source, immediate and select words: what each one's function of its operands is in the terms of its rule, and the
issue of a word that flies one result.
-/

namespace Sys2Proof.Machine

open Sys2Proof

/-! ### The counts, as what they count -/

theorem clzFrom_le (a n : Nat) : clzFrom a n ≤ n := by
  induction n with
  | zero => exact Nat.le_refl 0
  | succ n ih => rw [clzFrom]; split <;> omega

/-- The top bits that CLZ counts are zero (R359). -/
theorem testBit_of_clzFrom (a n j : Nat) (hj : n - clzFrom a n ≤ j) (hn : j < n) : a.testBit j = false := by
  induction n with
  | zero => omega
  | succ n ih =>
    rw [clzFrom] at hj
    split at hj
    · omega
    · next hbit =>
      obtain rfl | hlt := Nat.eq_or_lt_of_le (Nat.le_of_lt_succ hn)
      · simpa using hbit
      · exact ih (by omega) hlt

/-- The bit below those that CLZ counts is one (R359). -/
theorem testBit_clzFrom (a n : Nat) (hk : clzFrom a n < n) : a.testBit (n - 1 - clzFrom a n) = true := by
  induction n with
  | zero => omega
  | succ n ih =>
    rw [clzFrom] at hk ⊢
    split at hk
    · next hbit => simp [hbit]
    · next hbit =>
      have hpos : n + 1 - 1 - (1 + clzFrom a n) = n - 1 - clzFrom a n := by omega
      rw [if_neg hbit, hpos]
      exact ih (by omega)

theorem ctzFrom_le (a i n : Nat) : ctzFrom a i n ≤ n := by
  induction n generalizing i with
  | zero => exact Nat.le_refl 0
  | succ n ih =>
    have := ih (i + 1)
    rw [ctzFrom]; split <;> omega

/-- The bits from i on that CTZ counts are zero (R359). -/
theorem testBit_of_ctzFrom (a i n j : Nat) (hj : j < ctzFrom a i n) : a.testBit (i + j) = false := by
  induction n generalizing i j with
  | zero => exact absurd hj (Nat.not_lt_zero j)
  | succ n ih =>
    rw [ctzFrom] at hj
    split at hj
    · exact absurd hj (Nat.not_lt_zero j)
    · next hbit =>
      cases j with
      | zero => simpa using hbit
      | succ j =>
        rw [Nat.add_comm j, ← Nat.add_assoc]
        exact ih (i + 1) j (by omega)

/-- The bit above those that CTZ counts is one (R359). -/
theorem testBit_ctzFrom (a i n : Nat) (hk : ctzFrom a i n < n) : a.testBit (i + ctzFrom a i n) = true := by
  induction n generalizing i with
  | zero => omega
  | succ n ih =>
    rw [ctzFrom] at hk ⊢
    split at hk
    · next hbit => simp [hbit]
    · next hbit =>
      rw [if_neg hbit, ← Nat.add_assoc]
      exact ih (i + 1) (by omega)

/-- POPC counts the places of the one bits (R359). -/
theorem onesIn_eq_length_filter (a n : Nat) : onesIn a n = ((List.range n).filter fun j => a.testBit j).length := by
  induction n with
  | zero => rfl
  | succ n ih =>
    rw [onesIn, ih, List.range_succ, List.filter_append, List.length_append, Nat.add_comm]
    cases h : a.testBit n <;> simp [h]

/-! ### The extensions, shifts and halves, as their rules give them -/

/-- The signed value of a word's low n bits is that of the word cut to n bits (R10). -/
theorem signed_toNat {m : Nat} (n : Nat) (hn : 0 < n) (x : BitVec m) : signed n x.toNat = (x.setWidth n).toInt := by
  have hhalf : 2 * 2 ^ (n - 1) = 2 ^ n := mul_pow_sub_one (Nat.ne_of_gt hn) 2
  have hiff : 2 ^ (n - 1) ≤ x.toNat % 2 ^ n ↔ ¬ 2 * (x.toNat % 2 ^ n) < 2 ^ n := by omega
  rw [signed, BitVec.toInt_eq_toNat_cond, BitVec.toNat_setWidth]
  simp only [hiff, ite_not]
  push_cast
  rfl

theorem extWidth_pos (w : BitVec 5) : 0 < extWidth w := Nat.mul_pos (by decide) (Nat.two_pow_pos _)

/-- SEXT's result is the sign extension of the low part that its width code names (R422). -/
theorem ofInt_signed_eq_signExtend (x : Word64) (w : BitVec 5) :
    BitVec.ofInt 64 (signed (extWidth w) x.toNat) = (x.setWidth (8 * 2 ^ w.toNat)).signExtend 64 := by
  rw [signed_toNat _ (extWidth_pos w)]
  rfl

/-- ZEXT's result is the zero extension of the low part that its width code names (R422). -/
theorem ofNat_mod_eq_setWidth (x : Word64) (w : BitVec 5) :
    BitVec.ofNat 64 (x.toNat % 2 ^ extWidth w) = (x.setWidth (8 * 2 ^ w.toNat)).setWidth 64 :=
  BitVec.eq_of_toNat_eq (by simp [extWidth])

/-- LIH's result has the immediate as its high half and the low half of A below it (R390). -/
theorem append_setWidth_eq_ofNat (imm : Word32) (x : Word64) :
    imm ++ x.setWidth 32 = BitVec.ofNat 64 (imm.toNat * 2 ^ 32 + x.toNat % 2 ^ 32) := by
  have hlow : x.toNat % 2 ^ 32 < 2 ^ 32 := Nat.mod_lt _ (Nat.two_pow_pos 32)
  have hlt : imm.toNat * 2 ^ 32 + x.toNat % 2 ^ 32 < 2 ^ 64 := by have := imm.isLt; omega
  refine BitVec.eq_of_toNat_eq ?_
  rw [BitVec.toNat_append, BitVec.toNat_setWidth, BitVec.toNat_ofNat, Nat.mod_eq_of_lt hlt, Nat.shiftLeft_eq,
    Nat.mul_comm, Nat.two_pow_add_eq_or_of_lt hlow]

/-! ### Words with one result -/

/-- A word that passes the checks of its issue and flies one result completes with it. -/
theorem plain_gives {i : Instr} {s : State} {len n : Nat} {accepts : List Seq} {mbz bad : Bool} {reads : List Dest} {d : Reg}
    {v : Word64} {st : Bool} {act : State → Except Raise (State × Flow)}
    (hi : exec i s = issueWord (WordPlan.plain len accepts mbz bad reads [(destHere s d, n)] act) s)
    (hq : accepts.contains s.turn.q = true) (hb : bad = false) (hz : NoHazard s reads [(destHere s d, n)])
    (ha : act s = .ok (goOn (flyReg s d n v st))) : Gives i s mbz len d n v st :=
  leaves_goesOn s _ mbz _ hi rfl hq hb rfl rfl hz ha

/-- A one-source word whose function of the operand has been computed. -/
theorem unary_gives_of_eq {i : Instr} {s : State} {h : Hdr} {d a : Reg} {f : Word64 → Word64} {v : Word64}
    (hf : FieldsOk s [d, a]) (hz : NoHazard s [destHere s a] [(destHere s d, 1)])
    (hi : exec i s = issueWord (unaryPlan h d a f s) s) (hv : f (regHere s a).val = v) :
    Gives i s h.mbz 1 d 1 v (regHere s a).static :=
  hv ▸ unary_gives s h d a f hi hf hz

/-- A width word whose width code is not reserved is a one-source word (Table 10.4). -/
theorem widthPlan_eq_unaryPlan (h : Hdr) (d a : Reg) {w : BitVec 5} (f : Word64 → Word64) (s : State) (hw : w.toNat ≤ 2) :
    widthPlan h d a w f s = unaryPlan h d a f s := by
  have hcode : decide (2 < w.toNat) = false := decide_eq_false (Nat.not_lt.mpr hw)
  rw [widthPlan, hcode, Bool.or_false]
  rfl

/-- A width word whose width code is not reserved and whose function of the operand has been computed. -/
theorem width_gives_of_eq {i : Instr} {s : State} {h : Hdr} {d a : Reg} {w : BitVec 5} {f : Word64 → Word64} {v : Word64}
    (hf : FieldsOk s [d, a]) (hz : NoHazard s [destHere s a] [(destHere s d, 1)]) (hw : w.toNat ≤ 2)
    (hi : exec i s = issueWord (widthPlan h d a w f s) s) (hv : f (regHere s a).val = v) :
    Gives i s h.mbz 1 d 1 v (regHere s a).static :=
  unary_gives_of_eq hf hz (widthPlan_eq_unaryPlan h d a f s hw ▸ hi) hv

/-! ### The counting words -/

/-- CLZ completes with the number of zero bits above the highest one bit (R359). -/
theorem clz_gives {s : State} {h : Hdr} {d a : Reg} (hf : FieldsOk s [d, a]) (hz : NoHazard s [destHere s a] [(destHere s d, 1)]) :
    ∃ k, k ≤ 64 ∧ (∀ j, 64 - k ≤ j → (regHere s a).val.getLsbD j = false) ∧ (k < 64 → (regHere s a).val.getLsbD (63 - k) = true) ∧
      Gives (.clz h d a) s h.mbz 1 d 1 (BitVec.ofNat 64 k) (regHere s a).static := by
  refine ⟨_, clzFrom_le _ 64, fun j hj => ?_, testBit_clzFrom _ 64, unary_gives_of_eq hf hz (exec_clz h d a s) rfl⟩
  obtain hlt | hge := Nat.lt_or_ge j 64
  · exact testBit_of_clzFrom _ 64 j hj hlt
  · exact BitVec.getLsbD_of_ge _ j hge

/-- CTZ completes with the number of zero bits below the lowest one bit (R359). -/
theorem ctz_gives {s : State} {h : Hdr} {d a : Reg} (hf : FieldsOk s [d, a]) (hz : NoHazard s [destHere s a] [(destHere s d, 1)]) :
    ∃ k, k ≤ 64 ∧ (∀ j, j < k → (regHere s a).val.getLsbD j = false) ∧ (k < 64 → (regHere s a).val.getLsbD k = true) ∧
      Gives (.ctz h d a) s h.mbz 1 d 1 (BitVec.ofNat 64 k) (regHere s a).static := by
  refine ⟨_, ctzFrom_le _ 0 64, fun j hj => ?_, fun hk => ?_, unary_gives_of_eq hf hz (exec_ctz h d a s) rfl⟩
  · simpa [BitVec.getLsbD] using testBit_of_ctzFrom _ 0 64 j hj
  · simpa [BitVec.getLsbD] using testBit_ctzFrom _ 0 64 hk

end Sys2Proof.Machine

open Sys2Proof Sys2Proof.Machine

/-- Settles O3: each word flies one result, by the plan of a one-source word or by its own, and the result is the one its rule
gives. -/
theorem scalarUnaryResults : Obligations.ScalarUnaryResults := by
  refine ⟨fun s h d a i n hf hz => ⟨clz_gives hf hz, ctz_gives hf hz, ?popc, fun w hw => ⟨?sext, ?zext⟩, ?addi, ?andi, ?ori, ?xori,
    ?shli, ?shri, ?shai⟩, fun s h d a b imm => ⟨fun hf hz => ?sel, fun hq hz => ?li, fun hq hz => ?lih⟩⟩
  case popc => exact unary_gives_of_eq hf hz (exec_popc h d a s) (congrArg (BitVec.ofNat 64) (onesIn_eq_length_filter _ 64))
  case sext => exact width_gives_of_eq hf hz hw (exec_sext h d a w s) (ofInt_signed_eq_signExtend _ w)
  case zext => exact width_gives_of_eq hf hz hw (exec_zext h d a w s) (ofNat_mod_eq_setWidth _ w)
  case addi => exact unary_gives_of_eq hf hz (exec_addi h d a i s) rfl
  case andi => exact unary_gives_of_eq hf hz (exec_andi h d a i s) rfl
  case ori => exact unary_gives_of_eq hf hz (exec_ori h d a i s) rfl
  case xori => exact unary_gives_of_eq hf hz (exec_xori h d a i s) rfl
  case shli => exact unary_gives_of_eq hf hz (exec_shli h d a n s) (shiftLeft_eq_ofNat_mul _ _)
  case shri => exact unary_gives_of_eq hf hz (exec_shri h d a n s) (ushiftRight_eq_ofNat_div _ _)
  case shai => exact unary_gives_of_eq hf hz (exec_shai h d a n s) (sshiftRight_eq_ofInt_div _ _)
  case sel =>
    rw [← ite_not]
    exact plain_gives (exec_sel h d a b s) (accepts_of_fieldsOk s _ hf) (regBad_of_fieldsOk s _ hf) hz rfl
  case li => exact plain_gives (exec_li h d imm s) (by rw [hq]; rfl) rfl hz rfl
  case lih =>
    rw [← append_setWidth_eq_ofNat]
    exact plain_gives (exec_lih h d a imm s) (by rw [hq]; rfl) rfl hz rfl
end

section
/-!
The vector words with a vector destination: the issue of a word by its form, and the integer, logic, select and carry-less words
as uses of it.
-/

namespace Sys2Proof.Machine

open Sys2Proof

/-! ### Words by their form -/

@[simp] theorem popSources_cyc (w : VecWord) (f : VecForm) (s : State) : (popSources w f s).cyc = s.cyc := rfl

/-- A vector result goes under way within the running cycle, whichever its destination. -/
@[simp] theorem deliverLanes_cyc (s : State) (dst n : Nat) (active : BitVec 128) (w64 : Bool) (l : Lanes) :
    (deliverLanes s dst n active w64 l).cyc = s.cyc := by
  unfold deliverLanes
  split
  · rfl
  · split <;> rfl

/-- The effect of a vector word that writes no mask register: its lanes on their way to its destination (R432, R433). -/
theorem vecAct_of_toMask_none (w : VecWord) {f : VecForm} (fn : VecArgs → VecResult) (s : State) (hm : f.toMask = none) :
    let x := vecArgs w f s
    vecAct w f fn s = .ok (deliverLanes (warnHereIf (fn x).nanz warnNanz (popSources w f s)) w.dst.toNat f.lat x.active (ty64 f.ty)
      (fn x).lanes, .on (s.cyc + 1) false) := by
  simp only [vecAct, hm, goOn, deliverLanes_cyc, warnHereIf_cyc, popSources_cyc]

/-- A word that issues by the plan of a form without a mask destination gives the lanes of its function (R432, R433). -/
theorem givesLanes_of_issueWord {i : Instr} {s : State} {w : VecWord} {f : VecForm} {fn : VecArgs → VecResult}
    (hi : exec i s = issueWord (vecPlan w f fn) s) (hm : f.toMask = none) : GivesLanes i s w f fn := by
  intro hq hb hs hz
  have hx : (vecPlan w f fn).accepts.contains s.turn.q = true := by rw [hq]; rfl
  rw [hi]
  exact issueWord_acts (vecPlan w f fn) s _ _ hx hb hs rfl hz (vecAct_of_toMask_none w fn s hm)

/-- A word that issues by the plan of a form without a mask destination and of a function of each lane gives any lanes equal to
that function's. -/
theorem givesEachLane_of_issueWord {i : Instr} {s : State} {w : VecWord} {f : VecForm} {lane result : VecArgs → Nat → Word32}
    (hi : exec i s = issueWord (vecPlan w f fun x => .of (tabulate (lane x))) s) (hm : f.toMask = none)
    (hl : ∀ x j, lane x j = result x j) : GivesEachLane i s w f result := by
  obtain rfl : lane = result := funext₂ hl
  exact givesLanes_of_issueWord hi hm

/-! ### Integer and logic words -/

/-- An integer word gives its elements: the exact value, clamped to the TYPE's range under SAT, its low bits kept (R439). -/
theorem intOp_gives {i : Instr} {s : State} {w : VecWord} {b c narrow : Bool} {f : Nat → Nat → Nat → Nat → Int}
    (hi : exec i s = intOp w b c narrow f s) :
    GivesEachLane i s w (intForm w b c narrow) fun x j =>
      let t := intType w narrow
      let v := f t (elemAt t x.a j) (elemAt t x.b j) (elemAt t x.c j)
      elemLane t (if w.sat = 1 then max (tyMin t) (min (tyMax t) v) else v) j :=
  givesEachLane_of_issueWord hi rfl fun _ _ => rfl

/-- The form of the logic words and of VSEL, which read whole lanes: SA and SB, and SC where `c` says so (R435, R449). -/
def wholeLaneForm (w : VecWord) (c : Bool) : VecForm :=
  ⟨true, true, c, true, false, true, 0, laneTypeMod w ++ (rndMod w ++ satMod w), laneType w, 1, none, []⟩

/-- A logic word gives its function of whole lanes (R435). -/
theorem logicOp_gives {i : Instr} {s : State} {w : VecWord} {f : Word32 → Word32 → Word32} (hi : exec i s = logicOp w f s) :
    GivesEachLane i s w (wholeLaneForm w false) fun x j => f (laneAt x.a j) (laneAt x.b j) :=
  givesEachLane_of_issueWord hi rfl fun _ _ => rfl

/-! ### Select and the carry-less product -/

/-- VSEL gives the lane of SA where the condition's lane is nonzero, and that of SB elsewhere (R449). -/
theorem vsel_gives (s : State) (w : VecWord) :
    GivesEachLane (.vsel w) s w (wholeLaneForm w true) fun x j =>
      if laneAt x.c (if ty64 (laneType w) then j / 2 * 2 else j) = 0 then laneAt x.b j else laneAt x.a j :=
  givesEachLane_of_issueWord (exec_vsel w s) rfl fun _ _ => ite_not _ _ _

/-- The form of VCLMUL, whose TYPE t has 64-bit elements (R326). -/
def clmulForm (w : VecWord) (t : Nat) : VecForm :=
  ⟨true, true, false, true, decide (8 ≤ w.fn.toNat), false, 0, (if ty64 w.ty.toNat then [] else [warnMod]) ++ (rndMod w ++ satMod w),
    t, 4, none, []⟩

/-- VCLMUL gives the high or the low half of the carry-less product of its elements, each whole or its low half (R326). -/
theorem vclmul_gives (s : State) (w : VecWord) :
    let t := if ty64 w.ty.toNat then w.ty.toNat else 14
    GivesEachLane (.vclmul w) s w (clmulForm w t) fun x j =>
      let p := clmul64 (clmulHalf (w.fn.getLsbD 1) (elemAt t x.a j)) (clmulHalf (w.fn.getLsbD 2) (elemAt t x.b j))
      elemLane t ((if w.fn.getLsbD 0 then p / 2 ^ 64 else p % 2 ^ 64 : Nat) : Int) j :=
  givesEachLane_of_issueWord (exec_vclmul w s) rfl fun _ _ => rfl

end Sys2Proof.Machine

open Sys2Proof Sys2Proof.Machine

/-- Settles O24: each word issues by the plan of its form, the integer words by their shared operation, the logic words by theirs,
VSEL and VCLMUL by their own. -/
theorem vectorIntegerResults : Obligations.VectorIntegerResults := by
  intro s w int logic
  exact ⟨
    (intOp_gives (exec_viadd w s) :),
    (intOp_gives (exec_visub w s) :),
    (intOp_gives (exec_vimul w s) :),
    (intOp_gives (exec_vimulh w s) :),
    (intOp_gives (exec_vimac w s) :),
    (intOp_gives (exec_vshl w s) :),
    (intOp_gives (exec_vshr w s) :),
    (intOp_gives (exec_vsha w s) :),
    (intOp_gives (exec_vimin w s) :),
    (intOp_gives (exec_vimax w s) :),
    (intOp_gives (exec_vpopc w s) :),
    (logicOp_gives (exec_vand w s) :),
    (logicOp_gives (exec_vor w s) :),
    (logicOp_gives (exec_vxor w s) :),
    (logicOp_gives (exec_vandn w s) :),
    vsel_gives s w,
    vclmul_gives s w⟩
end
